-- ==== Sys2Proof/Word.lean ====
section
/-! DEFINITION. The word types of the Klolum 9 (R2, 00_scope.md) and their plainest operations. -/

namespace Sys2Proof

/-- A byte. -/
abbrev Byte := BitVec 8
/-- A 16-bit parcel of text (R34). -/
abbrev Parcel := BitVec 16
/-- A vector lane, and an F32 (R54). -/
abbrev Lane := BitVec 32
/-- A 64-bit double: a queue register's value, a CSR, a register of the window. -/
abbrev Dbl := BitVec 64
/-- An address of task text, 48 bits (R342, R398). -/
abbrev Pc := BitVec 48
/-- A tile's physical number, PTILE (R6). -/
abbrev PTile := BitVec 7
/-- A context number (R11). -/
abbrev Ctx := BitVec 5
/-- 512 lane bits: a mask register (R123). -/
abbrev Mask := BitVec 512

/-- A Bool as one bit. -/
def bit (b : Bool) (n : Nat) : BitVec n := if b then 1#n else 0#n

end Sys2Proof
end

