-- ==== Sys2Proof/Machine/Flags.lean ====
section
/-! DEFINITION. Floating-point values, the one rounding of R56 and the flag computations of R57 and R58
(04_numbers.md). Everything is exact arithmetic on natural numbers and integers. -/

namespace Sys2Proof.Machine

/-- Sticky bits as they stand in VFLAGS (R124): NV, DZ, OF, UF, NX from bit 4 down. -/
abbrev Fl := BitVec 5
/-- NV (R57). -/
def flNV : Fl := 16
/-- DZ (R57). -/
def flDZ : Fl := 8
/-- OF (R57). -/
def flOF : Fl := 4
/-- UF (R57). -/
def flUF : Fl := 2
/-- NX (R57). -/
def flNX : Fl := 1

/-- A floating-point value (R55): the canonical NaN, an infinity, or (−1)^neg · m · 2^e; m = 0 is a zero of that sign. -/
inductive FV where
  | nan
  | inf (neg : Bool)
  | fin (neg : Bool) (m : Nat) (e : Int)
  deriving DecidableEq, Repr

/-- A value with the flags its computation raises. -/
structure FR where
  bits : Lane
  fl : Fl
  deriving DecidableEq, Repr

/-- The number of significant bits of a natural number. -/
def bitLen (m : Nat) : Nat := if m = 0 then 0 else m.log2 + 1

/-- The value of an F32 (R55); with FZI a subnormal is a zero of its sign (R58). -/
def unpack (fzi : Bool) (x : Lane) : FV :=
  let neg := x.getLsbD 31
  let ex := (x.extractLsb' 23 8).toNat
  let fr := (x.extractLsb' 0 23).toNat
  if ex = 255 then (if fr = 0 then .inf neg else .nan)
  else if ex = 0 then .fin neg (if fzi then 0 else fr) (-149)
  else .fin neg (fr + 2 ^ 23) ((ex : Int) - 150)

/-- The value of a BF16, the upper half of an F32 (R55). -/
def unpackB (fzi : Bool) (x : BitVec 16) : FV := unpack fzi (x ++ 0#16)

/-- Whether the magnitude, cut at n units with remainder `rem` of `unit` and more below it where `sticky`, is rounded up
(R56). -/
def roundsUp (rm : BitVec 2) (neg : Bool) (n rem unit : Nat) (sticky : Bool) : Bool :=
  match rm.toNat with
  | 0 => unit < 2 * rem || (2 * rem = unit && (sticky || n % 2 = 1))
  | 1 => false
  | 2 => neg && (rem ≠ 0 || sticky)
  | _ => !neg && (rem ≠ 0 || sticky)

/-- m · 2^e, and more below where `sticky`, rounded to a multiple of 2^q: the multiple, and whether it is inexact. A sticky
value is given with bits below 2^q. -/
def roundAt (rm : BitVec 2) (neg : Bool) (m : Nat) (e : Int) (sticky : Bool) (q : Int) : Nat × Bool :=
  if q ≤ e then (m * 2 ^ (e - q).toNat, sticky)
  else
    let sh := (q - e).toNat
    let sh := min sh (bitLen m + 2)
    let n := m / 2 ^ sh
    let rem := m % 2 ^ sh
    (n + (if roundsUp rm neg n rem (2 ^ sh) sticky then 1 else 0), rem ≠ 0 || sticky)

/-- Formats of `p` bits of precision: F32 has 24, BF16 has 8; both have 8 exponent bits. The exponent of the lowest bit of
a subnormal. -/
def lowest (p : Nat) : Int := -126 - ((p : Int) - 1)

/-- The magnitude bits above every finite value: those of an infinity. -/
def infMag (p : Nat) : Nat := 255 * 2 ^ (p - 1)

/-- The delivered magnitude of an overflow (R56). -/
def overflowMag (p : Nat) (rm : BitVec 2) (neg : Bool) : Nat :=
  match rm.toNat with
  | 0 => infMag p
  | 1 => infMag p - 1
  | 2 => if neg then infMag p else infMag p - 1
  | _ => if neg then infMag p - 1 else infMag p

/-- The rounding of R56 with the flags of R57 and FZO of R58: sign and magnitude bits, right-aligned. `m` is not 0, or
`sticky` holds. -/
def fround (p : Nat) (rm : BitVec 2) (fzo neg : Bool) (m : Nat) (e : Int) (sticky : Bool) : FR :=
  let top := e + (bitLen m : Int) - 1
  let q0 := top - ((p : Int) - 1)
  let q := max q0 (lowest p)
  let (n, inexact) := roundAt rm neg m e sticky q
  let mag := (q - lowest p).toNat * 2 ^ (p - 1) + n
  let full := (roundAt rm neg m e sticky q0).1
  let tiny : Bool := top < -126 && !(top = -127 && full = 2 ^ p)
  let huge : Bool := infMag p ≤ mag
  let mag := if huge then overflowMag p rm neg else mag
  let fl : Fl := if huge then flOF ||| flNX
    else (if inexact then flNX else 0) ||| (if tiny && inexact then flUF else 0)
  let flush : Bool := fzo && 0 < mag && mag < 2 ^ (p - 1)
  let mag := if flush then 0 else mag
  let fl := if flush then fl ||| flUF ||| flNX else fl
  let sign := if neg then 2 ^ (p + 7) else 0
  ⟨BitVec.ofNat 32 (sign + mag), fl⟩

/-- The canonical NaN of a format (R57). -/
def nanBits (p : Nat) : Lane := BitVec.ofNat 32 (infMag p + 2 ^ (p - 2))
/-- An infinity of a format. -/
def infBits (p : Nat) (neg : Bool) : Lane := BitVec.ofNat 32 ((if neg then 2 ^ (p + 7) else 0) + infMag p)
/-- A zero of a format. -/
def zeroBits (p : Nat) (neg : Bool) : Lane := BitVec.ofNat 32 (if neg then 2 ^ (p + 7) else 0)

/-- A value delivered in a format. -/
def deliver (p : Nat) (rm : BitVec 2) (fzo : Bool) : FV → FR
  | .nan => ⟨nanBits p, 0⟩
  | .inf n => ⟨infBits p n, 0⟩
  | .fin n 0 _ => ⟨zeroBits p n, 0⟩
  | .fin n m e => fround p rm fzo n m e false

end Sys2Proof.Machine
end

