-- ==== Sys2Proof/Machine/Num.lean ====
section
/-! DEFINITION. Exact arithmetic (04_numbers.md): sums, products, functions, conversions, scales, L6 codes, fixed orders of
values and draws (R54–R75). -/

namespace Sys2Proof.Machine

/-! ### Sums and products (R56, R57) -/

/-- The canonical NaN, with NV where the operation is invalid. -/
def nanR (p : Nat) (fl : Fl) : FR := ⟨nanBits p, fl⟩

/-- Negation of a value; a NaN stays. -/
def FV.neg : FV → FV
  | .nan => .nan
  | .inf n => .inf !n
  | .fin n m e => .fin (!n) m e

/-- The exact sum of two finite values, in units of 2^min. -/
def sumUnits (n1 : Bool) (m1 : Nat) (e1 : Int) (n2 : Bool) (m2 : Nat) (e2 : Int) : Int × Int :=
  let e := min e1 e2
  let a : Int := (m1 : Int) * 2 ^ (e1 - e).toNat
  let b : Int := (m2 : Int) * 2 ^ (e2 - e).toNat
  ((if n1 then -a else a) + (if n2 then -b else b), e)

/-- The sign of an exact zero sum (R56, as IEEE 754): the common sign, else + but − under RM 10. -/
def zeroSign (rm : BitVec 2) (n1 n2 : Bool) : Bool := if n1 = n2 then n1 else rm = 2

/-- a + b, rounded once. -/
def fadd (p : Nat) (rm : BitVec 2) (fzo : Bool) (a b : FV) : FR :=
  match a, b with
  | .nan, _ => nanR p 0
  | _, .nan => nanR p 0
  | .inf x, .inf y => if x = y then ⟨infBits p x, 0⟩ else nanR p flNV
  | .inf x, _ => ⟨infBits p x, 0⟩
  | _, .inf y => ⟨infBits p y, 0⟩
  | .fin n1 m1 e1, .fin n2 m2 e2 =>
    let (v, e) := sumUnits n1 m1 e1 n2 m2 e2
    if v = 0 then
      ⟨zeroBits p (zeroSign rm n1 n2), 0⟩
    else fround p rm fzo (v < 0) v.natAbs e false

/-- The exact product; the flag says whether it is invalid. -/
def fmulExact (a b : FV) : FV × Bool :=
  match a, b with
  | .nan, _ => (.nan, false)
  | _, .nan => (.nan, false)
  | .inf x, .inf y => (.inf (x != y), false)
  | .inf x, .fin n m _ => if m = 0 then (.nan, true) else (.inf (x != n), false)
  | .fin n m _, .inf y => if m = 0 then (.nan, true) else (.inf (n != y), false)
  | .fin n1 m1 e1, .fin n2 m2 e2 => (.fin (n1 != n2) (m1 * m2) (e1 + e2), false)

/-- a × b, rounded once. -/
def fmul (p : Nat) (rm : BitVec 2) (fzo : Bool) (a b : FV) : FR :=
  let (v, bad) := fmulExact a b
  if bad then nanR p flNV else deliver p rm fzo v

/-- a × b + c, rounded once. A NaN operand raises no flag of its own (R57). -/
def ffma (p : Nat) (rm : BitVec 2) (fzo : Bool) (a b c : FV) : FR :=
  let (v, bad) := fmulExact a b
  if c = .nan then nanR p (if bad then flNV else 0)
  else if bad then nanR p flNV
  else fadd p rm fzo v c

/-! ### Order (R72, R73, R136, R143) -/

/-- The order of F32 numbers as integers: −0 and +0 both 0; a NaN is not asked for. -/
def fkey (x : Lane) : Int :=
  let m : Int := ((x.extractLsb' 0 31).toNat : Int)
  if x.getLsbD 31 then -m else m
/-- The same order with −0 below +0 (R72, R136). -/
def fkey0 (x : Lane) : Int :=
  let m : Int := ((x.extractLsb' 0 31).toNat : Int)
  if x.getLsbD 31 then -m - 1 else m
/-- An F32 NaN. -/
def isNanL (x : Lane) : Bool := 0x7F800000 < (x.extractLsb' 0 31).toNat
/-- FZI on an F32 pattern (R58). -/
def flushIn (fzi : Bool) (x : Lane) : Lane :=
  if fzi && x.extractLsb' 23 8 = 0#8 then x &&& 0x80000000#32 else x
/-- FZO on an F32 result with its flags (R58). -/
def flushOut (fzo : Bool) (x : Lane) : FR :=
  if fzo && x.extractLsb' 23 8 = 0#8 && x.extractLsb' 0 23 ≠ 0#23 then ⟨x &&& 0x80000000#32, flUF ||| flNX⟩ else ⟨x, 0⟩
/-- The smaller or larger of two F32 values (R136): a NaN yields the other, two NaNs the canonical NaN. -/
def fpick (larger : Bool) (a b : Lane) : Lane :=
  if isNanL a then (if isNanL b then nanBits 24 else b)
  else if isNanL b then a
  else if (fkey0 a < fkey0 b) != larger then a else b

/-! ### Square roots of natural numbers -/

/-- Newton's iteration downward from an estimate not below the root. -/
def isqrtGo (m : Nat) : Nat → Nat → Nat
  | 0, r => r
  | n + 1, r => let q := (r + m / r) / 2; if r ≤ q then r else isqrtGo m n q

/-- ⌊√m⌋. -/
def isqrt (m : Nat) : Nat := if m = 0 then 0 else isqrtGo m (bitLen m + 8) (2 ^ ((bitLen m + 1) / 2))

/-! ### Functions (R70, R138) -/

/-- 1/x. -/
def frcp (rm : BitVec 2) (fzo : Bool) (a : FV) : FR :=
  match a with
  | .nan => nanR 24 0
  | .inf n => ⟨zeroBits 24 n, 0⟩
  | .fin n m e =>
    if m = 0 then ⟨infBits 24 n, flDZ⟩ else
    let k := bitLen m + 80
    fround 24 rm fzo n (2 ^ k / m) (-(k : Int) - e) (2 ^ k % m ≠ 0)

/-- √x. -/
def fsqrt (rm : BitVec 2) (fzo : Bool) (a : FV) : FR :=
  match a with
  | .nan => nanR 24 0
  | .inf n => if n then nanR 24 flNV else ⟨infBits 24 false, 0⟩
  | .fin n m e =>
    if m = 0 then ⟨zeroBits 24 n, 0⟩
    else if n then nanR 24 flNV
    else
      let odd : Bool := e % 2 ≠ 0
      let w := (if odd then 2 * m else m) * 2 ^ 120
      let e' := (if odd then e - 1 else e) - 120
      let r := isqrt w
      fround 24 rm fzo false r (e' / 2) (r * r ≠ w)

/-- 1/√x. -/
def frsq (rm : BitVec 2) (fzo : Bool) (a : FV) : FR :=
  match a with
  | .nan => nanR 24 0
  | .inf n => if n then nanR 24 flNV else ⟨zeroBits 24 false, 0⟩
  | .fin n m e =>
    if m = 0 then ⟨infBits 24 n, flDZ⟩
    else if n then nanR 24 flNV
    else
      let odd : Bool := e % 2 ≠ 0
      let w := if odd then 2 * m else m
      let e' := if odd then e - 1 else e
      let k := 2 * (bitLen w + 60)
      let r := isqrt (2 ^ k / w)
      fround 24 rm fzo false r (-(k : Int) / 2 - e' / 2) (r * r * w ≠ 2 ^ k)

/-- Fraction bits of the working precision of 2^x and log2 x. No result of theirs that is not exact lies within 2^−150
of a rounding boundary, so the working error of less than 2^−200 never decides a rounding (DEDUCED, log 19). -/
def workBits : Nat := 288

/-- 2^f · 2^workBits for a fraction f given by its bits below the point, highest first, each worth the root of the last:
`root` is 2^(2^−j) in working units. -/
def exp2Go (f bits : Nat) : Nat → Nat → Nat → Nat
  | 0, _, acc => acc
  | n + 1, root, acc =>
    let root := isqrt (root * 2 ^ workBits)
    exp2Go f bits n root (if f / 2 ^ n % 2 = 1 then acc * root / 2 ^ workBits else acc)

/-- 2^x. -/
def fexp2 (rm : BitVec 2) (fzo : Bool) (a : FV) : FR :=
  match a with
  | .nan => nanR 24 0
  | .inf n => ⟨if n then zeroBits 24 false else infBits 24 false, 0⟩
  | .fin n m e =>
    if m = 0 then ⟨0x3F800000#32, 0⟩
    else if 0 ≤ e then
      let i : Int := (m : Int) * 2 ^ e.toNat
      fround 24 rm fzo false 1 (if n then -i else i) false
    else
      let bits := (-e).toNat
      let v : Int := if n then -(m : Int) else m
      let i := v / 2 ^ bits
      let f := (v % 2 ^ bits).toNat
      if f = 0 then fround 24 rm fzo false 1 i false
      else fround 24 rm fzo false (exp2Go f bits bits (2 * 2 ^ workBits) (2 ^ workBits)) (i - (workBits : Int)) true

/-- Bits of log2 y for y in working units, in [1, 2): squaring doubles the logarithm. -/
def log2Go : Nat → Nat → Nat → Nat
  | 0, _, acc => acc
  | n + 1, y, acc =>
    let y := y * y / 2 ^ 480
    if 2 ^ 481 ≤ y then log2Go n (y / 2) (2 * acc + 1) else log2Go n y (2 * acc)

/-- log2 x. -/
def flog2 (rm : BitVec 2) (fzo : Bool) (a : FV) : FR :=
  match a with
  | .nan => nanR 24 0
  | .inf n => if n then nanR 24 flNV else ⟨infBits 24 false, 0⟩
  | .fin n m e =>
    if m = 0 then ⟨infBits 24 true, flDZ⟩
    else if n then nanR 24 flNV
    else
      let top := e + (bitLen m : Int) - 1
      if m = 2 ^ (bitLen m - 1) then
        (if top = 0 then ⟨0, 0⟩ else fround 24 rm fzo (top < 0) top.natAbs 0 false)
      else
        let v : Int := top * 2 ^ 160 + log2Go 160 (m * 2 ^ (480 + 1 - bitLen m)) 0
        if 0 ≤ v then fround 24 rm fzo false v.toNat (-160) true
        else fround 24 rm fzo true (-v - 1).toNat (-160) true

/-! ### Conversions (R69) -/

/-- A finite value rounded to an integer under RM, and whether it was inexact. -/
def roundInt (rm : BitVec 2) (neg : Bool) (m : Nat) (e : Int) : Int × Bool :=
  let (n, x) := roundAt rm neg m e false 0
  (if neg then -(n : Int) else n, x)

/-- F32 to I32 or U32: out of range saturates with NV; NaN gives 0 with NV. -/
def toInt32 (signed : Bool) (rm : BitVec 2) (a : FV) : FR :=
  let lo : Int := if signed then -(2 ^ 31) else 0
  let hi : Int := if signed then 2 ^ 31 - 1 else 2 ^ 32 - 1
  match a with
  | .nan => ⟨0, flNV⟩
  | .inf n => ⟨BitVec.ofInt 32 (if n then lo else hi), flNV⟩
  | .fin n m e =>
    let (v, x) := roundInt rm n m e
    if v < lo then ⟨BitVec.ofInt 32 lo, flNV⟩
    else if hi < v then ⟨BitVec.ofInt 32 hi, flNV⟩
    else ⟨BitVec.ofInt 32 v, if x then flNX else 0⟩

/-- An integer to F32. -/
def ofInt32 (rm : BitVec 2) (fzo : Bool) (v : Int) : FR :=
  if v = 0 then ⟨0, 0⟩ else fround 24 rm fzo (v < 0) v.natAbs 0 false

/-- A finite F32 times the scale of an E8 byte (R61). -/
def scaleBy (rm : BitVec 2) (fzo : Bool) (a : FV) (s : Byte) : FR :=
  match a with
  | .nan => nanR 24 0
  | .inf n => if s = 0 then nanR 24 flNV else ⟨infBits 24 n, 0⟩
  | .fin n m e =>
    if m = 0 || s = 0 then ⟨zeroBits 24 n, 0⟩
    else if s = 255 then ⟨BitVec.ofNat 32 ((if n then 2 ^ 31 else 0) + infMag 24 - 1), flOF⟩
    else fround 24 rm fzo n m (e + (s.toNat : Int) - 127) false

/-- E8 to F32 (R69). -/
def ofE8 (s : Byte) : Lane :=
  if s = 0 then 0 else if s = 255 then 0x7F7FFFFF#32 else BitVec.ofNat 32 (s.toNat * 2 ^ 23)

/-- F32 to E8 (R69): the biased exponent; NaN gives 255 with NV. -/
def toE8 (x : Lane) : FR := ⟨(x.extractLsb' 23 8).setWidth 32, if isNanL x then flNV else 0⟩

/-! ### L6 (R62–R68) -/

/-- The table T (R63). -/
def l6T (f : Nat) : Nat := match f with | 0 => 32768 | 1 => 38968 | 2 => 46341 | _ => 55109

/-- The log k of a code, −16 to 15. -/
def l6k (c : BitVec 6) : Int := (c.extractLsb' 0 5).toInt

/-- The value of a code (R63); a zero code is +0. -/
def l6Val (c : BitVec 6) : FV :=
  let k := l6k c
  if k = -16 then .fin false 0 0
  else .fin (c.getLsbD 5) (l6T (k % 4).toNat) (k / 4 - 15)

/-- The product of two codes in accumulator units of 2^−23 (R64). -/
def l6Prod (a b : BitVec 6) : Int :=
  let ka := l6k a
  let kb := l6k b
  if ka = -16 || kb = -16 then 0
  else
    let p := ka + kb
    let v : Int := (l6T (p % 4).toNat : Int) * 2 ^ (p / 4 + 8).toNat
    if a.getLsbD 5 != b.getLsbD 5 then -v else v

/-- θ_j and, at j = 15, B (R67), as F32 patterns: one table row, the exponent by ⌊j/4⌋. -/
def theta (j : Int) : Lane :=
  let base : Nat := match (j % 4).toNat with | 0 => 0x3F8B95C2 | 1 => 0x3FA5FED7 | 2 => 0x3FC5672A | _ => 0x3FEAC0C7
  BitVec.ofInt 32 (Int.ofNat base + j / 4 * 2 ^ 23)

/-- m1 · 2^e1 ≤ m2 · 2^e2. -/
def leDyadic (m1 : Nat) (e1 : Int) (m2 : Nat) (e2 : Int) : Bool :=
  let e := min e1 e2
  m1 * 2 ^ (e1 - e).toNat ≤ m2 * 2 ^ (e2 - e).toNat

/-- A threshold's significand and exponent. -/
def thetaParts (j : Int) : Nat × Int :=
  match unpack false (theta j) with
  | .fin _ m e => (m, e)
  | _ => (0, 0)

/-- Whether |x| · 2^(127 − s) ≤ B (R68). -/
def fitsScale (m : Nat) (e : Int) (s : Nat) : Bool :=
  let b := thetaParts 15
  leDyadic m (e + 127 - s) b.1 b.2

/-- l6code(x, e) of R68 with its flags; `s` is the scale byte, 255 counting as 254. -/
def l6code (x : FV) (s : Byte) : BitVec 6 × Fl :=
  match x with
  | .nan => (0x0F, flNV)
  | .inf n => (if n then 0x2F else 0x0F, flOF)
  | .fin n m e =>
    let s := min s.toNat 254
    if s = 0 || m = 0 then (0x10, 0) else
    let ee := e + 127 - s
    let passed := (List.range 31).filter (fun (i : Nat) =>
      let t := thetaParts ((i : Int) - 16)
      leDyadic t.1 t.2 m ee)
    if passed.isEmpty then (0x10, 0) else
    let k : Int := (passed.length : Int) - 16
    let fl := if fitsScale m e s then 0 else flOF
    (BitVec.ofInt 6 (k % 32) ||| (if n then 0x20 else 0), fl)

/-- The scale of R68 for a block: from the largest finite magnitude; the smallest e of 1–254 that fits. -/
def l6Scale (xs : List FV) : Byte :=
  let top := xs.foldl (fun (m : Nat × Int) x =>
    match x with
    | .fin _ a e => if leDyadic a e m.1 m.2 then m else (a, e)
    | _ => m) (0, 0)
  if top.1 = 0 then 0
  else BitVec.ofNat 8 (((List.range 254).find? (fun i => fitsScale top.1 top.2 (i + 1))).getD 253 + 1)

/-- A code moved from a scale to one that is `d` higher (R68): 4d off its log; below −15 it is zero. -/
def l6Shift (c : BitVec 6) (d : Nat) : BitVec 6 :=
  let k := l6k c
  if k = -16 then 0x10
  else if k - 4 * d < -15 then 0x10
  else BitVec.ofInt 6 ((k - 4 * d) % 32) ||| (if c.getLsbD 5 then 0x20 else 0)

/-- The drain of an L6 cell (R65): the int40 value times 2^−23, to nearest even. -/
def l6Drain (v : BitVec 40) : Lane :=
  let i := v.toInt
  if i = 0 then 0 else (fround 24 0 false (i < 0) i.natAbs (-23) false).bits

/-! ### Draws (R74) -/

/-- fmix64. -/
def fmix64 (x : BitVec 64) : BitVec 64 :=
  let x := x ^^^ (x >>> 33)
  let x := x * 0xFF51AFD7ED558CCD#64
  let x := x ^^^ (x >>> 33)
  let x := x * 0xC4CEB9FE1A85EC53#64
  x ^^^ (x >>> 33)

/-- The F32 of a draw under SUB 1: (u >> 8) × 2^−24, exact. -/
def drawF32 (u : BitVec 32) : Lane :=
  if u.toNat / 256 = 0 then 0 else (fround 24 0 false false (u.toNat / 256) (-24) false).bits

end Sys2Proof.Machine
end

