-- ==== Sys2Proof/Syntax.lean ====
section
/-! DEFINITION. The abstract form of every step of the part: the encoded instructions of the four opcode maps (R40–R48,
03_encoding.md) and the events, commands and window writes that spec/opcode_table.json lists. An instruction holds
only the fields its entry uses; every reserved field is zero in its encoding. -/

namespace Sys2Proof

/-- The four engines, in the order of the ENG field (R34). -/
inductive Eng where
  | c | v | m | x
  deriving DecidableEq, Repr

/-- Virtual channels (R329). -/
inductive Vc where
  | g | w | b
  deriving DecidableEq, Repr

/-- MSK and MNEG of a vector instruction (R132). -/
structure Msk where
  msk : BitVec 3
  mneg : Bool
  deriving DecidableEq, Repr

/-- FZI, FZO and RM of a vector instruction (R45). -/
structure Rnd where
  fzi : Bool
  fzo : Bool
  rm : BitVec 2
  deriving DecidableEq, Repr

/-- Operands of LD, LDS, LDA (R192). -/
structure CLoad where
  d : BitVec 4
  sz : BitVec 2
  a : BitVec 4
  cls : BitVec 4
  scope : BitVec 3
  ka : Bool
  off : BitVec 16
  deriving DecidableEq, Repr

/-- Operands of ST, STL (R192). -/
structure CStore where
  d : BitVec 4
  sz : BitVec 2
  a : BitVec 4
  cls : BitVec 4
  scope : BitVec 3
  ka : Bool
  kd : Bool
  off : BitVec 16
  deriving DecidableEq, Repr

/-- Operands of an AMO (R196). `dbl`: SZ 11; otherwise SZ 10. -/
structure CAmo where
  d : BitVec 4
  dbl : Bool
  a : BitVec 4
  cls : BitVec 4
  scope : BitVec 3
  ka : Bool
  kd : Bool
  deriving DecidableEq, Repr

/-- Operands of CAS (R197). -/
structure CCas where
  d : BitVec 4
  dbl : Bool
  a : BitVec 4
  cls : BitVec 4
  scope : BitVec 3
  ka : Bool
  e : BitVec 4
  n : BitVec 4
  deriving DecidableEq, Repr

/-- Operands of VLD, VST (R153). -/
structure VMem where
  v : BitVec 6
  areg : BitVec 3
  cls : BitVec 4
  scope : BitVec 3
  sz : BitVec 2
  m : Msk
  off : BitVec 16
  deriving DecidableEq, Repr

/-- Operands of VLDX, VSTX (R155). -/
structure VMemX where
  v : BitVec 6
  areg : BitVec 3
  cls : BitVec 4
  scope : BitVec 3
  sz : BitVec 2
  m : Msk
  vi : BitVec 6
  deriving DecidableEq, Repr

/-- A 64-byte record of eight doubles: a queue record, a launch block, a message payload (R239, R277). -/
structure Rec where
  d0 : Dbl
  d1 : Dbl
  d2 : Dbl
  d3 : Dbl
  d4 : Dbl
  d5 : Dbl
  d6 : Dbl
  d7 : Dbl
  deriving DecidableEq, Repr

/-- An arriving reduction unit (R330): its sender's node, the record's number there, the unit's place, the
destination address of its first byte, the context, the record's length, the mailbox of NODEW, 64 bytes of payload and
whether its CRC-64 verifies (R387). -/
structure RedvUnit where
  node : BitVec 18
  num : Nat
  unit : Nat
  ctx : Ctx
  va : Dbl
  len : BitVec 32
  mbox : Option (BitVec 6)
  data : Rec
  crcOk : Bool
  deriving DecidableEq, Repr

/-- An arriving broadcast unit (R331–R333): the handle word WH, OFF and LEN of its record, its place, how many further times
NLIST names this destination, the publish flag, 64 bytes of payload and whether its CRC-64 verifies (R387). -/
structure BcstUnit where
  node : BitVec 18
  num : Nat
  unit : Nat
  wh : Dbl
  off : Dbl
  len : Dbl
  again : Nat
  publish : Bool
  data : Rec
  crcOk : Bool
  deriving DecidableEq, Repr

/-- A remote UALink access at its home (R386): a read, a write of at most 64 bytes, or an 8-byte atomic (its AOP as in
R196, or compare-and-swap). -/
inductive UaOp where
  | read (n : Nat)
  | write (data : List Byte)
  | amo (aop : BitVec 4) (v : Dbl)
  | cas (e n : Dbl)
  deriving DecidableEq, Repr

/-- A migration chunk as it arrives (R390). -/
structure Chunk where
  stream : BitVec 32
  counter : Dbl
  header : List Byte
  cipher : List Byte
  tag : BitVec 128
  deriving DecidableEq, Repr

/-- The hart a window store comes from (R368, R370): the die of its complex and its privilege level. -/
inductive Priv where
  | u | s | m
  deriving DecidableEq, Repr

/-- See `Priv`. -/
structure Hart where
  die : Bool
  priv : Priv
  deriving DecidableEq, Repr

/-- One constructor per row of spec/opcode_table.json, in its order, those with operands before those without. -/
inductive Instr where
  /-- `ADD` (R112). -/
  | add (d a b : BitVec 4) (ka kb : Bool)
  /-- `SUB` (R112). -/
  | sub (d a b : BitVec 4) (ka kb : Bool)
  /-- `MUL` (R112). -/
  | mul (d a b : BitVec 4) (ka kb : Bool)
  /-- `MULH` (R112). -/
  | mulh (d a b : BitVec 4) (ka kb : Bool)
  /-- `MULHU` (R112). -/
  | mulhu (d a b : BitVec 4) (ka kb : Bool)
  /-- `DIVS` (R112). -/
  | divs (d a b : BitVec 4) (ka kb : Bool)
  /-- `DIVU` (R112). -/
  | divu (d a b : BitVec 4) (ka kb : Bool)
  /-- `REMS` (R112). -/
  | rems (d a b : BitVec 4) (ka kb : Bool)
  /-- `REMU` (R112). -/
  | remu (d a b : BitVec 4) (ka kb : Bool)
  /-- `AND` (R112). -/
  | and (d a b : BitVec 4) (ka kb : Bool)
  /-- `OR` (R112). -/
  | or (d a b : BitVec 4) (ka kb : Bool)
  /-- `XOR` (R112). -/
  | xor (d a b : BitVec 4) (ka kb : Bool)
  /-- `SHL` (R112). -/
  | shl (d a b : BitVec 4) (ka kb : Bool)
  /-- `SHR` (R112). -/
  | shr (d a b : BitVec 4) (ka kb : Bool)
  /-- `SHA` (R112). -/
  | sha (d a b : BitVec 4) (ka kb : Bool)
  /-- `MIN` (R112). -/
  | min (d a b : BitVec 4) (ka kb : Bool)
  /-- `MAX` (R112). -/
  | max (d a b : BitVec 4) (ka kb : Bool)
  /-- `MINU` (R112). -/
  | minu (d a b : BitVec 4) (ka kb : Bool)
  /-- `MAXU` (R112). -/
  | maxu (d a b : BitVec 4) (ka kb : Bool)
  /-- `MOV` (R114). -/
  | mov (d a : BitVec 4) (ka : Bool)
  /-- `NEG` (R114). -/
  | neg (d a : BitVec 4) (ka : Bool)
  /-- `NOT` (R114). -/
  | not (d a : BitVec 4) (ka : Bool)
  /-- `CLZ` (R114). -/
  | clz (d a : BitVec 4) (ka : Bool)
  /-- `POPC` (R114). -/
  | popc (d a : BitVec 4) (ka : Bool)
  /-- `SEXTB` (R114). -/
  | sextb (d a : BitVec 4) (ka : Bool)
  /-- `SEXTH` (R114). -/
  | sexth (d a : BitVec 4) (ka : Bool)
  /-- `SEXTW` (R114). -/
  | sextw (d a : BitVec 4) (ka : Bool)
  /-- `ZEXTB` (R114). -/
  | zextb (d a : BitVec 4) (ka : Bool)
  /-- `ZEXTH` (R114). -/
  | zexth (d a : BitVec 4) (ka : Bool)
  /-- `ZEXTW` (R114). -/
  | zextw (d a : BitVec 4) (ka : Bool)
  /-- `ADDI` (R113). -/
  | addi (d a : BitVec 4) (ka : Bool) (imm : BitVec 12)
  /-- `ANDI` (R113). -/
  | andi (d a : BitVec 4) (ka : Bool) (imm : BitVec 12)
  /-- `ORI` (R113). -/
  | ori (d a : BitVec 4) (ka : Bool) (imm : BitVec 12)
  /-- `XORI` (R113). -/
  | xori (d a : BitVec 4) (ka : Bool) (imm : BitVec 12)
  /-- `SHLI` (R113). -/
  | shli (d a : BitVec 4) (ka : Bool) (sh : BitVec 6)
  /-- `SHRI` (R113). -/
  | shri (d a : BitVec 4) (ka : Bool) (sh : BitVec 6)
  /-- `SHAI` (R113). -/
  | shai (d a : BitVec 4) (ka : Bool) (sh : BitVec 6)
  /-- `LI` (R115). -/
  | li (d : BitVec 4) (imm : BitVec 32)
  /-- `LIH` (R115). -/
  | lih (d : BitVec 4) (imm : BitVec 32)
  /-- `DROP` (R116). -/
  | drop (q : BitVec 4)
  /-- `QCLR` (R116). -/
  | qclr (q : BitVec 4)
  /-- `QLEN` (R116). -/
  | qlen (d a : BitVec 4)
  /-- `CMP` (R117). -/
  | cmp (a b : BitVec 4) (ka kb : Bool) (cc : BitVec 3)
  /-- `CMPI` (R117). -/
  | cmpi (a : BitVec 4) (ka : Bool) (cc : BitVec 3) (imm : BitVec 12)
  /-- `B` (R118; FOLLOW is V, M, X from bit 2 down). -/
  | b (follow : BitVec 3) (off : BitVec 16)
  /-- `BT` (R118). -/
  | bt (pk cqv : Bool) (follow : BitVec 3) (off : BitVec 16)
  /-- `BF` (R118). -/
  | bf (pk cqv : Bool) (follow : BitVec 3) (off : BitVec 16)
  /-- `CALL` (R119). -/
  | call (follow : BitVec 3) (off : BitVec 16)
  /-- `RET` (R119). -/
  | ret (follow : BitVec 3)
  /-- `LOOP` (R120). -/
  | loop (lc : BitVec 2) (follow : BitVec 3) (off : BitVec 16)
  /-- `LCSET` (R120). -/
  | lcset (lc : BitVec 2) (a : BitVec 4) (ka : Bool)
  /-- `SPUSHM` (R121). -/
  | spushm (first last : BitVec 4)
  /-- `SPOPM` (R121). -/
  | spopm (first last : BitVec 4)
  /-- `LD` (R194). -/
  | ld (m : CLoad)
  /-- `LDS` (R194). -/
  | lds (m : CLoad)
  /-- `LDA` (R194). -/
  | lda (m : CLoad)
  /-- `ST` (R195). -/
  | st (m : CStore)
  /-- `STL` (R195). -/
  | stl (m : CStore)
  /-- `AADD` (R196). -/
  | aadd (m : CAmo)
  /-- `AAND` (R196). -/
  | aand (m : CAmo)
  /-- `AOR` (R196). -/
  | aor (m : CAmo)
  /-- `AXOR` (R196). -/
  | axor (m : CAmo)
  /-- `AMIN` (R196). -/
  | amin (m : CAmo)
  /-- `AMAX` (R196). -/
  | amax (m : CAmo)
  /-- `AMINU` (R196). -/
  | aminu (m : CAmo)
  /-- `AMAXU` (R196). -/
  | amaxu (m : CAmo)
  /-- `AXCHG` (R196). -/
  | axchg (m : CAmo)
  /-- `CAS` (R197). -/
  | cas (m : CCas)
  /-- `FENCE_FULL` (R232). -/
  | fenceFull (scope : BitVec 3) (cmask : BitVec 16)
  /-- `FENCE_SS` (R232). -/
  | fenceSs (scope : BitVec 3) (cmask : BitVec 16)
  /-- `FENCE_LL` (R232). -/
  | fenceLl (scope : BitVec 3) (cmask : BitVec 16)
  /-- `TWAIT` (R233). -/
  | twait (ctr : BitVec 5) (st : Bool) (a : BitVec 4) (scope : BitVec 3) (ka : Bool)
  /-- `TADD` (R233). -/
  | tadd (ctr : BitVec 5) (st : Bool) (a : BitVec 4) (scope : BitVec 3) (ka : Bool)
  /-- `TREAD` (R234). -/
  | tread (d : BitVec 4) (ctr : BitVec 5)
  /-- `WAITC` (R236). -/
  | waitc (nl ns nc nt : BitVec 4)
  /-- `GARV` (R237). -/
  | garv (slot : BitVec 2) (st : Bool)
  /-- `GWAIT` (R237). -/
  | gwait (slot : BitVec 2) (st : Bool)
  /-- `GSYNC` (R237). -/
  | gsync (slot : BitVec 2) (st : Bool)
  /-- `FORK` (R263). -/
  | fork (v m x : Bool)
  /-- `EXIT` (R265). -/
  | exit (nsucc : BitVec 3) (abs : Bool) (wri : BitVec 2) (a : BitVec 4)
  /-- `PARM` (R269). -/
  | parm (d : BitVec 4) (w : BitVec 6)
  /-- `WINSET` (R270). -/
  | winset (n : BitVec 8)
  /-- `ENQ` (R296). -/
  | enq (d a b : BitVec 4) (ka wait : Bool)
  /-- `DEQ` (R297). -/
  | deq (d a : BitVec 4) (ka wait : Bool)
  /-- `QSTAT` (R298). -/
  | qstat (d a : BitVec 4) (ka : Bool)
  /-- `WPUB` (R317). -/
  | wpub (a : BitVec 4) (ka : Bool)
  /-- `WADOPT_TOKEN` (R319). -/
  | wadoptToken (d : BitVec 4)
  /-- `WADOPT_SEQ` (R319). -/
  | wadoptSeq (d : BitVec 4)
  /-- `WHOLD` (R318). -/
  | whold (d a : BitVec 4) (ka : Bool)
  /-- `WDROP` (R318). -/
  | wdrop (a : BitVec 4) (ka : Bool)
  /-- `WQRY` (R318). -/
  | wqry (d a : BitVec 4) (ka : Bool)
  /-- `SPAPP` (R323). -/
  | spapp (a : BitVec 4) (ka : Bool)
  /-- `ACPT` (R325). -/
  | acpt (d a b : BitVec 4) (ka kb : Bool) (n : BitVec 8)
  /-- `JFRAG` (R326). -/
  | jfrag (follow : BitVec 3)
  /-- `TRAP` (R363). -/
  | trap (code : BitVec 6)
  /-- `CSRR` (R365). -/
  | csrr (d : BitVec 4) (csr : BitVec 12)
  /-- `CSRW` (R365). -/
  | csrw (csr : BitVec 12) (a : BitVec 4) (ka : Bool)
  /-- `OUTCOME_POP` (R103; engine e of the acting tile, at the followed branch its walk has reached). -/
  | outcomePop (e : Eng)
  /-- `VADD` (R136). -/
  | vadd (vd va vb : BitVec 6) (m : Msk) (ty : BitVec 3) (r : Rnd)
  /-- `VSUB` (R136). -/
  | vsub (vd va vb : BitVec 6) (m : Msk) (ty : BitVec 3) (r : Rnd)
  /-- `VMUL` (R136). -/
  | vmul (vd va vb : BitVec 6) (m : Msk) (ty : BitVec 3) (r : Rnd)
  /-- `VMIN` (R136). -/
  | vmin (vd va vb : BitVec 6) (m : Msk) (ty : BitVec 3) (r : Rnd)
  /-- `VMAX` (R136). -/
  | vmax (vd va vb : BitVec 6) (m : Msk) (ty : BitVec 3) (r : Rnd)
  /-- `VABS` (R136). -/
  | vabs (vd va : BitVec 6) (m : Msk) (ty : BitVec 3) (r : Rnd)
  /-- `VNEG` (R136). -/
  | vneg (vd va : BitVec 6) (m : Msk) (ty : BitVec 3) (r : Rnd)
  /-- `VSCALE` (R136). -/
  | vscale (vd va vb : BitVec 6) (m : Msk) (r : Rnd)
  /-- `VFMA` (R137). -/
  | vfma (vd va vb vc : BitVec 6) (m : Msk) (ty : BitVec 3) (r : Rnd)
  /-- `VFMS` (R137). -/
  | vfms (vd va vb vc : BitVec 6) (m : Msk) (ty : BitVec 3) (r : Rnd)
  /-- `VFNMA` (R137). -/
  | vfnma (vd va vb vc : BitVec 6) (m : Msk) (ty : BitVec 3) (r : Rnd)
  /-- `VRCP` (R138). -/
  | vrcp (vd va : BitVec 6) (m : Msk) (r : Rnd)
  /-- `VRSQ` (R138). -/
  | vrsq (vd va : BitVec 6) (m : Msk) (r : Rnd)
  /-- `VSQRT` (R138). -/
  | vsqrt (vd va : BitVec 6) (m : Msk) (r : Rnd)
  /-- `VEXP2` (R138). -/
  | vexp2 (vd va : BitVec 6) (m : Msk) (r : Rnd)
  /-- `VLOG2` (R138). -/
  | vlog2 (vd va : BitVec 6) (m : Msk) (r : Rnd)
  /-- `VCVT` (R139). -/
  | vcvt (vd va vb : BitVec 6) (m : Msk) (ty sub : BitVec 3) (r : Rnd)
  /-- `VCVT_L6` (R140). -/
  | vcvtL6 (vd va vb : BitVec 6) (m : Msk) (fzi : Bool)
  /-- `VAND` (R141). -/
  | vand (vd va vb : BitVec 6) (m : Msk)
  /-- `VOR` (R141). -/
  | vor (vd va vb : BitVec 6) (m : Msk)
  /-- `VXOR` (R141). -/
  | vxor (vd va vb : BitVec 6) (m : Msk)
  /-- `VNOT` (R141). -/
  | vnot (vd va : BitVec 6) (m : Msk)
  /-- `VSHL` (R141). -/
  | vshl (vd va vb : BitVec 6) (m : Msk)
  /-- `VSHR` (R141). -/
  | vshr (vd va vb : BitVec 6) (m : Msk)
  /-- `VSHA` (R141). -/
  | vsha (vd va vb : BitVec 6) (m : Msk)
  /-- `VSEL` (R142). -/
  | vsel (vd va vb : BitVec 6) (m : Msk)
  /-- `VMOV` (R142). -/
  | vmov (vd va : BitVec 6) (m : Msk)
  /-- `VCMP` (R143). -/
  | vcmp (md : BitVec 3) (va vb : BitVec 6) (m : Msk) (ty cc : BitVec 3) (fzi : Bool)
  /-- `VCMPQ` (R144). -/
  | vcmpq (all : Bool) (va vb : BitVec 6) (m : Msk) (ty cc : BitVec 3) (fzi : Bool)
  /-- `VTESTZ` (R144). -/
  | vtestz (va : BitVec 6) (m : Msk) (ty : BitVec 3) (fzi : Bool)
  /-- `VTESTN` (R144). -/
  | vtestn (va : BitVec 6) (m : Msk) (ty : BitVec 3) (fzi : Bool)
  /-- `VMAND` (R145). -/
  | vmand (d a b : BitVec 3)
  /-- `VMOR` (R145). -/
  | vmor (d a b : BitVec 3)
  /-- `VMXOR` (R145). -/
  | vmxor (d a b : BitVec 3)
  /-- `VMANDN` (R145). -/
  | vmandn (d a b : BitVec 3)
  /-- `VMNOT` (R145). -/
  | vmnot (d a : BitVec 3)
  /-- `VMSET` (R145). -/
  | vmset (d : BitVec 3)
  /-- `VMCLR` (R145). -/
  | vmclr (d : BitVec 3)
  /-- `VRSUM` (R146). -/
  | vrsum (vd va : BitVec 6) (m : Msk) (ty : BitVec 3) (seg : Bool) (r : Rnd)
  /-- `VRMAX` (R146). -/
  | vrmax (vd va : BitVec 6) (m : Msk) (ty : BitVec 3) (seg : Bool)
  /-- `VRMIN` (R146). -/
  | vrmin (vd va : BitVec 6) (m : Msk) (ty : BitVec 3) (seg : Bool)
  /-- `VRAMAX` (R146). -/
  | vramax (vd va : BitVec 6) (m : Msk) (seg : Bool)
  /-- `VSCAN` (R147). -/
  | vscan (vd va : BitVec 6) (m : Msk) (ty : BitVec 3) (seg : Bool) (r : Rnd)
  /-- `VPERM` (R148). -/
  | vperm (vd va vb : BitVec 6) (m : Msk)
  /-- `VROT` (R148). -/
  | vrot (vd va : BitVec 6) (m : Msk) (n : BitVec 9)
  /-- `VBCAST` (R148). -/
  | vbcast (vd va : BitVec 6) (m : Msk) (k : BitVec 9)
  /-- `VSORT` (R149). -/
  | vsort (vd va vb : BitVec 6) (m : Msk)
  /-- `VRAND` (R150). -/
  | vrand (vd va vb : BitVec 6) (m : Msk) (f32 : Bool)
  /-- `VLI` (R151). -/
  | vli (vd : BitVec 6) (m : Msk) (imm : BitVec 16)
  /-- `VAI` (R152). -/
  | vai (n : BitVec 3) (imm : BitVec 32)
  /-- `VAADD` (R152). -/
  | vaadd (n : BitVec 3) (imm : BitVec 16)
  /-- `VAPARM` (R152). -/
  | vaparm (n : BitVec 3) (w : BitVec 6)
  /-- `VLD` (R154). -/
  | vld (m : VMem)
  /-- `VST` (R154). -/
  | vst (m : VMem)
  /-- `VLDX` (R155). -/
  | vldx (m : VMemX)
  /-- `VSTX` (R155). -/
  | vstx (m : VMemX)
  /-- `VMOVQ` (R156). -/
  | vmovq (d : BitVec 4) (va : BitVec 6) (lane : BitVec 9)
  /-- `VECTOR_LOAD_COMPLETE` (R133; the i-th load in flight of the acting tile). -/
  | vectorLoadComplete (i : Nat)
  /-- `PENDING_WRITE_LAND` (R126; the i-th pending write of the acting tile). -/
  | pendingWriteLand (i : Nat)
  /-- `MLIT6` (R175). -/
  | mlit6 (n : BitVec 6)
  /-- `MLIT16` (R175). -/
  | mlit16 (n : BitVec 16)
  /-- `MLIT32` (R175). -/
  | mlit32 (n : BitVec 32)
  /-- `MPARM` (R175). -/
  | mparm (w : BitVec 6)
  /-- `MMA` (R177). -/
  | mma (bf16 fzi fzo bver acc : Bool)
  /-- `MMAS` (R180). -/
  | mmas (fzi fzo bver : Bool)
  /-- `MZERO` (R181). -/
  | mzero (z : BitVec 2)
  /-- `XLIT6` (R209). -/
  | xlit6 (n : BitVec 6)
  /-- `XLIT16` (R209). -/
  | xlit16 (n : BitVec 16)
  /-- `XLIT32` (R209). -/
  | xlit32 (n : BitVec 32)
  /-- `XPARM` (R209). -/
  | xparm (w : BitVec 6)
  /-- `XFEED` (R215). -/
  | xfeed (q : BitVec 2)
  /-- `XFMT` (R218). -/
  | xfmt (bank : BitVec 5)
  /-- `XBCST` (R331). -/
  | xbcst (publish : Bool)
  /-- `XTADD` (R235). -/
  | xtadd (ctr : BitVec 5)
  /-- `COPY_LINE_LAND` (R206; unit of the record with number rec of the acting tile). -/
  | copyLineLand (rec unit : Nat)
  /-- `XTADD_ADD` (R235). -/
  | xtaddAdd (rec : Nat)
  /-- `TIMELINE_ADD` (R223; the i-th add in transit). -/
  | timelineAdd (i : Nat)
  /-- `QUEUE_SLOT_FILL` (R97; the i-th pending fill). -/
  | queueSlotFill (t : PTile) (i : Nat)
  /-- `STORE_BUFFER_DRAIN` (R191; the i-th buffered store). -/
  | storeBufferDrain (t : PTile) (i : Nat)
  /-- `L2_EVICTION` (R89; a physical line number). -/
  | l2Eviction (die : Bool) (line : Nat)
  /-- `TRAP_ENTRY` (R346, R208; takes the fault a running record of the tile has met). -/
  | trapEntry (t : PTile)
  /-- `STALL` (R396). -/
  | stall (t : PTile)
  /-- `TASK_DISPATCH` (R245). -/
  | taskDispatch (die : Bool)
  /-- `TASK_COMPLETION` (R94). -/
  | taskCompletion (die : Bool) (slot : BitVec 11)
  /-- `TASK_AGING` (R245). -/
  | taskAging (die : Bool) (slot : BitVec 11)
  /-- `WORK_QUEUE_ADMISSION` (R287). -/
  | workQueueAdmission (die : Bool)
  /-- `REFILL_START` (R282). -/
  | refillStart (die : Bool) (slot : BitVec 9)
  /-- `REFILL_COMPLETE` (R282). -/
  | refillComplete (die : Bool) (slot : BitVec 9)
  /-- `MAILBOX_ARRIVAL` (R255; the i-th held arrival). -/
  | mailboxArrival (i : Nat)
  /-- `SPOOR_APPEND` (R322). -/
  | spoorAppend (die : Bool) (ctx : Ctx)
  /-- `FORCED_SAVE` (R351). -/
  | forcedSave (t : PTile)
  /-- `SETT_EXCHANGE` (R358). -/
  | settExchange (t : PTile)
  /-- `SETT_EXCHANGE_COMPLETE` (R358). -/
  | settExchangeComplete (t : PTile)
  /-- `MCHECK` (R360). -/
  | mcheck (t : PTile) (tval : Dbl)
  /-- `NOTIFY` (R291). -/
  | notify (die : Bool) (handle : Dbl) (tail seq : BitVec 32) (tag : Dbl)
  /-- `ENQUEUE` (R291). -/
  | enqueue (die : Bool) (handle : Dbl) (seq : BitVec 32) (tag : Dbl) (rec : Rec)
  /-- `MAILBOX_WRITE` (R256). -/
  | mailboxWrite (die : Bool) (ctxByte mboxByte : Byte) (seq : BitVec 32) (tag : Dbl) (payload : Rec)
  /-- `SUMMARY_REQUEST` (R384). -/
  | summaryRequest (die : Bool) (requester : Dbl) (seq : BitVec 32) (tag : Dbl)
  /-- `XREDV_UNIT` (R330). -/
  | xredvUnit (u : RedvUnit)
  /-- `XBCST_UNIT` (R333). -/
  | xbcstUnit (u : BcstUnit)
  /-- `UNIT_ACKNOWLEDGE` (R330). -/
  | unitAcknowledge (t : PTile) (rec unit : Nat)
  /-- `UALINK_STORE` (R386; translated by the home context). -/
  | ualinkStore (ctx : Ctx) (va : Dbl) (op : UaOp)
  /-- `BENREK_RECEIVE` (R373). -/
  | benrekReceive (die : Bool) (msg : Rec)
  /-- `MIGRATION_CHUNK` (R390). -/
  | migrationChunk (die : Bool) (c : Chunk)
  /-- `MIGRATION_ROUND` (R389). -/
  | migrationRound (die : Bool)
  /-- `FWREQ` (R379). -/
  | fwreq (die : Bool) (off : BitVec 32) (src : BitVec 18)
  /-- `FWDATA` (R379). -/
  | fwdata (die : Bool) (off total : BitVec 32) (data : List Byte)
  /-- `FWREQ_TIMEOUT` (R379). -/
  | fwreqTimeout (die : Bool)
  /-- `BOOT_RETRY` (R377). -/
  | bootRetry (die : Bool)
  /-- `HBEAT_WRITE` (R381). -/
  | hbeatWrite (h : Hart) (which : Bool) (v : Dbl)
  /-- `CLAIM` (R381). -/
  | claim (h : Hart) (v : Dbl)
  /-- `THERMAL_STOP` (R385). -/
  | thermalStop (sensor reading : Byte)
  /-- `POWER_CHANGE_COMPLETE` (R385). -/
  | powerChangeComplete (island : BitVec 5)
  /-- `CMDTAIL_WRITE` (R372). -/
  | cmdtailWrite (h : Hart) (v : Dbl)
  /-- `INVAL` (R372, R189). -/
  | inval (tag : BitVec 32) (d1 d2 d3 : Dbl)
  /-- `TXINV` (R372). -/
  | txinv (tag : BitVec 32) (d1 d2 d3 : Dbl)
  /-- `TRESUME` (R372). -/
  | tresume (tag : BitVec 32) (d1 : Dbl)
  /-- `TSAVE` (R372). -/
  | tsave (tag : BitVec 32) (d1 : Dbl)
  /-- `FENCE` (R372). -/
  | cmdFence (tag : BitVec 32) (d1 : Dbl)
  /-- `UNFENCE` (R372). -/
  | unfence (tag : BitVec 32) (d1 : Dbl)
  /-- `SETTX` (R372). -/
  | settx (tag : BitVec 32) (d1 : Dbl)
  /-- `SETTIO` (R372). -/
  | settio (tag : BitVec 32) (d1 d2 d3 : Dbl)
  /-- `PREQ` (R372). -/
  | preq (tag : BitVec 32) (d1 d2 d3 : Dbl)
  /-- `FAILSET` (R372). -/
  | failset (tag : BitVec 32) (d1 d2 d3 d4 : Dbl)
  /-- `RESUME` (R372). -/
  | resume (tag : BitVec 32) (d1 d2 : Dbl)
  /-- `POWER` (R372, R385). -/
  | power (tag : BitVec 32) (d1 d2 : Dbl)
  /-- `SUMMARY` (R372, R382). -/
  | summary (tag : BitVec 32) (d1 : Dbl)
  /-- `QRES` (R372, R284). -/
  | qres (tag : BitVec 32) (d1 d2 : Dbl)
  /-- `CTXDOWN` (R372). -/
  | ctxdown (tag : BitVec 32) (d1 : Dbl)
  /-- `RESTART` (R372). -/
  | restart (tag : BitVec 32) (d1 : Dbl)
  /-- `MIGR` (R372). -/
  | migr (tag : BitVec 32) (d1 : Dbl)
  /-- `THCLR` (R372). -/
  | thclr (tag : BitVec 32)
  /-- `CCTL_WRITE` (R374). -/
  | cctlWrite (h : Hart) (ctx : Ctx) (v : Dbl)
  /-- `TPOS_WRITE` (R308). -/
  | tposWrite (h : Hart) (ctx : Ctx) (v : Dbl)
  /-- `WVT_ALLOCATE` (R374). -/
  | wvtAllocate (h : Hart) (ctx : Ctx) (e : BitVec 6) (v : Dbl)
  /-- `QUEUE_CREATE` (R279). -/
  | queueCreate (h : Hart) (die : Bool) (slot : BitVec 9) (v : Dbl)
  /-- `MAILBOX_BIND` (R256). -/
  | mailboxBind (h : Hart) (ctx : Ctx) (m : BitVec 6) (v : Dbl)
  /-- `MGMTKEY_WRITE` (R384). -/
  | mgmtkeyWrite (h : Hart) (high : Bool) (v : Dbl)
  /-- `SLTAIL_WRITE` (R383). -/
  | sltailWrite (h : Hart) (v : Dbl)
  /-- `GROUP_ENTRY_REWRITE` (R229). -/
  | groupEntryRewrite (h : Hart) (die : Bool) (g : Byte) (d0 d1 d2 : Dbl)
  /-- `REGISTER_WRITE` (R368). -/
  | registerWrite (h : Hart) (off : BitVec 32) (v : Dbl)
  /-- `CONSUMER_INDEX_WRITE` (R373). -/
  | consumerIndexWrite (h : Hart) (off : BitVec 32) (v : Dbl)
  /-- `CREDIT_GRANT` (R329). -/
  | creditGrant (vc : Vc) (node : BitVec 18) (n : BitVec 16)
  /-- `UNIT_REFUSAL` (R387, R332; crc: the unit failed its CRC-64). -/
  | unitRefusal (t : PTile) (rec unit : Nat) (crc : Bool)
  /-- `NOP` (R111). -/
  | nop
  /-- `RDV` (R264). -/
  | rdv
  /-- `YIELD` (R266). -/
  | yield
  /-- `CHKP` (R267). -/
  | chkp
  /-- `SCALL` (R363). -/
  | scall
  /-- `TRET` (R364). -/
  | tret
  /-- `VNOP` (R135). -/
  | vnop
  /-- `MNOP` (R48). -/
  | mnop
  /-- `MDUP` (R176). -/
  | mdup
  /-- `MDROP` (R176). -/
  | mdrop
  /-- `MSWAP` (R176). -/
  | mswap
  /-- `MOVER` (R176). -/
  | mover
  /-- `MADD` (R176). -/
  | madd
  /-- `MSUB` (R176). -/
  | msub
  /-- `MSHL` (R176). -/
  | mshl
  /-- `MMUL` (R176). -/
  | mmul
  /-- `MDRAIN` (R182). -/
  | mdrain
  /-- `MEPI` (R183). -/
  | mepi
  /-- `MTOPK` (R184). -/
  | mtopk
  /-- `MATRIX_RECORD_START` (R161; the acting tile). -/
  | matrixRecordStart
  /-- `PINNED_WINDOW_GRANT` (R167; the acting tile). -/
  | pinnedWindowGrant
  /-- `MATRIX_DRAIN` (R168; the acting tile: its next vector or row). -/
  | matrixDrain
  /-- `XNOP` (R209). -/
  | xnop
  /-- `XDUP` (R210). -/
  | xdup
  /-- `XDROP` (R210). -/
  | xdrop
  /-- `XSWAP` (R210). -/
  | xswap
  /-- `XOVER` (R210). -/
  | xover
  /-- `XADD` (R210). -/
  | xadd
  /-- `XSUB` (R210). -/
  | xsub
  /-- `XSHL` (R210). -/
  | xshl
  /-- `XMUL` (R210). -/
  | xmul
  /-- `XCOPY` (R211). -/
  | xcopy
  /-- `XCOPY2` (R213). -/
  | xcopy2
  /-- `XGATH` (R214). -/
  | xgath
  /-- `XSCAT` (R214). -/
  | xscat
  /-- `XMETA` (R216). -/
  | xmeta
  /-- `XFILL` (R217). -/
  | xfill
  /-- `XREDV` (R330). -/
  | xredv
  /-- `XKVC` (R328). -/
  | xkvc
  /-- `SLICE_REQUEST` (R359). -/
  | sliceRequest
  /-- `SLICE_BOUNDARY` (R383). -/
  | sliceBoundary
  /-- `PACKAGE_RESET` (R377). -/
  | packageReset
  deriving DecidableEq, Repr

end Sys2Proof
end

