-- ==== Sys2Proof/Machine/State.lean ====
section
/-! DEFINITION. The state of the package as plain data, and the state right after package reset. Arrays of units are
sorted lists of (number, unit) pairs; a unit not listed is in its reset state. -/

namespace Sys2Proof.Machine

/-- Why a step stops the machine: no step does, so there is no constructor. Every fault the spec describes is a trap, a
completion status, a NACK or a report, and each of them is a next state (R344, R372, R291, R257). -/
inductive Fault where
  deriving DecidableEq, Repr

/-- Why a step has no meaning. -/
inductive Refusal where
  /-- Raised by an arm of `exec` that has no meaning yet; safe. -/
  | notModelled (mnemonic : String)
  deriving DecidableEq, Repr

/-- A sparse array: (number, value) pairs, numbers rising. -/
abbrev AMap (α : Type) := List (Nat × α)

/-- A memory: (address, byte) pairs, addresses rising, no byte that an unlisted address reads as. -/
abbrev Memory := List Host.Cell

/-- A slot of a queue register (R96): filled, or reserved by the pending fill that carries the same number. -/
inductive Slot where
  | filled (v : Dbl)
  | reserved (id : Nat)
  deriving DecidableEq, Repr

/-- An entry of a condition queue (R101). -/
structure CEntry where
  value : Bool
  err : Bool
  deriving DecidableEq, Repr

/-- A byte's home: a physical address, or an offset in the scratchpad of a tile (R76). -/
inductive Loc where
  | mem (pa : Nat)
  | scr (t : PTile) (off : Nat)
  deriving DecidableEq, Repr

/-- What a pending fill still has to do (R97): nothing but to arrive, or the access itself. -/
inductive FillOp where
  | value (v : Dbl)
  | load (at_ : Loc) (n : Nat) (sx acq : Bool)
  | amo (at_ : Loc) (n aop : Nat) (v : Dbl)
  | cas (at_ : Loc) (n va : Nat) (e v : Dbl)
  deriving DecidableEq, Repr

/-- A pending fill: the slot it fills, its place in the control stream, its class and scope. -/
structure Fill where
  id : Nat
  seq : Nat
  cls : Nat
  scope : Nat
  op : FillOp
  deriving DecidableEq, Repr

/-- A store in the store buffer (R191), with its place in the control stream. -/
structure BufStore where
  seq : Nat
  cls : Nat
  scope : Nat
  at_ : Loc
  n : Nat
  v : Dbl
  deriving DecidableEq, Repr

/-- A pending vector write (R126, R129): its register, lanes, values, issue tick and visibility tick. -/
structure VWrite where
  reg : Nat
  mask : Mask
  vals : List Lane
  iss : Nat
  vis : Nat
  deriving DecidableEq, Repr

/-- The element kinds of vector memory (R153). -/
inductive VElem where
  | w32 | h16 | s8 | u8 | l6
  deriving DecidableEq, Repr

/-- A vector load in flight (R133): its register, element kind, the lanes with their first byte, and its issue tick. -/
structure VLoad where
  seq : Nat
  cls : Nat
  scope : Nat
  reg : Nat
  elem : VElem
  lanes : List (Nat × Loc)
  iss : Nat
  deriving DecidableEq, Repr

/-- A vector store not yet performed: bytes with the bits of each that it writes. -/
structure VStore where
  seq : Nat
  cls : Nat
  scope : Nat
  bytes : List (Loc × Byte × Byte)
  deriving DecidableEq, Repr

/-- An EXIT that has read its successors' blocks and has not retired (R265): its operands, and each block with its address. -/
structure ExitWait where
  nsucc : BitVec 3
  abs : Bool
  wri : BitVec 2
  a : BitVec 4
  read : List (Dbl × Rec)
  deriving DecidableEq, Repr

/-- Where an engine stands at a rendezvous (R260). -/
inductive Meet where
  | none | rdv | exit
  deriving DecidableEq, Repr

/-- One engine's walk: its program counter, whether it walks, whether it stands in a wait that counts as a stall, its
rendezvous, its walk count (R261), its outcome queue (R103) and its mirror stack (the link stack for C; R104). The next
five are of the control engine: the order number of the stream when it last issued or the present ck began (R100), how many
slots a QCLR that waits removes (R116), an EXIT that waits (R265), the hardware queue, 512 × die + slot, that a waiting ENQ or DEQ awaits (R293,
R396), and the order numbers of the fills of PARM (R226). -/
structure Engine where
  pc : Pc
  walking : Bool
  waiting : Bool
  meet : Meet
  count : Nat
  oq : List Pc
  stack : List Pc
  mark : Nat
  clearing : Option Nat
  exit : Option ExitWait
  await : Option (Nat × Nat)
  parms : List Nat
  /-- Parcels beyond the first of the RDV at which the engine stands; `pc` has passed them (R49). -/
  span : Nat
  /-- The parcels of the instruction at which the engine waits: it has fetched them and does not fetch them again (R37, R39). -/
  fetched : List Parcel
  deriving DecidableEq, Repr

/-- Accumulator tags (R159). -/
inductive ZTag where
  | empty | l6 | bf16
  deriving DecidableEq, Repr

/-- An accumulator tile: tag, M, N and the cells that are not zero, cell (i, j) under 128 i + j (R159). -/
structure ZTile where
  tag : ZTag
  m : Nat
  n : Nat
  cells : AMap (BitVec 40)
  deriving DecidableEq, Repr

/-- A trap cause with its TVAL (R344). -/
structure Cause where
  code : Byte
  tval : Dbl
  deriving DecidableEq, Repr

/-- A matrix operation record (R160): OP, the low six bits of p0, address, popped operands in pop order, next k-step,
drains made, version holder, started or not, and the pinned windows as (block, lines) (R167). -/
structure MRec where
  op : Nat
  flags : BitVec 6
  addr : Pc
  ops : List Dbl
  kstep : Nat
  drains : Nat
  holder : Bool
  started : Bool
  pins : List (Nat × List Nat)
  /-- The order number of the record's request for its next window (R167, 2). -/
  ask : Option Nat
  /-- The fault that has stopped the record (R173). -/
  fault : Option Cause
  deriving DecidableEq, Repr

/-- The drain latch (R168, R169): destination, tag of the drained tile, M, N, the cell values row by row, and the next
vector or row to deliver. -/
structure Drain where
  zspec : Dbl
  bf16 : Bool
  m : Nat
  n : Nat
  vals : List (List Lane)
  next : Nat
  deriving DecidableEq, Repr

/-- The epilogue heap (R170): k, ROWS, BASE, EN and each row's pairs (index, value), best first. -/
structure Heap where
  k : Nat
  rows : Nat
  base : BitVec 32
  en : Bool
  entries : List (List (BitVec 32 × Lane))
  deriving DecidableEq, Repr

/-- A copy record (R205): its number, kind, CSPEC, operands in pop order, formats of its ends, instruction address,
launch-block address, fault mailbox, whether its task runs on the tile and that task's place in the order of admission, its
units, the first unit not yet read, the units read and not landed with their data, resends and whether they have left the
port, the indices or nodes it has read, the fault it has met, and whether a destination has refused it. -/
structure XRec where
  num : Nat
  kind : Nat
  cspec : Dbl
  ops : List Dbl
  bfS : BitVec 25
  bfD : BitVec 25
  iaddr : Pc
  lba : Dbl
  fmb : Nat
  own : Bool
  age : Nat
  units : Nat
  readN : Nat
  flight : List (Nat × List Byte × Nat × Bool)
  idx : Option (List (BitVec 32))
  fault : Option Cause
  failed : Bool
  deriving DecidableEq, Repr

/-- A group slot of a tile (R228): GSLOTn's fields; how the release ended that cleared the arrivals which a waiting instruction
awaits, `some true` where it failed, until that instruction's wait is over (R237); and whether a GSYNC that has arrived still
waits (R346). -/
structure GSlot where
  valid : Bool
  held : Bool
  arr : Bool
  die : Bool
  entry : Byte
  fail : Option Bool
  synced : Bool
  deriving DecidableEq, Repr

/-- The task that a tile context runs: its Thicket slot, launch block and launch-block address. -/
structure Task where
  slot : BitVec 11
  lb : Rec
  lba : Dbl
  deriving DecidableEq, Repr

/-- What a Sett exchange swaps: one context's state on a tile (R10, R222). -/
structure TCtx where
  task : Option Task
  c : Engine
  v : Engine
  m : Engine
  x : Engine
  qs : AMap (List Slot)
  cqc : List CEntry
  cqv : List CEntry
  lcs : AMap Dbl
  sp : BitVec 21
  spbase : Dbl
  splim : Dbl
  win : Nat
  fills : List Fill
  seq : Nat
  vregs : AMap (List Lane)
  masks : AMap Mask
  vas : AMap Dbl
  feed : AMap (List (List Lane))
  vflags : BitVec 5
  dbgpend : Bool
  tick : Nat
  pending : List VWrite
  vloads : List VLoad
  vstores : List VStore
  mstack : List Dbl
  mq : List MRec
  zs : AMap ZTile
  side : Memory
  heap : Heap
  drain : Option Drain
  /-- The drain's vectors were kept over a save and go before the array's next fetch (R174). -/
  late : Bool
  xstack : List Dbl
  xrecs : List XRec
  xnum : Nat
  /-- The numbers under which the units of fabric records re-issued from an image leave, by record (R205, R330, R333). -/
  fabric : AMap Nat
  scratch : Memory
  bfmt : AMap (BitVec 25)
  ts : AMap Dbl
  fails : BitVec 32
  gslots : AMap GSlot
  /-- A GSYNC that has arrived and that a trap has stopped: its group slot and its address (R237, R346). -/
  gsync : Option (Nat × Pc)
  /-- The trap being handled stopped a running record: its instruction is not replayed (R173, R208). -/
  recStop : Bool
  inh : Bool
  dbl : Bool
  resumed : Bool
  wdraw : Bool
  tcause : Byte
  tepc : Pc
  teng : BitVec 2
  tval : Dbl
  tvec : Pc
  tcpc : Pc
  adVer : BitVec 32
  adChg : Bool
  adPol : BitVec 2
  adIdx : BitVec 6
  ftbase : Dbl
  nextf : BitVec 6
  acptmap : BitVec 18
  deriving DecidableEq, Repr

/-- A TLB entry (R189): context, base address, level of its leaf (R376), the entry, the physical address of the entry,
and the 4 KiB frames known dirty. -/
structure TlbEntry where
  ctx : Ctx
  base : Nat
  level : Nat
  pte : Dbl
  addr : Nat
  known : List Nat
  deriving DecidableEq, Repr

/-- A parcel in the task text cache (R39). -/
structure TextParcel where
  ctx : Ctx
  va : Nat
  parcel : Parcel
  deriving DecidableEq, Repr

/-- A pre-emption request (R350): cause 1 SLICE, 2 TREELINE, 3 ABATAL, and the ck left to its deadline. -/
structure PReq where
  cause : Nat
  left : Nat
  deriving DecidableEq, Repr

/-- What keeps a tile from running (R348, R360, R358): a stop for Abatal, with `double` where the trap registers do not
describe it (R349); a fence; or an exchange with its Sett that a slice or Abatal began. -/
inductive Stop where
  | none
  | abatal (double : Bool)
  | fenced
  | exchanging (slice : Bool)
  deriving DecidableEq, Repr

/-- What the header of a saved context image keeps of its save (R354): firmware version, double 2 with ROLE, context, TILEID and
PTILE, PTIME, and the node of the saving package in section TASK (R355). -/
structure ImageHead where
  fw : Dbl
  place : Dbl
  time : Dbl
  node : BitVec 18
  deriving DecidableEq, Repr

/-- A tile (R8), but for the context state it swaps with its Sett. -/
structure Tile where
  live : Option Ctx
  tc : TCtx
  /-- The context image in the Sett; of one whose CRC-64 does not match, its bytes as they were loaded (R358, R372). -/
  sett : Option (Ctx × TCtx × Option (List Byte))
  /-- The save of the Sett's context image (R354). -/
  settHead : ImageHead
  stop : Stop
  frameSeq : BitVec 32
  pend : Bool
  /-- ROLE while a change of it is pending (R308). -/
  side : Nat
  reqs : List PReq
  trapSeq : BitVec 32
  /-- The latest trap record that a full ring keeps the tile holding, and those before it (R373). -/
  held : Option (Bool × Rec)
  older : List (Bool × Rec)
  dcache : AMap (List Byte)
  /-- The lines that the L2 of the tile's die holds for what the tile has read (R165). -/
  kept : List Nat
  sbuf : List BufStore
  /-- The order numbers of the buffered stores that a load has read (R79). -/
  seen : List Nat
  text : List TextParcel
  tlb : List TlbEntry
  rset : List Nat
  prog : Nat
  freed : Int
  lastTask : Option Nat
  cycles : Nat
  /-- A slice that begins on the tile awaits its exchange; and the index of the slice table's entry for whose slice the SLICE request
  has been raised (R359). -/
  due : Bool
  sreq : Option (BitVec 32)
  /-- An address in an uncorrectable line that an access of the tile has read, until the tile takes its MCHECK (R387). -/
  bad : Option Nat
  /-- The uncorrectable lines of the tile's scratchpad, by number (R387). -/
  spoiled : List Nat
  deriving DecidableEq, Repr

/-- Where a task was admitted from (R240). -/
inductive Source where
  | queue (slot : BitVec 9) (gen : BitVec 16) (n : Nat)
  | mailbox (m : BitVec 6) (n : Nat)
  | exit (parent : Nat)
  | resume
  deriving DecidableEq, Repr

/-- Kinds of dependence (R243), and the order of a BARRIER (R240). -/
inductive DepKind where
  | raw | war | waw | barrier
  deriving DecidableEq, Repr

/-- States of a task that holds a slot (R247); a slot not listed is free. -/
inductive TState where
  | waiting | ready | running
  deriving DecidableEq, Repr

/-- Where a saved task's image is (R353): in memory at an address, with its origin tile where ORIGIN is set, the WVT entry
and version of the holder that it counts (R316) and the entries that its matrix records hold (R164); or in a tile's
Sett. -/
inductive Image where
  | mem (va : Dbl) (origin : Option PTile) (hold : Option (Nat × BitVec 32)) (recs : List Nat)
  | sett (t : PTile)
  deriving DecidableEq, Repr

/-- The last releaser of a location (R88, R90): the tile (or, with `unit`, the die unit of that tile's die), the scope,
and its release set at the release. -/
structure Release where
  t : PTile
  unit : Bool
  scope : Nat
  lines : List Nat
  deriving DecidableEq, Repr

/-- A task in the Thicket (R242–R251). `age` is its place in the order of admission. -/
structure TSlot where
  ctx : Ctx
  lb : Rec
  lba : Dbl
  src : Source
  age : Nat
  st : TState
  prio : Nat
  readyCk : Nat
  deps : List (Nat × DepKind × Nat)
  gateFrom : Option Nat
  settled : Bool
  /-- The producers whose counts the task's absorption has lowered (R250). -/
  dropped : List Nat
  ran : Bool
  wdraw : Bool
  exited : Bool
  absRange : Option (BitVec 2)
  image : Option Image
  tile : Option PTile
  cycles : Nat
  /-- The releases that the task's dispatch acquires (R88, R95). -/
  rels : List Release
  /-- The latest resumption of the task has been refused (R353): the dispatches that a ck must make leave it out. -/
  refused : Bool
  /-- How many records the context's Spoor log must have appended before the task's own have been (R94, R323). -/
  handed : Nat
  /-- The fabric records of the task's image, in order: the numbers under which their units leave (R330, R333). -/
  fabric : List Nat
  deriving DecidableEq, Repr

/-- A queue slot (R277): the descriptor, its key, the records on the die and those a refill has read. -/
structure Queue where
  gen : BitVec 16
  retired : Bool
  ctx : Ctx
  rlog2 : BitVec 5
  valid : Bool
  work : Bool
  res : Bool
  spill : Bool
  faulted : Bool
  refill : Option (List Rec)
  rbase : Dbl
  head : BitVec 32
  tail : BitVec 32
  weight : BitVec 32
  deficit : Int
  nacks : BitVec 32
  lastseq : BitVec 32
  key : BitVec 128
  recs : List Rec
  admitted : Nat
  deriving DecidableEq, Repr

/-- A group table entry (R227). `arr` holds the members counted in PHASE; ARRIVED is their number. `fail`: the entry's latest
release, that of a rewrite included (R229, 4), failed (R237). -/
structure Group where
  valid : Bool
  ctx : Ctx
  scope : BitVec 3
  members : BitVec 128
  phase : Bool
  arr : BitVec 128
  failed : BitVec 128
  fail : Bool
  deriving DecidableEq, Repr

/-- A Spoor log of a context on a die (R320, R322). -/
structure Log where
  d0 : Dbl
  acnt : Dbl
  rcnt : Dbl
  inq : List Rec
  stopped : Bool
  /-- The records appended in all (R323). -/
  gone : Nat
  deriving DecidableEq, Repr

/-- A migration engine (R388, R389). -/
structure Migr where
  mctx : Dbl
  mdest : Dbl
  mkey : BitVec 256
  mthr : Dbl
  mmaxr : Dbl
  phase : Nat
  round : Nat
  dirty : Nat
  counter : Nat
  /-- The step of the round: 0 its scan, 1 its INVAL, 2 its units, those of `todo`, physical unit and address. -/
  todo : List (Nat × Nat)
  stage : Nat
  deriving DecidableEq, Repr

/-- An add on its way to a counter (R222, R223): the tile and context it is for, the counter and the amount. -/
structure AddMsg where
  t : PTile
  ctx : Ctx
  ctr : BitVec 5
  amount : Dbl
  fail : Bool
  deriving DecidableEq, Repr

/-- A die's shared units (R11). -/
structure Die where
  /-- The bytes of L2 not yet written back to their homes: the release sets' masks (R88). -/
  l2 : AMap Byte
  /-- For the line of an STL that is not yet home, the lines whose writes the STL comes after (R195). -/
  after : AMap (List Nat)
  stlb : List TlbEntry
  slots : AMap TSlot
  /-- The producers whose counts have fallen in the present ck and whose withdrawals are still to come (R246, R250). -/
  lost : List Nat
  adds : List AddMsg
  groups : AMap Group
  queues : AMap Queue
  feptr : Nat
  logs : AMap Log
  migr : Migr
  /-- The chunks of the die's migration stream that the destination has acknowledged (R389, 4). -/
  acked : Nat
  /-- The lines that each hart of the die's complex has stored to and not released (R368). -/
  harts : AMap (List Nat)
  bootPhase : Nat
  bootTries : BitVec 16
  bootIgn : BitVec 16
  bootSrc : Bool
  bootImg : List Byte
  bootOff : Nat
  bootTotal : Nat
  bootReq : Nat
  bootTimer : Nat
  hbeat : Dbl
  hbAge : Nat
  heldReset : Bool
  ecnt : Dbl
  deriving DecidableEq, Repr

/-- A mailbox (R254). -/
structure Mailbox where
  bound : Bool
  addr : Dbl
  slots : BitVec 4
  handler : Dbl
  mctr : Dbl
  arr : Dbl
  live : Nat
  lastseq : BitVec 32
  nacks : BitVec 16
  key : BitVec 128
  deriving DecidableEq, Repr

/-- States of a weight version table entry (R310). -/
inductive WState where
  | free | building | published | retiring
  deriving DecidableEq, Repr

/-- A weight version table entry (R310), with the units that each publishing broadcast has landed (R333). -/
structure Wvt where
  version : BitVec 32
  holders : Nat
  fmt : BitVec 4
  scope : BitVec 3
  cur : Bool
  st : WState
  base : BitVec 56
  length : BitVec 48
  landed : Dbl
  pubs : List (Nat × Nat × Nat)
  pubDone : Bool
  deriving DecidableEq, Repr

/-- A context's registers and tables (R374). -/
structure Context where
  valid : Bool
  dbovf : Bool
  ptroot : Dbl
  dbbase : Dbl
  dbwin : Dbl
  tpos : Nat
  tlen : Nat
  tdeleg : Dbl
  pdead : BitVec 32
  quota0 : BitVec 20
  quota1 : BitVec 20
  imgbase : Dbl
  fqbase : Dbl
  fqlog2 : BitVec 5
  fqlost : Byte
  fqhead : BitVec 24
  fqtail : BitVec 24
  repSeq : BitVec 32
  tmap : AMap Byte
  tlist : AMap Byte
  mboxes : AMap Mailbox
  wvt : AMap Wvt
  migrating : Bool
  deriving DecidableEq, Repr

/-- The five registers of a ring that Abatal reads (R371). -/
structure Ring where
  base : Dbl
  log2 : BitVec 5
  prod : BitVec 32
  cons : BitVec 32
  deriving DecidableEq, Repr

/-- ISLANDi (R385). -/
structure Island where
  tstop : Bool
  busy : Bool
  ton : Bool
  tpt : BitVec 3
  on : Bool
  pt : BitVec 3
  deriving DecidableEq, Repr

/-- A held mailbox arrival (R255): its context, mailbox and kind. -/
inductive Arrival where
  | benrek (payload : Rec)
  | xtadd (sender : Nat) (amount : Dbl)
  | redv (node : BitVec 18) (len : Dbl)
  | report (r : Rec)
  deriving DecidableEq, Repr

/-- A Benrek answer or message that leaves the part, or a response to a peer. -/
inductive Msg where
  | nack (die : Bool) (code : Nat) (handle : Dbl) (seq : BitVec 32)
  | redv (u : RedvUnit) (dest : BitVec 18)
  | bcst (u : BcstUnit) (dest : BitVec 18)
  | ack (node : BitVec 18) (num unit : Nat)
  | refuse (node : BitVec 18) (num unit : Nat) (crc : Bool)
  | summary (die : Bool) (seq : BitVec 32) (body : List Byte) (tag : Dbl)
  | fwreq (die : Bool) (node : BitVec 18) (off : BitVec 32)
  | fwdata (dest : BitVec 18) (off total : BitVec 32) (data : List Byte)
  | chunk (dest : BitVec 18) (c : Chunk)
  | ualink (data : List Byte) (ok : Bool)
  /-- A RISC-V access fault to a hart of a die (R368). -/
  | accessFault (die : Bool)
  /-- What a hart of a die has read (R368). -/
  | loaded (die : Bool) (v : Dbl)
  /-- The destination of a migration stream acknowledges a chunk, or has aborted the stream (R389, R390). -/
  | chunkAck (die : Bool) (stream : BitVec 32) (counter : Dbl)
  | abort (die : Bool) (stream : BitVec 32)
  deriving DecidableEq, Repr

/-- Whose step is next. -/
inductive Turn where
  /-- Engine e of tile t takes the next step of its walk (R37). -/
  | walk (t : PTile) (e : Eng)
  /-- An event of the table happens, as its operands say. -/
  | event (t : PTile) (i : Instr)
  /-- The part reads and serves the command at CMDHEAD (R372). -/
  | serve
  /-- One ck passes: the timers and counts of ck advance. -/
  | ck
  /-- A copy record issues its next source read (R206). -/
  | read (t : PTile) (num : Nat)
  /-- The array computes the next k-steps of its running record (R161). -/
  | kstep (t : PTile)
  /-- A vector store is performed (R154). -/
  | vstore (t : PTile) (i : Nat)
  /-- The task text cache takes the parcel at an address ahead of its fetch (R39). -/
  | fillText (t : PTile) (va : Pc)
  /-- A tile whose release set a release finds above 4,096 lines writes it back (R89, 2). -/
  | capSet (t : PTile)
  /-- An EXIT that has read its successors' blocks retires, where its waits have ended (R265). -/
  | exit (t : PTile)
  /-- The boot ROM of a complex goes on with its load or its verification (R377, R380). -/
  | boot (die : Bool)
  /-- A unit reports a poisoned line that it has read (R387). -/
  | report
  /-- A soft error is corrected on a die; a line becomes uncorrectable, of a die in memory at an address, or of a tile's
  scratchpad at an offset (R387). -/
  | soft (die : Bool)
  | lose (die : Bool) (pa : Nat)
  | loseScr (t : PTile) (off : Nat)
  /-- The L2 of a die gives up a line, which goes home with the lines whose writes its own come after (R89, R195). -/
  | home (die : Bool) (line : Nat)
  /-- The destination of a die's migration stream acknowledges chunks, or has aborted the stream (R389, R390). -/
  | chunkAck (die : Bool) (n : Nat)
  | chunkAbort (die : Bool)
  /-- The board controller writes BOOTSRC (R386); an HDM decoder maps a range of a CXL window (R386); the PTIME servo sets the
  timebase, in ninths of a nanosecond (R386). -/
  | bootsrc (v : Dbl)
  | hdm (ranges : List (Nat × Nat))
  | servo (ns9 : Nat)
  /-- A hart reads or stores `size` bytes of the window, stores bytes to memory, or executes FENCE rw,rw; `n` is its number
  in its complex (R368). -/
  | hartRead (h : Hart) (off size : Nat)
  | hartStore (h : Hart) (off size : Nat) (v : Dbl)
  | hartMem (die : Bool) (n : BitVec 2) (pa : Nat) (data : List Byte)
  | hartFence (die : Bool) (n : BitVec 2)
  /-- The data cache, the text cache, the tile's TLB or the die's TLB drops an entry (R39, R189, R191). -/
  | dropLine (t : PTile) (line : Nat)
  | dropText (t : PTile) (i : Nat)
  | dropTlb (t : PTile) (i : Nat)
  | dropShared (die : Bool) (i : Nat)
  deriving DecidableEq, Repr

/-- The whole package. -/
structure State where
  mem : Memory
  poison : List Nat
  /-- Poisoned lines that units have read for a context, not reported yet, each with its address (R387). -/
  toReport : List (Ctx × Dbl)
  hdm : List (Nat × Nat)
  /-- The latest release at each location and, under the same number, the earlier ones, the latest first (R88). -/
  dir : AMap Release
  past : AMap (List Release)
  tiles : AMap Tile
  die0 : Die
  die1 : Die
  ctxs : AMap Context
  ns9 : Nat
  bootsrc : Dbl
  epoch : BitVec 32
  primary : Bool
  cmdbase : Dbl
  cmdlog2 : BitVec 5
  cmdhead : BitVec 32
  cmdtail : BitVec 32
  cplbase : Dbl
  cpllog2 : BitVec 5
  cplprod : BitVec 32
  cplcons : BitVec 32
  cplWait : Option (Dbl × Dbl)
  powWait : Option (BitVec 5 × BitVec 32)
  /-- The tile whose exchange a SETTX command awaits, with the command's TAG (R372). -/
  settWait : Option (PTile × BitVec 32)
  trapRings : AMap Ring
  recvRings : AMap Ring
  sumseq : Dbl
  sumlast : BitVec 32
  sumnack : BitVec 32
  islands : AMap Island
  therm : Dbl
  sensors : AMap Byte
  node : BitVec 18
  links : AMap Dbl
  mgmtkey : BitVec 128
  mgmtset : Bool
  slices : AMap (Dbl × Dbl × Dbl)
  slhead : BitVec 32
  sltail : BitVec 32
  slskip : BitVec 32
  fwver : Dbl
  credits : AMap Nat
  flying : List AddMsg
  arrivals : List (Ctx × BitVec 6 × Arrival)
  redvs : List (Nat × Nat × Nat)
  sent : List Msg
  cur : PTile
  sched : List Turn
  fresh : Nat
  /-- What the Thickets, the queue engines, the feeder queues and the timeline counters have handled in the present ck (R131, R223,
  R246, R286): the unit, as Order.lean numbers them, and the event's place in the order of the ck. -/
  did : List (Nat × Nat × Nat)
  deriving DecidableEq, Repr

/-- An engine before any task. -/
def Engine.reset : Engine := ⟨0, false, false, .none, 0, [], [], 0, none, none, none, [], 0, []⟩
/-- The heap as a dispatch leaves it (R158). -/
def Heap.reset : Heap := ⟨1, 1, 0, false, []⟩
/-- An accumulator tile as MZERO leaves it (R181); DESIGN CHOICE at reset (log 1). -/
def ZTile.reset : ZTile := ⟨.empty, 128, 128, []⟩
/-- A group slot at reset (R228). -/
def GSlot.reset : GSlot := ⟨false, false, false, false, 0, none, false⟩

/-- A tile context after reset: every field with a reset value of the spec holds it; the others are zero or empty
(DESIGN CHOICE, log 1; unsafe). -/
def TCtx.reset : TCtx where
  task := none
  c := .reset
  v := .reset
  m := .reset
  x := .reset
  qs := []
  cqc := []
  cqv := []
  lcs := []
  sp := 0
  spbase := 0
  splim := 0
  win := 64
  fills := []
  seq := 0
  vregs := []
  masks := []
  vas := []
  feed := []
  vflags := 0
  dbgpend := false
  tick := 0
  pending := []
  vloads := []
  vstores := []
  mstack := []
  mq := []
  zs := []
  side := []
  heap := .reset
  drain := none
  late := false
  xstack := []
  xrecs := []
  xnum := 0
  fabric := []
  scratch := []
  bfmt := []
  ts := []
  fails := 0
  gslots := []
  gsync := none
  recStop := false
  inh := false
  dbl := false
  resumed := false
  wdraw := false
  tcause := 0
  tepc := 0
  teng := 0
  tval := 0
  tvec := 0
  tcpc := 0
  adVer := 0
  adChg := false
  adPol := 0
  adIdx := 0
  ftbase := 0
  nextf := 0
  acptmap := 0

/-- A tile after reset. -/
def Tile.reset : Tile where
  live := none
  tc := .reset
  sett := none
  settHead := ⟨0, 0, 0, 0⟩
  stop := .none
  frameSeq := 0
  pend := false
  side := 0
  reqs := []
  trapSeq := 0
  held := none
  older := []
  dcache := []
  kept := []
  sbuf := []
  seen := []
  text := []
  tlb := []
  rset := []
  prog := 0
  freed := 0
  lastTask := none
  cycles := 0
  due := false
  sreq := none
  bad := none
  spoiled := []

/-- A queue slot after reset (R277; the key DESIGN CHOICE 0, log 1). -/
def Queue.reset : Queue :=
  ⟨0, false, 0, 0, false, false, false, false, false, none, 0, 0, 0, 0, 0, 0, 0, 0, [], 0⟩
/-- A group entry after reset (DESIGN CHOICE, log 1). -/
def Group.reset : Group := ⟨false, 0, 0, 0, false, 0, 0, false⟩
/-- A log descriptor after reset (R320). -/
def Log.reset : Log := ⟨0, 0, 0, [], false, 0⟩
/-- A migration engine after reset (DESIGN CHOICE, log 1). -/
def Migr.reset : Migr := ⟨0, 0, 0, 0, 0, 0, 0, 0, 0, [], 0⟩
/-- A mailbox after reset (DESIGN CHOICE, log 1). -/
def Mailbox.reset : Mailbox := ⟨false, 0, 0, 0, 0, 0, 0, 0, 0, 0⟩
/-- A WVT entry after reset (R310). -/
def Wvt.reset : Wvt := ⟨0, 0, 0, 0, false, .free, 0, 0, 0, [], false⟩
/-- A ring after reset (DESIGN CHOICE, log 1). -/
def Ring.reset : Ring := ⟨0, 0, 0, 0⟩
/-- An island after reset (R385). -/
def Island.reset : Island := ⟨false, false, true, 7, true, 7⟩

/-- A die after reset (R380: BOOTST 0; the rest DESIGN CHOICE, log 1). -/
def Die.reset : Die where
  l2 := []
  after := []
  stlb := []
  slots := []
  lost := []
  adds := []
  groups := []
  queues := []
  feptr := 0
  logs := []
  migr := .reset
  acked := 0
  harts := []
  bootPhase := 0
  bootTries := 0
  bootIgn := 0
  bootSrc := false
  bootImg := []
  bootOff := 0
  bootTotal := 0
  bootReq := 0
  bootTimer := 0
  hbeat := 0
  hbAge := 0
  heldReset := false
  ecnt := 0

/-- A context after reset (R307, R345, R350, R166; the rest DESIGN CHOICE, log 1). -/
def Context.reset : Context where
  valid := false
  dbovf := false
  ptroot := 0
  dbbase := 0
  dbwin := 0
  tpos := 0
  tlen := 0
  tdeleg := 0x5955555554#64
  pdead := 0x00100000#32
  quota0 := 0
  quota1 := 0
  imgbase := 0
  fqbase := 0
  fqlog2 := 0
  fqlost := 0
  fqhead := 0
  fqtail := 0
  repSeq := 0
  tmap := []
  tlist := []
  mboxes := []
  wvt := []
  migrating := false

/-- The package right after reset: memory lists nothing, every register holds its reset value, PRIMARY.DIE is 0
(R377), and no tile runs a task. Values the spec does not give are DESIGN CHOICE (log 1, log 2; unsafe). -/
def State.reset : State where
  mem := []
  poison := []
  toReport := []
  hdm := []
  dir := []
  past := []
  tiles := []
  die0 := .reset
  die1 := .reset
  ctxs := []
  ns9 := 0
  bootsrc := 0
  epoch := 0
  primary := false
  cmdbase := 0
  cmdlog2 := 0
  cmdhead := 0
  cmdtail := 0
  cplbase := 0
  cpllog2 := 0
  cplprod := 0
  cplcons := 0
  cplWait := none
  powWait := none
  settWait := none
  trapRings := []
  recvRings := []
  sumseq := 0
  sumlast := 0
  sumnack := 0
  islands := []
  therm := 0
  sensors := []
  node := 0
  links := []
  mgmtkey := 0
  mgmtset := false
  slices := []
  slhead := 0
  sltail := 0
  slskip := 0
  fwver := 0
  credits := []
  flying := []
  arrivals := []
  redvs := []
  sent := []
  cur := 0
  sched := []
  fresh := 0
  did := []

end Sys2Proof.Machine
end

