-- ==== Sys2Proof/Config.lean ====
section
/-! DEFINITION. What the spec leaves to the implementation or to the system around it: constants without a body, of which
nothing can be computed, so that a claim holds whatever they are (log 3). -/

namespace Sys2Proof.Config

/-- Which unit moves next, where State.sched does not say (R397; log 3); none: no unit moves. -/
opaque freeTurn : Nat → Option Machine.Turn

/-- TVAL of a trap for which the spec gives a cause and no value: from the cause's code and the operand (log 20). -/
opaque freeTval : Byte → Dbl → Dbl

/-- The 32 bytes of the Ed25519 public key fused in a die (R377). -/
opaque fusedKey : Bool → List Byte

/-- The bytes of the SPI flash from offset 0 (R377): the board's, not the part's. -/
opaque flashImage : Bool → List Byte

/-- Kind and cause of the report of a refused resumption (R357), from the image's address: the spec gives neither (log 27). -/
opaque freeReport : Dbl → BitVec 3 × Byte

/-- Cause and double 1 of a report of kind 1, from the mailbox's number: the spec gives neither (R257; log 27). -/
opaque freeUnbound : Nat → Byte × Dbl

/-- The die whose Thicket takes the handler of an arrival from within the package, which the spec does not give (log 29). -/
opaque freeDie : Nat → Bool

/-- The detail in D1 of a RESUME that is refused, which the spec does not code: 1 the image, 2 the block, 3 a full Thicket
(R372; log 27). -/
opaque freeDetail : Nat → Dbl

/-- The entry that a full cache gives up, by its place (R8, R12, R39, R191; log 17). -/
opaque freeVictim : Nat → Nat

end Sys2Proof.Config
end

