-- ==== Sys2Proof/WellFormed.lean ====
section
/-! DEFINITION. Well-formedness: the field values that R42, R44, R46 and R48 (03_encoding.md) refuse, entry by entry. A
field of an instruction of `Instr` has its exact width, so a value too wide for its field cannot be written here. -/

namespace Sys2Proof

/-- The CSR map (R340). -/
def csrKnown (n : Nat) : Bool :=
  n ≤ 0xA || n = 0xC || (0x10 ≤ n && n ≤ 0x13) || n = 0x18 || n = 0x19 || (0x20 ≤ n && n ≤ 0x23) ||
  n = 0x30 || n = 0x31 || (0x40 ≤ n && n ≤ 0x61) || n = 0x70 || (0x80 ≤ n && n ≤ 0x82)

/-- The CSRs that tile code only reads (R340). -/
def csrReadOnly (n : Nat) : Bool :=
  n = 0 || n = 3 || (7 ≤ n && n ≤ 0xC) || (0x20 ≤ n && n ≤ 0x23) || (0x60 ≤ n)

/-- A vector source code (R44). -/
def isSrc (v : BitVec 6) : Bool := v.toNat ≤ 57
/-- A vector destination code (R44). -/
def isDst (v : BitVec 6) : Bool := v.toNat ≤ 47
/-- RM, FZI and FZO all zero, as where they are reserved (R46). -/
def rnd0 : Rnd := ⟨false, false, 0#2⟩
/-- TY of the arithmetic entries (R136, R137): F32, BF16, I32, U32; for integers RM, FZI and FZO are reserved (R132). -/
def numTy (ty : BitVec 3) (r : Rnd) : Bool := ty.toNat ≤ 1 || ty.toNat ≤ 3 && r = rnd0

/-- The pairs of VCVT but for .L6.F32, with the fields each reads (R139). -/
def cvtOk (vb : BitVec 6) (ty sub : BitVec 3) (r : Rnd) : Bool :=
  match ty.toNat, sub.toNat with
  | 0, 1 => vb = 0#6 && r.rm = 0#2
  | 0, 4 => vb = 0#6 && r.rm = 0#2 && !r.fzi
  | 0, 5 => vb = 0#6 && r.rm = 0#2 && !r.fzi
  | 0, 2 => vb = 0#6 && !r.fzi
  | 0, 3 => vb = 0#6 && !r.fzi
  | 1, 0 => isSrc vb
  | 2, 0 => vb = 0#6 && !r.fzo
  | 3, 0 => vb = 0#6 && !r.fzo
  | 2, 3 => vb = 0#6 && r = rnd0
  | 3, 2 => vb = 0#6 && r = rnd0
  | 5, 0 => vb = 0#6 && !r.fzo && r.rm = 0#2
  | _, _ => false

/-- The bytes of payload of a remote access (R386). -/
def uaSize : UaOp → Nat
  | .read n => n
  | .write data => data.length
  | .amo .. => 8
  | .cas .. => 8

/-- Every value an entry refuses (R42, R44, R46, R48), refused; and what no remote access and no FWDATA message is: more than 64
bytes of payload (R386), and other bytes than min(4,096, length − offset) (R379). -/
def wellFormed : Instr → Bool
  | .nop => true
  | .add .. => true
  | .sub .. => true
  | .mul .. => true
  | .mulh .. => true
  | .mulhu .. => true
  | .divs .. => true
  | .divu .. => true
  | .rems .. => true
  | .remu .. => true
  | .and .. => true
  | .or .. => true
  | .xor .. => true
  | .shl .. => true
  | .shr .. => true
  | .sha .. => true
  | .min .. => true
  | .max .. => true
  | .minu .. => true
  | .maxu .. => true
  | .mov .. => true
  | .neg .. => true
  | .not .. => true
  | .clz .. => true
  | .popc .. => true
  | .sextb .. => true
  | .sexth .. => true
  | .sextw .. => true
  | .zextb .. => true
  | .zexth .. => true
  | .zextw .. => true
  | .addi .. => true
  | .andi .. => true
  | .ori .. => true
  | .xori .. => true
  | .shli .. => true
  | .shri .. => true
  | .shai .. => true
  | .li .. => true
  | .lih .. => true
  | .drop .. => true
  | .qclr .. => true
  | .qlen .. => true
  | .cmp _ _ _ _ cc => cc.toNat ≤ 5
  | .cmpi _ _ cc _ => cc.toNat ≤ 5
  | .b .. => true
  | .bt .. => true
  | .bf .. => true
  | .call .. => true
  | .ret .. => true
  | .loop .. => true
  | .lcset .. => true
  | .spushm first last => first.toNat ≤ last.toNat
  | .spopm first last => first.toNat ≤ last.toNat
  | .ld .. => true
  | .lds .. => true
  | .lda .. => true
  | .st .. => true
  | .stl .. => true
  | .aadd .. => true
  | .aand .. => true
  | .aor .. => true
  | .axor .. => true
  | .amin .. => true
  | .amax .. => true
  | .aminu .. => true
  | .amaxu .. => true
  | .axchg .. => true
  | .cas .. => true
  | .fenceFull .. => true
  | .fenceSs .. => true
  | .fenceLl .. => true
  | .twait .. => true
  | .tadd .. => true
  | .tread .. => true
  | .waitc .. => true
  | .garv .. => true
  | .gwait .. => true
  | .gsync .. => true
  | .fork .. => true
  | .rdv => true
  | .exit nsucc abs wri a => nsucc.toNat ≤ 4 && (abs || wri = 0#2) && (nsucc ≠ 0#3 || a = 0#4)
  | .yield => true
  | .chkp => true
  | .parm .. => true
  | .winset .. => true
  | .enq _ _ b _ _ => b.toNat ≤ 8
  | .deq d _ _ _ => d.toNat ≤ 8
  | .qstat .. => true
  | .wpub .. => true
  | .wadoptToken .. => true
  | .wadoptSeq .. => true
  | .whold .. => true
  | .wdrop .. => true
  | .wqry .. => true
  | .spapp .. => true
  | .acpt _ _ _ _ _ n => n ≠ 0#8
  | .jfrag .. => true
  | .trap .. => true
  | .scall => true
  | .tret => true
  | .csrr _ csr => csrKnown csr.toNat
  | .csrw csr _ _ => csrKnown csr.toNat && !csrReadOnly csr.toNat
  | .outcomePop .. => true
  | .vnop => true
  | .vadd vd va vb _ ty r => isDst vd && isSrc va && isSrc vb && numTy ty r
  | .vsub vd va vb _ ty r => isDst vd && isSrc va && isSrc vb && numTy ty r
  | .vmul vd va vb _ ty r => isDst vd && isSrc va && isSrc vb && numTy ty r
  | .vmin vd va vb _ ty r => isDst vd && isSrc va && isSrc vb && numTy ty r
  | .vmax vd va vb _ ty r => isDst vd && isSrc va && isSrc vb && numTy ty r
  | .vabs vd va _ ty r => isDst vd && isSrc va && numTy ty r && ty ≠ 3#3
  | .vneg vd va _ ty r => isDst vd && isSrc va && numTy ty r && ty ≠ 3#3
  | .vscale vd va vb _ _ => isDst vd && isSrc va && isSrc vb
  | .vfma vd va vb vc _ ty r => isDst vd && isSrc va && isSrc vb && isSrc vc && numTy ty r
  | .vfms vd va vb vc _ ty r => isDst vd && isSrc va && isSrc vb && isSrc vc && numTy ty r
  | .vfnma vd va vb vc _ ty r => isDst vd && isSrc va && isSrc vb && isSrc vc && numTy ty r
  | .vrcp vd va _ _ => isDst vd && isSrc va
  | .vrsq vd va _ _ => isDst vd && isSrc va
  | .vsqrt vd va _ _ => isDst vd && isSrc va
  | .vexp2 vd va _ _ => isDst vd && isSrc va
  | .vlog2 vd va _ _ => isDst vd && isSrc va
  | .vcvt vd va vb _ ty sub r => isDst vd && isSrc va && cvtOk vb ty sub r
  | .vcvtL6 vd va vb _ _ => isDst vd && isSrc va && isSrc vb
  | .vand vd va vb _ => isDst vd && isSrc va && isSrc vb
  | .vor vd va vb _ => isDst vd && isSrc va && isSrc vb
  | .vxor vd va vb _ => isDst vd && isSrc va && isSrc vb
  | .vnot vd va _ => isDst vd && isSrc va
  | .vshl vd va vb _ => isDst vd && isSrc va && isSrc vb
  | .vshr vd va vb _ => isDst vd && isSrc va && isSrc vb
  | .vsha vd va vb _ => isDst vd && isSrc va && isSrc vb
  | .vsel vd va vb _ => isDst vd && isSrc va && isSrc vb
  | .vmov vd va _ => isDst vd && isSrc va
  | .vcmp _ va vb _ ty _ fzi => isSrc va && isSrc vb && (ty = 0#3 || (ty = 2#3 || ty = 3#3) && !fzi)
  | .vcmpq _ va vb _ ty _ fzi => isSrc va && isSrc vb && (ty = 0#3 || (ty = 2#3 || ty = 3#3) && !fzi)
  | .vtestz va _ ty fzi => isSrc va && (ty.toNat ≤ 1 || ty.toNat ≤ 3 && !fzi)
  | .vtestn va _ ty _ => isSrc va && ty.toNat ≤ 1
  | .vmand .. => true
  | .vmor .. => true
  | .vmxor .. => true
  | .vmandn .. => true
  | .vmnot .. => true
  | .vmset .. => true
  | .vmclr .. => true
  | .vrsum vd va _ ty _ r => isDst vd && isSrc va && (ty = 0#3 || ty = 2#3 && r = rnd0)
  | .vrmax vd va _ ty _ => isDst vd && isSrc va && (ty = 0#3 || ty = 2#3 || ty = 3#3)
  | .vrmin vd va _ ty _ => isDst vd && isSrc va && (ty = 0#3 || ty = 2#3 || ty = 3#3)
  | .vramax vd va _ _ => isDst vd && isSrc va
  | .vscan vd va _ ty _ r => isDst vd && isSrc va && (ty = 0#3 || ty = 2#3 && r = rnd0)
  | .vperm vd va vb _ => isDst vd && isSrc va && isSrc vb
  | .vrot vd va _ _ => isDst vd && isSrc va
  | .vbcast vd va _ _ => isDst vd && isSrc va
  | .vsort vd va vb _ => vd.toNat ≤ 46 && isSrc va && isSrc vb
  | .vrand vd va vb _ _ => isDst vd && isSrc va && isSrc vb
  | .vli vd _ _ => isDst vd
  | .vai .. => true
  | .vaadd .. => true
  | .vaparm .. => true
  | .vld m => isDst m.v
  | .vst m => isSrc m.v
  | .vldx m => isDst m.v && isDst m.vi
  | .vstx m => isSrc m.v && isDst m.vi
  | .vmovq _ va _ => isSrc va
  | .vectorLoadComplete .. => true
  | .pendingWriteLand .. => true
  | .mnop => true
  | .mlit6 .. => true
  | .mlit16 .. => true
  | .mlit32 .. => true
  | .mparm .. => true
  | .mdup => true
  | .mdrop => true
  | .mswap => true
  | .mover => true
  | .madd => true
  | .msub => true
  | .mshl => true
  | .mmul => true
  | .mma .. => true
  | .mmas .. => true
  | .mzero .. => true
  | .mdrain => true
  | .mepi => true
  | .mtopk => true
  | .matrixRecordStart => true
  | .pinnedWindowGrant => true
  | .matrixDrain => true
  | .xnop => true
  | .xlit6 .. => true
  | .xlit16 .. => true
  | .xlit32 .. => true
  | .xparm .. => true
  | .xdup => true
  | .xdrop => true
  | .xswap => true
  | .xover => true
  | .xadd => true
  | .xsub => true
  | .xshl => true
  | .xmul => true
  | .xcopy => true
  | .xcopy2 => true
  | .xgath => true
  | .xscat => true
  | .xfeed .. => true
  | .xmeta => true
  | .xfill => true
  | .xfmt .. => true
  | .xredv => true
  | .xbcst .. => true
  | .xkvc => true
  | .xtadd .. => true
  | .copyLineLand .. => true
  | .xtaddAdd .. => true
  | .timelineAdd .. => true
  | .queueSlotFill .. => true
  | .storeBufferDrain .. => true
  | .l2Eviction .. => true
  | .trapEntry .. => true
  | .stall .. => true
  | .taskDispatch .. => true
  | .taskCompletion .. => true
  | .taskAging .. => true
  | .workQueueAdmission .. => true
  | .refillStart .. => true
  | .refillComplete .. => true
  | .mailboxArrival .. => true
  | .spoorAppend .. => true
  | .forcedSave .. => true
  | .sliceRequest => true
  | .sliceBoundary => true
  | .settExchange .. => true
  | .settExchangeComplete .. => true
  | .mcheck .. => true
  | .notify .. => true
  | .enqueue .. => true
  | .mailboxWrite .. => true
  | .summaryRequest .. => true
  | .xredvUnit .. => true
  | .xbcstUnit .. => true
  | .unitAcknowledge .. => true
  | .ualinkStore _ _ op => uaSize op ≤ 64
  | .benrekReceive .. => true
  | .migrationChunk .. => true
  | .migrationRound .. => true
  | .fwreq .. => true
  | .fwdata _ off total data => data.length = min 4096 (total.toNat - off.toNat)
  | .fwreqTimeout .. => true
  | .packageReset => true
  | .bootRetry .. => true
  | .hbeatWrite .. => true
  | .claim .. => true
  | .thermalStop .. => true
  | .powerChangeComplete .. => true
  | .cmdtailWrite .. => true
  | .inval .. => true
  | .txinv .. => true
  | .tresume .. => true
  | .tsave .. => true
  | .cmdFence .. => true
  | .unfence .. => true
  | .settx .. => true
  | .settio .. => true
  | .preq .. => true
  | .failset .. => true
  | .resume .. => true
  | .power .. => true
  | .summary .. => true
  | .qres .. => true
  | .ctxdown .. => true
  | .restart .. => true
  | .migr .. => true
  | .thclr .. => true
  | .cctlWrite .. => true
  | .tposWrite .. => true
  | .wvtAllocate .. => true
  | .queueCreate .. => true
  | .mailboxBind .. => true
  | .mgmtkeyWrite .. => true
  | .sltailWrite .. => true
  | .groupEntryRewrite .. => true
  | .registerWrite .. => true
  | .consumerIndexWrite .. => true
  | .creditGrant .. => true
  | .unitRefusal .. => true

end Sys2Proof
end

