-- ==== Sys2Proof/Decode.lean ====
section
/-! DEFINITION. The decoder (R34–R53, 03_encoding.md), total on any parcels and refusing by name, and after it the
encoder, written from the same format tables. A command record of the command ring (R372) decodes here too. -/

namespace Sys2Proof

/-- Why parcels are not an instruction of the engine they name (R49). -/
inductive DecErr where
  /-- OP is a dash in the engine's map (R49, 1). -/
  | badOp
  /-- LEN is not the defined length of OP's format (R49, 2). -/
  | badLen
  /-- A reserved bit is one (R49, 3). -/
  | reservedBit
  /-- A field holds a refused value (R49, 4). -/
  | refused
  /-- Fewer parcels than LEN + 1 were given. -/
  | truncated
  deriving DecidableEq, Repr

/-- ENG of a first parcel (R34). -/
def p0Eng (p0 : Parcel) : BitVec 2 := p0.extractLsb' 14 2
/-- LEN of a first parcel (R34): the parcel count minus one. -/
def p0Len (p0 : Parcel) : BitVec 2 := p0.extractLsb' 12 2
/-- OP of a first parcel (R34). -/
def p0Op (p0 : Parcel) : BitVec 6 := p0.extractLsb' 6 6
/-- The number of parcels a walk passes (R37). -/
def parcelCount (p0 : Parcel) : Nat := (p0Len p0).toNat + 1

/-- The bits of `mask` are zero in `p`. -/
def rz (p : Parcel) (mask : Nat) : Bool := (p.toNat &&& mask) = 0

/-- Go on only where LEN is `n` (R49, 2). -/
def len (p0 : Parcel) (n : Nat) (k : Except DecErr Instr) : Except DecErr Instr :=
  if (p0Len p0).toNat = n then k else .error .badLen

/-- The instruction, where its reserved bits are zero (R49, 3) and no field is refused (R49, 4). -/
def chk (reserved : Bool) (i : Instr) : Except DecErr Instr :=
  if reserved then (if wellFormed i then .ok i else .error .refused) else .error .reservedBit

/-- The control opcode map (R42, R43): one arm per assigned OP. -/
def decodeControl (op : Nat) (p0 p1 p2 : Parcel) : Except DecErr Instr :=
  match op with
  | 0x0 => len p0 0 <| chk (rz p0 0x3f && rz p1 0x0 && rz p2 0x0)
      (.nop)
  | 0x1 => len p0 1 <| 
    match (p1.extractLsb' 0 8).toNat with
    | 0x0 => chk (rz p0 0x0 && rz p1 0x0 && rz p2 0x0)
        (.add (p0.extractLsb' 2 4) (p1.extractLsb' 12 4) (p1.extractLsb' 8 4) (p0.getLsbD 1) (p0.getLsbD 0))
    | 0x1 => chk (rz p0 0x0 && rz p1 0x0 && rz p2 0x0)
        (.sub (p0.extractLsb' 2 4) (p1.extractLsb' 12 4) (p1.extractLsb' 8 4) (p0.getLsbD 1) (p0.getLsbD 0))
    | 0x2 => chk (rz p0 0x0 && rz p1 0x0 && rz p2 0x0)
        (.mul (p0.extractLsb' 2 4) (p1.extractLsb' 12 4) (p1.extractLsb' 8 4) (p0.getLsbD 1) (p0.getLsbD 0))
    | 0x3 => chk (rz p0 0x0 && rz p1 0x0 && rz p2 0x0)
        (.mulh (p0.extractLsb' 2 4) (p1.extractLsb' 12 4) (p1.extractLsb' 8 4) (p0.getLsbD 1) (p0.getLsbD 0))
    | 0x4 => chk (rz p0 0x0 && rz p1 0x0 && rz p2 0x0)
        (.mulhu (p0.extractLsb' 2 4) (p1.extractLsb' 12 4) (p1.extractLsb' 8 4) (p0.getLsbD 1) (p0.getLsbD 0))
    | 0x5 => chk (rz p0 0x0 && rz p1 0x0 && rz p2 0x0)
        (.divs (p0.extractLsb' 2 4) (p1.extractLsb' 12 4) (p1.extractLsb' 8 4) (p0.getLsbD 1) (p0.getLsbD 0))
    | 0x6 => chk (rz p0 0x0 && rz p1 0x0 && rz p2 0x0)
        (.divu (p0.extractLsb' 2 4) (p1.extractLsb' 12 4) (p1.extractLsb' 8 4) (p0.getLsbD 1) (p0.getLsbD 0))
    | 0x7 => chk (rz p0 0x0 && rz p1 0x0 && rz p2 0x0)
        (.rems (p0.extractLsb' 2 4) (p1.extractLsb' 12 4) (p1.extractLsb' 8 4) (p0.getLsbD 1) (p0.getLsbD 0))
    | 0x8 => chk (rz p0 0x0 && rz p1 0x0 && rz p2 0x0)
        (.remu (p0.extractLsb' 2 4) (p1.extractLsb' 12 4) (p1.extractLsb' 8 4) (p0.getLsbD 1) (p0.getLsbD 0))
    | 0x10 => chk (rz p0 0x0 && rz p1 0x0 && rz p2 0x0)
        (.and (p0.extractLsb' 2 4) (p1.extractLsb' 12 4) (p1.extractLsb' 8 4) (p0.getLsbD 1) (p0.getLsbD 0))
    | 0x11 => chk (rz p0 0x0 && rz p1 0x0 && rz p2 0x0)
        (.or (p0.extractLsb' 2 4) (p1.extractLsb' 12 4) (p1.extractLsb' 8 4) (p0.getLsbD 1) (p0.getLsbD 0))
    | 0x12 => chk (rz p0 0x0 && rz p1 0x0 && rz p2 0x0)
        (.xor (p0.extractLsb' 2 4) (p1.extractLsb' 12 4) (p1.extractLsb' 8 4) (p0.getLsbD 1) (p0.getLsbD 0))
    | 0x18 => chk (rz p0 0x0 && rz p1 0x0 && rz p2 0x0)
        (.shl (p0.extractLsb' 2 4) (p1.extractLsb' 12 4) (p1.extractLsb' 8 4) (p0.getLsbD 1) (p0.getLsbD 0))
    | 0x19 => chk (rz p0 0x0 && rz p1 0x0 && rz p2 0x0)
        (.shr (p0.extractLsb' 2 4) (p1.extractLsb' 12 4) (p1.extractLsb' 8 4) (p0.getLsbD 1) (p0.getLsbD 0))
    | 0x1a => chk (rz p0 0x0 && rz p1 0x0 && rz p2 0x0)
        (.sha (p0.extractLsb' 2 4) (p1.extractLsb' 12 4) (p1.extractLsb' 8 4) (p0.getLsbD 1) (p0.getLsbD 0))
    | 0x20 => chk (rz p0 0x0 && rz p1 0x0 && rz p2 0x0)
        (.min (p0.extractLsb' 2 4) (p1.extractLsb' 12 4) (p1.extractLsb' 8 4) (p0.getLsbD 1) (p0.getLsbD 0))
    | 0x21 => chk (rz p0 0x0 && rz p1 0x0 && rz p2 0x0)
        (.max (p0.extractLsb' 2 4) (p1.extractLsb' 12 4) (p1.extractLsb' 8 4) (p0.getLsbD 1) (p0.getLsbD 0))
    | 0x22 => chk (rz p0 0x0 && rz p1 0x0 && rz p2 0x0)
        (.minu (p0.extractLsb' 2 4) (p1.extractLsb' 12 4) (p1.extractLsb' 8 4) (p0.getLsbD 1) (p0.getLsbD 0))
    | 0x23 => chk (rz p0 0x0 && rz p1 0x0 && rz p2 0x0)
        (.maxu (p0.extractLsb' 2 4) (p1.extractLsb' 12 4) (p1.extractLsb' 8 4) (p0.getLsbD 1) (p0.getLsbD 0))
    | _ => .error .refused
  | 0x2 => len p0 1 <| 
    match (p1.extractLsb' 0 8).toNat with
    | 0x0 => chk (rz p0 0x1 && rz p1 0xf00 && rz p2 0x0)
        (.mov (p0.extractLsb' 2 4) (p1.extractLsb' 12 4) (p0.getLsbD 1))
    | 0x1 => chk (rz p0 0x1 && rz p1 0xf00 && rz p2 0x0)
        (.neg (p0.extractLsb' 2 4) (p1.extractLsb' 12 4) (p0.getLsbD 1))
    | 0x2 => chk (rz p0 0x1 && rz p1 0xf00 && rz p2 0x0)
        (.not (p0.extractLsb' 2 4) (p1.extractLsb' 12 4) (p0.getLsbD 1))
    | 0x3 => chk (rz p0 0x1 && rz p1 0xf00 && rz p2 0x0)
        (.clz (p0.extractLsb' 2 4) (p1.extractLsb' 12 4) (p0.getLsbD 1))
    | 0x4 => chk (rz p0 0x1 && rz p1 0xf00 && rz p2 0x0)
        (.popc (p0.extractLsb' 2 4) (p1.extractLsb' 12 4) (p0.getLsbD 1))
    | 0x5 => chk (rz p0 0x1 && rz p1 0xf00 && rz p2 0x0)
        (.sextb (p0.extractLsb' 2 4) (p1.extractLsb' 12 4) (p0.getLsbD 1))
    | 0x6 => chk (rz p0 0x1 && rz p1 0xf00 && rz p2 0x0)
        (.sexth (p0.extractLsb' 2 4) (p1.extractLsb' 12 4) (p0.getLsbD 1))
    | 0x7 => chk (rz p0 0x1 && rz p1 0xf00 && rz p2 0x0)
        (.sextw (p0.extractLsb' 2 4) (p1.extractLsb' 12 4) (p0.getLsbD 1))
    | 0x8 => chk (rz p0 0x1 && rz p1 0xf00 && rz p2 0x0)
        (.zextb (p0.extractLsb' 2 4) (p1.extractLsb' 12 4) (p0.getLsbD 1))
    | 0x9 => chk (rz p0 0x1 && rz p1 0xf00 && rz p2 0x0)
        (.zexth (p0.extractLsb' 2 4) (p1.extractLsb' 12 4) (p0.getLsbD 1))
    | 0xa => chk (rz p0 0x1 && rz p1 0xf00 && rz p2 0x0)
        (.zextw (p0.extractLsb' 2 4) (p1.extractLsb' 12 4) (p0.getLsbD 1))
    | _ => .error .refused
  | 0x3 => len p0 1 <| chk (rz p0 0x1 && rz p1 0x0 && rz p2 0x0)
      (.addi (p0.extractLsb' 2 4) (p1.extractLsb' 12 4) (p0.getLsbD 1) (p1.extractLsb' 0 12))
  | 0x4 => len p0 1 <| chk (rz p0 0x1 && rz p1 0x0 && rz p2 0x0)
      (.andi (p0.extractLsb' 2 4) (p1.extractLsb' 12 4) (p0.getLsbD 1) (p1.extractLsb' 0 12))
  | 0x5 => len p0 1 <| chk (rz p0 0x1 && rz p1 0x0 && rz p2 0x0)
      (.ori (p0.extractLsb' 2 4) (p1.extractLsb' 12 4) (p0.getLsbD 1) (p1.extractLsb' 0 12))
  | 0x6 => len p0 1 <| chk (rz p0 0x1 && rz p1 0x0 && rz p2 0x0)
      (.xori (p0.extractLsb' 2 4) (p1.extractLsb' 12 4) (p0.getLsbD 1) (p1.extractLsb' 0 12))
  | 0x7 => len p0 1 <| chk (rz p0 0x1 && rz p1 0xfc0 && rz p2 0x0)
      (.shli (p0.extractLsb' 2 4) (p1.extractLsb' 12 4) (p0.getLsbD 1) (p1.extractLsb' 0 6))
  | 0x8 => len p0 1 <| chk (rz p0 0x1 && rz p1 0xfc0 && rz p2 0x0)
      (.shri (p0.extractLsb' 2 4) (p1.extractLsb' 12 4) (p0.getLsbD 1) (p1.extractLsb' 0 6))
  | 0x9 => len p0 1 <| chk (rz p0 0x1 && rz p1 0xfc0 && rz p2 0x0)
      (.shai (p0.extractLsb' 2 4) (p1.extractLsb' 12 4) (p0.getLsbD 1) (p1.extractLsb' 0 6))
  | 0xa => len p0 2 <| chk (rz p0 0x3 && rz p1 0x0 && rz p2 0x0)
      (.li (p0.extractLsb' 2 4) ((p2.extractLsb' 0 16) ++ (p1.extractLsb' 0 16)))
  | 0xb => len p0 2 <| chk (rz p0 0x3 && rz p1 0x0 && rz p2 0x0)
      (.lih (p0.extractLsb' 2 4) ((p2.extractLsb' 0 16) ++ (p1.extractLsb' 0 16)))
  | 0xc => len p0 0 <| chk (rz p0 0x3 && rz p1 0x0 && rz p2 0x0)
      (.drop (p0.extractLsb' 2 4))
  | 0xd => len p0 0 <| chk (rz p0 0x3 && rz p1 0x0 && rz p2 0x0)
      (.qclr (p0.extractLsb' 2 4))
  | 0xe => len p0 1 <| chk (rz p0 0x3 && rz p1 0xfff && rz p2 0x0)
      (.qlen (p0.extractLsb' 2 4) (p1.extractLsb' 12 4))
  | 0xf => len p0 1 <| chk (rz p0 0x3c && rz p1 0xf8 && rz p2 0x0)
      (.cmp (p1.extractLsb' 12 4) (p1.extractLsb' 8 4) (p0.getLsbD 1) (p0.getLsbD 0) (p1.extractLsb' 0 3))
  | 0x10 => len p0 1 <| chk (rz p0 0x21 && rz p1 0x0 && rz p2 0x0)
      (.cmpi (p1.extractLsb' 12 4) (p0.getLsbD 1) (p0.extractLsb' 2 3) (p1.extractLsb' 0 12))
  | 0x11 => len p0 1 <| chk (rz p0 0x23 && rz p1 0x0 && rz p2 0x0)
      (.b (p0.extractLsb' 2 3) (p1.extractLsb' 0 16))
  | 0x12 => len p0 1 <| chk (rz p0 0x1 && rz p1 0x0 && rz p2 0x0)
      (.bt (p0.getLsbD 5) (p0.getLsbD 1) (p0.extractLsb' 2 3) (p1.extractLsb' 0 16))
  | 0x13 => len p0 1 <| chk (rz p0 0x1 && rz p1 0x0 && rz p2 0x0)
      (.bf (p0.getLsbD 5) (p0.getLsbD 1) (p0.extractLsb' 2 3) (p1.extractLsb' 0 16))
  | 0x14 => len p0 1 <| chk (rz p0 0x23 && rz p1 0x0 && rz p2 0x0)
      (.call (p0.extractLsb' 2 3) (p1.extractLsb' 0 16))
  | 0x15 => len p0 0 <| chk (rz p0 0x23 && rz p1 0x0 && rz p2 0x0)
      (.ret (p0.extractLsb' 2 3))
  | 0x16 => len p0 1 <| chk (rz p0 0x20 && rz p1 0x0 && rz p2 0x0)
      (.loop (p0.extractLsb' 0 2) (p0.extractLsb' 2 3) (p1.extractLsb' 0 16))
  | 0x17 => len p0 1 <| chk (rz p0 0x31 && rz p1 0xfff && rz p2 0x0)
      (.lcset (p0.extractLsb' 2 2) (p1.extractLsb' 12 4) (p0.getLsbD 1))
  | 0x18 => len p0 1 <| chk (rz p0 0x3 && rz p1 0xfff && rz p2 0x0)
      (.spushm (p0.extractLsb' 2 4) (p1.extractLsb' 12 4))
  | 0x19 => len p0 1 <| chk (rz p0 0x3 && rz p1 0xfff && rz p2 0x0)
      (.spopm (p0.extractLsb' 2 4) (p1.extractLsb' 12 4))
  | 0x1a => len p0 2 <| chk (rz p0 0x0 && rz p1 0xf && rz p2 0x0)
      (.ld ⟨(p0.extractLsb' 2 4), (p0.extractLsb' 0 2), (p1.extractLsb' 12 4), (p1.extractLsb' 8 4), (p1.extractLsb' 5 3), (p1.getLsbD 4), (p2.extractLsb' 0 16)⟩)
  | 0x1b => len p0 2 <| chk (rz p0 0x0 && rz p1 0xf && rz p2 0x0)
      (.lds ⟨(p0.extractLsb' 2 4), (p0.extractLsb' 0 2), (p1.extractLsb' 12 4), (p1.extractLsb' 8 4), (p1.extractLsb' 5 3), (p1.getLsbD 4), (p2.extractLsb' 0 16)⟩)
  | 0x1c => len p0 2 <| chk (rz p0 0x0 && rz p1 0x7 && rz p2 0x0)
      (.st ⟨(p0.extractLsb' 2 4), (p0.extractLsb' 0 2), (p1.extractLsb' 12 4), (p1.extractLsb' 8 4), (p1.extractLsb' 5 3), (p1.getLsbD 4), (p1.getLsbD 3), (p2.extractLsb' 0 16)⟩)
  | 0x1d => len p0 2 <| chk (rz p0 0x0 && rz p1 0xf && rz p2 0x0)
      (.lda ⟨(p0.extractLsb' 2 4), (p0.extractLsb' 0 2), (p1.extractLsb' 12 4), (p1.extractLsb' 8 4), (p1.extractLsb' 5 3), (p1.getLsbD 4), (p2.extractLsb' 0 16)⟩)
  | 0x1e => len p0 2 <| chk (rz p0 0x0 && rz p1 0x7 && rz p2 0x0)
      (.stl ⟨(p0.extractLsb' 2 4), (p0.extractLsb' 0 2), (p1.extractLsb' 12 4), (p1.extractLsb' 8 4), (p1.extractLsb' 5 3), (p1.getLsbD 4), (p1.getLsbD 3), (p2.extractLsb' 0 16)⟩)
  | 0x1f => len p0 2 <| if !p0.getLsbD 1 then .error .refused else 
    match (p2.extractLsb' 0 4).toNat with
    | 0x0 => chk (rz p0 0x0 && rz p1 0x7 && rz p2 0xfff0)
        (.aadd ⟨(p0.extractLsb' 2 4), (p0.getLsbD 0), (p1.extractLsb' 12 4), (p1.extractLsb' 8 4), (p1.extractLsb' 5 3), (p1.getLsbD 4), (p1.getLsbD 3)⟩)
    | 0x1 => chk (rz p0 0x0 && rz p1 0x7 && rz p2 0xfff0)
        (.aand ⟨(p0.extractLsb' 2 4), (p0.getLsbD 0), (p1.extractLsb' 12 4), (p1.extractLsb' 8 4), (p1.extractLsb' 5 3), (p1.getLsbD 4), (p1.getLsbD 3)⟩)
    | 0x2 => chk (rz p0 0x0 && rz p1 0x7 && rz p2 0xfff0)
        (.aor ⟨(p0.extractLsb' 2 4), (p0.getLsbD 0), (p1.extractLsb' 12 4), (p1.extractLsb' 8 4), (p1.extractLsb' 5 3), (p1.getLsbD 4), (p1.getLsbD 3)⟩)
    | 0x3 => chk (rz p0 0x0 && rz p1 0x7 && rz p2 0xfff0)
        (.axor ⟨(p0.extractLsb' 2 4), (p0.getLsbD 0), (p1.extractLsb' 12 4), (p1.extractLsb' 8 4), (p1.extractLsb' 5 3), (p1.getLsbD 4), (p1.getLsbD 3)⟩)
    | 0x4 => chk (rz p0 0x0 && rz p1 0x7 && rz p2 0xfff0)
        (.amin ⟨(p0.extractLsb' 2 4), (p0.getLsbD 0), (p1.extractLsb' 12 4), (p1.extractLsb' 8 4), (p1.extractLsb' 5 3), (p1.getLsbD 4), (p1.getLsbD 3)⟩)
    | 0x5 => chk (rz p0 0x0 && rz p1 0x7 && rz p2 0xfff0)
        (.amax ⟨(p0.extractLsb' 2 4), (p0.getLsbD 0), (p1.extractLsb' 12 4), (p1.extractLsb' 8 4), (p1.extractLsb' 5 3), (p1.getLsbD 4), (p1.getLsbD 3)⟩)
    | 0x6 => chk (rz p0 0x0 && rz p1 0x7 && rz p2 0xfff0)
        (.aminu ⟨(p0.extractLsb' 2 4), (p0.getLsbD 0), (p1.extractLsb' 12 4), (p1.extractLsb' 8 4), (p1.extractLsb' 5 3), (p1.getLsbD 4), (p1.getLsbD 3)⟩)
    | 0x7 => chk (rz p0 0x0 && rz p1 0x7 && rz p2 0xfff0)
        (.amaxu ⟨(p0.extractLsb' 2 4), (p0.getLsbD 0), (p1.extractLsb' 12 4), (p1.extractLsb' 8 4), (p1.extractLsb' 5 3), (p1.getLsbD 4), (p1.getLsbD 3)⟩)
    | 0x8 => chk (rz p0 0x0 && rz p1 0x7 && rz p2 0xfff0)
        (.axchg ⟨(p0.extractLsb' 2 4), (p0.getLsbD 0), (p1.extractLsb' 12 4), (p1.extractLsb' 8 4), (p1.extractLsb' 5 3), (p1.getLsbD 4), (p1.getLsbD 3)⟩)
    | _ => .error .refused
  | 0x20 => len p0 2 <|
    if p0.getLsbD 1 then
      chk (rz p0 0x0 && rz p1 0xf && rz p2 0xff)
        (.cas ⟨(p0.extractLsb' 2 4), (p0.getLsbD 0), (p1.extractLsb' 12 4), (p1.extractLsb' 8 4), (p1.extractLsb' 5 3), (p1.getLsbD 4), (p2.extractLsb' 12 4), (p2.extractLsb' 8 4)⟩)
    else .error .refused
  | 0x21 => len p0 1 <| 
    match (p0.extractLsb' 0 3).toNat with
    | 0x0 => chk (rz p0 0x0 && rz p1 0x0 && rz p2 0x0)
        (.fenceFull (p0.extractLsb' 3 3) (p1.extractLsb' 0 16))
    | 0x1 => chk (rz p0 0x0 && rz p1 0x0 && rz p2 0x0)
        (.fenceSs (p0.extractLsb' 3 3) (p1.extractLsb' 0 16))
    | 0x2 => chk (rz p0 0x0 && rz p1 0x0 && rz p2 0x0)
        (.fenceLl (p0.extractLsb' 3 3) (p1.extractLsb' 0 16))
    | _ => .error .refused
  | 0x22 => len p0 1 <| chk (rz p0 0x0 && rz p1 0xff && rz p2 0x0)
      (.twait (p0.extractLsb' 1 5) (p0.getLsbD 0) (p1.extractLsb' 12 4) (p1.extractLsb' 9 3) (p1.getLsbD 8))
  | 0x23 => len p0 1 <| chk (rz p0 0x0 && rz p1 0xff && rz p2 0x0)
      (.tadd (p0.extractLsb' 1 5) (p0.getLsbD 0) (p1.extractLsb' 12 4) (p1.extractLsb' 9 3) (p1.getLsbD 8))
  | 0x24 => len p0 1 <| chk (rz p0 0x1 && rz p1 0xfff && rz p2 0x0)
      (.tread (p1.extractLsb' 12 4) (p0.extractLsb' 1 5))
  | 0x25 => len p0 1 <| chk (rz p0 0x3f && rz p1 0x0 && rz p2 0x0)
      (.waitc (p1.extractLsb' 12 4) (p1.extractLsb' 8 4) (p1.extractLsb' 4 4) (p1.extractLsb' 0 4))
  | 0x26 => len p0 0 <| chk (rz p0 0x7 && rz p1 0x0 && rz p2 0x0)
      (.garv (p0.extractLsb' 4 2) (p0.getLsbD 3))
  | 0x27 => len p0 0 <| chk (rz p0 0x7 && rz p1 0x0 && rz p2 0x0)
      (.gwait (p0.extractLsb' 4 2) (p0.getLsbD 3))
  | 0x28 => len p0 0 <| chk (rz p0 0x7 && rz p1 0x0 && rz p2 0x0)
      (.gsync (p0.extractLsb' 4 2) (p0.getLsbD 3))
  | 0x29 => len p0 0 <| chk (rz p0 0x7 && rz p1 0x0 && rz p2 0x0)
      (.fork (p0.getLsbD 5) (p0.getLsbD 4) (p0.getLsbD 3))
  | 0x2a => len p0 0 <| chk (rz p0 0x3f && rz p1 0x0 && rz p2 0x0)
      (.rdv)
  | 0x2b => len p0 1 <| chk (rz p0 0x0 && rz p1 0xfff && rz p2 0x0)
      (.exit (p0.extractLsb' 3 3) (p0.getLsbD 2) (p0.extractLsb' 0 2) (p1.extractLsb' 12 4))
  | 0x2c => len p0 0 <| chk (rz p0 0x3f && rz p1 0x0 && rz p2 0x0)
      (.yield)
  | 0x2d => len p0 0 <| chk (rz p0 0x3f && rz p1 0x0 && rz p2 0x0)
      (.chkp)
  | 0x2e => len p0 1 <| chk (rz p0 0x3 && rz p1 0xffc0 && rz p2 0x0)
      (.parm (p0.extractLsb' 2 4) (p1.extractLsb' 0 6))
  | 0x2f => len p0 1 <| chk (rz p0 0x3f && rz p1 0xff00 && rz p2 0x0)
      (.winset (p1.extractLsb' 0 8))
  | 0x30 => len p0 1 <| chk (rz p0 0x1 && rz p1 0xfe && rz p2 0x0)
      (.enq (p0.extractLsb' 2 4) (p1.extractLsb' 12 4) (p1.extractLsb' 8 4) (p0.getLsbD 1) (p1.getLsbD 0))
  | 0x31 => len p0 1 <| chk (rz p0 0x1 && rz p1 0xffe && rz p2 0x0)
      (.deq (p0.extractLsb' 2 4) (p1.extractLsb' 12 4) (p0.getLsbD 1) (p1.getLsbD 0))
  | 0x32 => len p0 1 <| chk (rz p0 0x1 && rz p1 0xfff && rz p2 0x0)
      (.qstat (p0.extractLsb' 2 4) (p1.extractLsb' 12 4) (p0.getLsbD 1))
  | 0x33 => len p0 1 <| chk (rz p0 0x3d && rz p1 0xfff && rz p2 0x0)
      (.wpub (p1.extractLsb' 12 4) (p0.getLsbD 1))
  | 0x34 => len p0 1 <| 
    match (p1.extractLsb' 0 8).toNat with
    | 0x1 => chk (rz p0 0x3 && rz p1 0xff00 && rz p2 0x0)
        (.wadoptToken (p0.extractLsb' 2 4))
    | 0x2 => chk (rz p0 0x3 && rz p1 0xff00 && rz p2 0x0)
        (.wadoptSeq (p0.extractLsb' 2 4))
    | _ => .error .refused
  | 0x35 => len p0 1 <| chk (rz p0 0x1 && rz p1 0xfff && rz p2 0x0)
      (.whold (p0.extractLsb' 2 4) (p1.extractLsb' 12 4) (p0.getLsbD 1))
  | 0x36 => len p0 1 <| chk (rz p0 0x3d && rz p1 0xfff && rz p2 0x0)
      (.wdrop (p1.extractLsb' 12 4) (p0.getLsbD 1))
  | 0x37 => len p0 1 <| chk (rz p0 0x1 && rz p1 0xfff && rz p2 0x0)
      (.wqry (p0.extractLsb' 2 4) (p1.extractLsb' 12 4) (p0.getLsbD 1))
  | 0x38 => len p0 1 <| chk (rz p0 0x3d && rz p1 0xfff && rz p2 0x0)
      (.spapp (p1.extractLsb' 12 4) (p0.getLsbD 1))
  | 0x39 => len p0 1 <| chk (rz p0 0x0 && rz p1 0x0 && rz p2 0x0)
      (.acpt (p0.extractLsb' 2 4) (p1.extractLsb' 12 4) (p1.extractLsb' 8 4) (p0.getLsbD 1) (p0.getLsbD 0) (p1.extractLsb' 0 8))
  | 0x3a => len p0 0 <| chk (rz p0 0x23 && rz p1 0x0 && rz p2 0x0)
      (.jfrag (p0.extractLsb' 2 3))
  | 0x3b => len p0 0 <| chk (rz p0 0x0 && rz p1 0x0 && rz p2 0x0)
      (.trap (p0.extractLsb' 0 6))
  | 0x3c => len p0 0 <| chk (rz p0 0x3f && rz p1 0x0 && rz p2 0x0)
      (.tret)
  | 0x3d => len p0 1 <| chk (rz p0 0x3 && rz p1 0xf000 && rz p2 0x0)
      (.csrr (p0.extractLsb' 2 4) (p1.extractLsb' 0 12))
  | 0x3e => len p0 1 <| chk (rz p0 0x3d && rz p1 0x0 && rz p2 0x0)
      (.csrw (p1.extractLsb' 0 12) (p1.extractLsb' 12 4) (p0.getLsbD 1))
  | 0x3f => len p0 0 <| chk (rz p0 0x3f && rz p1 0x0 && rz p2 0x0)
      (.scall)
  | _ => .error .badOp

/-- The vector opcode map (R46, R47): one arm per assigned OP. -/
def decodeVector (op : Nat) (p0 p1 p2 : Parcel) : Except DecErr Instr :=
  match op with
  | 0x0 => len p0 0 <| chk (rz p0 0x3f && rz p1 0x0 && rz p2 0x0)
      (.vnop)
  | 0x1 => len p0 2 <| chk (rz p0 0x0 && rz p1 0x0 && rz p2 0xfc07)
      (.vadd (p0.extractLsb' 0 6) (p1.extractLsb' 10 6) (p1.extractLsb' 4 6) ⟨(p1.extractLsb' 1 3), (p1.getLsbD 0)⟩ (p2.extractLsb' 7 3) ⟨(p2.getLsbD 6), (p2.getLsbD 5), (p2.extractLsb' 3 2)⟩)
  | 0x2 => len p0 2 <| chk (rz p0 0x0 && rz p1 0x0 && rz p2 0xfc07)
      (.vsub (p0.extractLsb' 0 6) (p1.extractLsb' 10 6) (p1.extractLsb' 4 6) ⟨(p1.extractLsb' 1 3), (p1.getLsbD 0)⟩ (p2.extractLsb' 7 3) ⟨(p2.getLsbD 6), (p2.getLsbD 5), (p2.extractLsb' 3 2)⟩)
  | 0x3 => len p0 2 <| chk (rz p0 0x0 && rz p1 0x0 && rz p2 0xfc07)
      (.vmul (p0.extractLsb' 0 6) (p1.extractLsb' 10 6) (p1.extractLsb' 4 6) ⟨(p1.extractLsb' 1 3), (p1.getLsbD 0)⟩ (p2.extractLsb' 7 3) ⟨(p2.getLsbD 6), (p2.getLsbD 5), (p2.extractLsb' 3 2)⟩)
  | 0x4 => len p0 2 <| chk (rz p0 0x0 && rz p1 0x0 && rz p2 0x7)
      (.vfma (p0.extractLsb' 0 6) (p1.extractLsb' 10 6) (p1.extractLsb' 4 6) (p2.extractLsb' 10 6) ⟨(p1.extractLsb' 1 3), (p1.getLsbD 0)⟩ (p2.extractLsb' 7 3) ⟨(p2.getLsbD 6), (p2.getLsbD 5), (p2.extractLsb' 3 2)⟩)
  | 0x5 => len p0 2 <| chk (rz p0 0x0 && rz p1 0x0 && rz p2 0x7)
      (.vfms (p0.extractLsb' 0 6) (p1.extractLsb' 10 6) (p1.extractLsb' 4 6) (p2.extractLsb' 10 6) ⟨(p1.extractLsb' 1 3), (p1.getLsbD 0)⟩ (p2.extractLsb' 7 3) ⟨(p2.getLsbD 6), (p2.getLsbD 5), (p2.extractLsb' 3 2)⟩)
  | 0x6 => len p0 2 <| chk (rz p0 0x0 && rz p1 0x0 && rz p2 0x7)
      (.vfnma (p0.extractLsb' 0 6) (p1.extractLsb' 10 6) (p1.extractLsb' 4 6) (p2.extractLsb' 10 6) ⟨(p1.extractLsb' 1 3), (p1.getLsbD 0)⟩ (p2.extractLsb' 7 3) ⟨(p2.getLsbD 6), (p2.getLsbD 5), (p2.extractLsb' 3 2)⟩)
  | 0x7 => len p0 2 <| chk (rz p0 0x0 && rz p1 0x0 && rz p2 0xfc07)
      (.vmin (p0.extractLsb' 0 6) (p1.extractLsb' 10 6) (p1.extractLsb' 4 6) ⟨(p1.extractLsb' 1 3), (p1.getLsbD 0)⟩ (p2.extractLsb' 7 3) ⟨(p2.getLsbD 6), (p2.getLsbD 5), (p2.extractLsb' 3 2)⟩)
  | 0x8 => len p0 2 <| chk (rz p0 0x0 && rz p1 0x0 && rz p2 0xfc07)
      (.vmax (p0.extractLsb' 0 6) (p1.extractLsb' 10 6) (p1.extractLsb' 4 6) ⟨(p1.extractLsb' 1 3), (p1.getLsbD 0)⟩ (p2.extractLsb' 7 3) ⟨(p2.getLsbD 6), (p2.getLsbD 5), (p2.extractLsb' 3 2)⟩)
  | 0x9 => len p0 2 <| chk (rz p0 0x0 && rz p1 0x3f0 && rz p2 0xfc07)
      (.vabs (p0.extractLsb' 0 6) (p1.extractLsb' 10 6) ⟨(p1.extractLsb' 1 3), (p1.getLsbD 0)⟩ (p2.extractLsb' 7 3) ⟨(p2.getLsbD 6), (p2.getLsbD 5), (p2.extractLsb' 3 2)⟩)
  | 0xa => len p0 2 <| chk (rz p0 0x0 && rz p1 0x3f0 && rz p2 0xfc07)
      (.vneg (p0.extractLsb' 0 6) (p1.extractLsb' 10 6) ⟨(p1.extractLsb' 1 3), (p1.getLsbD 0)⟩ (p2.extractLsb' 7 3) ⟨(p2.getLsbD 6), (p2.getLsbD 5), (p2.extractLsb' 3 2)⟩)
  | 0xb => len p0 2 <| chk (rz p0 0x0 && rz p1 0x0 && rz p2 0xff87)
      (.vscale (p0.extractLsb' 0 6) (p1.extractLsb' 10 6) (p1.extractLsb' 4 6) ⟨(p1.extractLsb' 1 3), (p1.getLsbD 0)⟩ ⟨(p2.getLsbD 6), (p2.getLsbD 5), (p2.extractLsb' 3 2)⟩)
  | 0xc => len p0 2 <| chk (rz p0 0x0 && rz p1 0x3f0 && rz p2 0xff87)
      (.vrcp (p0.extractLsb' 0 6) (p1.extractLsb' 10 6) ⟨(p1.extractLsb' 1 3), (p1.getLsbD 0)⟩ ⟨(p2.getLsbD 6), (p2.getLsbD 5), (p2.extractLsb' 3 2)⟩)
  | 0xd => len p0 2 <| chk (rz p0 0x0 && rz p1 0x3f0 && rz p2 0xff87)
      (.vrsq (p0.extractLsb' 0 6) (p1.extractLsb' 10 6) ⟨(p1.extractLsb' 1 3), (p1.getLsbD 0)⟩ ⟨(p2.getLsbD 6), (p2.getLsbD 5), (p2.extractLsb' 3 2)⟩)
  | 0xe => len p0 2 <| chk (rz p0 0x0 && rz p1 0x3f0 && rz p2 0xff87)
      (.vsqrt (p0.extractLsb' 0 6) (p1.extractLsb' 10 6) ⟨(p1.extractLsb' 1 3), (p1.getLsbD 0)⟩ ⟨(p2.getLsbD 6), (p2.getLsbD 5), (p2.extractLsb' 3 2)⟩)
  | 0xf => len p0 2 <| chk (rz p0 0x0 && rz p1 0x3f0 && rz p2 0xff87)
      (.vexp2 (p0.extractLsb' 0 6) (p1.extractLsb' 10 6) ⟨(p1.extractLsb' 1 3), (p1.getLsbD 0)⟩ ⟨(p2.getLsbD 6), (p2.getLsbD 5), (p2.extractLsb' 3 2)⟩)
  | 0x10 => len p0 2 <| chk (rz p0 0x0 && rz p1 0x3f0 && rz p2 0xff87)
      (.vlog2 (p0.extractLsb' 0 6) (p1.extractLsb' 10 6) ⟨(p1.extractLsb' 1 3), (p1.getLsbD 0)⟩ ⟨(p2.getLsbD 6), (p2.getLsbD 5), (p2.extractLsb' 3 2)⟩)
  | 0x11 => len p0 2 <|
    if p2.extractLsb' 7 3 = 4#3 && p2.extractLsb' 0 3 = 0#3 then
      chk (rz p0 0x0 && rz p1 0x0 && rz p2 0xfc38)
        (.vcvtL6 (p0.extractLsb' 0 6) (p1.extractLsb' 10 6) (p1.extractLsb' 4 6) ⟨(p1.extractLsb' 1 3), (p1.getLsbD 0)⟩ (p2.getLsbD 6))
    else
      chk (rz p0 0x0 && rz p1 0x0 && rz p2 0xfc00)
        (.vcvt (p0.extractLsb' 0 6) (p1.extractLsb' 10 6) (p1.extractLsb' 4 6) ⟨(p1.extractLsb' 1 3), (p1.getLsbD 0)⟩ (p2.extractLsb' 7 3) (p2.extractLsb' 0 3) ⟨(p2.getLsbD 6), (p2.getLsbD 5), (p2.extractLsb' 3 2)⟩)
  | 0x12 => len p0 2 <| chk (rz p0 0x0 && rz p1 0x0 && rz p2 0xffff)
      (.vand (p0.extractLsb' 0 6) (p1.extractLsb' 10 6) (p1.extractLsb' 4 6) ⟨(p1.extractLsb' 1 3), (p1.getLsbD 0)⟩)
  | 0x13 => len p0 2 <| chk (rz p0 0x0 && rz p1 0x0 && rz p2 0xffff)
      (.vor (p0.extractLsb' 0 6) (p1.extractLsb' 10 6) (p1.extractLsb' 4 6) ⟨(p1.extractLsb' 1 3), (p1.getLsbD 0)⟩)
  | 0x14 => len p0 2 <| chk (rz p0 0x0 && rz p1 0x0 && rz p2 0xffff)
      (.vxor (p0.extractLsb' 0 6) (p1.extractLsb' 10 6) (p1.extractLsb' 4 6) ⟨(p1.extractLsb' 1 3), (p1.getLsbD 0)⟩)
  | 0x15 => len p0 2 <| chk (rz p0 0x0 && rz p1 0x3f0 && rz p2 0xffff)
      (.vnot (p0.extractLsb' 0 6) (p1.extractLsb' 10 6) ⟨(p1.extractLsb' 1 3), (p1.getLsbD 0)⟩)
  | 0x16 => len p0 2 <| chk (rz p0 0x0 && rz p1 0x0 && rz p2 0xffff)
      (.vshl (p0.extractLsb' 0 6) (p1.extractLsb' 10 6) (p1.extractLsb' 4 6) ⟨(p1.extractLsb' 1 3), (p1.getLsbD 0)⟩)
  | 0x17 => len p0 2 <| chk (rz p0 0x0 && rz p1 0x0 && rz p2 0xffff)
      (.vshr (p0.extractLsb' 0 6) (p1.extractLsb' 10 6) (p1.extractLsb' 4 6) ⟨(p1.extractLsb' 1 3), (p1.getLsbD 0)⟩)
  | 0x18 => len p0 2 <| chk (rz p0 0x0 && rz p1 0x0 && rz p2 0xffff)
      (.vsha (p0.extractLsb' 0 6) (p1.extractLsb' 10 6) (p1.extractLsb' 4 6) ⟨(p1.extractLsb' 1 3), (p1.getLsbD 0)⟩)
  | 0x19 => len p0 2 <| chk (rz p0 0x0 && rz p1 0x0 && rz p2 0xffff)
      (.vsel (p0.extractLsb' 0 6) (p1.extractLsb' 10 6) (p1.extractLsb' 4 6) ⟨(p1.extractLsb' 1 3), (p1.getLsbD 0)⟩)
  | 0x1a => len p0 2 <| chk (rz p0 0x38 && rz p1 0x0 && rz p2 0xfc38)
      (.vcmp (p0.extractLsb' 0 3) (p1.extractLsb' 10 6) (p1.extractLsb' 4 6) ⟨(p1.extractLsb' 1 3), (p1.getLsbD 0)⟩ (p2.extractLsb' 7 3) (p2.extractLsb' 0 3) (p2.getLsbD 6))
  | 0x1b => len p0 2 <| chk (rz p0 0x3e && rz p1 0x0 && rz p2 0xfc38)
      (.vcmpq (p0.getLsbD 0) (p1.extractLsb' 10 6) (p1.extractLsb' 4 6) ⟨(p1.extractLsb' 1 3), (p1.getLsbD 0)⟩ (p2.extractLsb' 7 3) (p2.extractLsb' 0 3) (p2.getLsbD 6))
  | 0x1c => len p0 2 <| chk (rz p0 0x3f && rz p1 0x3f0 && rz p2 0xfc3f)
      (.vtestz (p1.extractLsb' 10 6) ⟨(p1.extractLsb' 1 3), (p1.getLsbD 0)⟩ (p2.extractLsb' 7 3) (p2.getLsbD 6))
  | 0x1d => len p0 2 <| chk (rz p0 0x3f && rz p1 0x3f0 && rz p2 0xfc3f)
      (.vtestn (p1.extractLsb' 10 6) ⟨(p1.extractLsb' 1 3), (p1.getLsbD 0)⟩ (p2.extractLsb' 7 3) (p2.getLsbD 6))
  | 0x1e => len p0 2 <| 
    match (p2.extractLsb' 0 3).toNat with
    | 0x0 => chk (rz p0 0x38 && rz p1 0xe38f && rz p2 0xfff8)
        (.vmand (p0.extractLsb' 0 3) (p1.extractLsb' 10 3) (p1.extractLsb' 4 3))
    | 0x1 => chk (rz p0 0x38 && rz p1 0xe38f && rz p2 0xfff8)
        (.vmor (p0.extractLsb' 0 3) (p1.extractLsb' 10 3) (p1.extractLsb' 4 3))
    | 0x2 => chk (rz p0 0x38 && rz p1 0xe38f && rz p2 0xfff8)
        (.vmxor (p0.extractLsb' 0 3) (p1.extractLsb' 10 3) (p1.extractLsb' 4 3))
    | 0x3 => chk (rz p0 0x38 && rz p1 0xe38f && rz p2 0xfff8)
        (.vmandn (p0.extractLsb' 0 3) (p1.extractLsb' 10 3) (p1.extractLsb' 4 3))
    | 0x4 => chk (rz p0 0x38 && rz p1 0xe3ff && rz p2 0xfff8)
        (.vmnot (p0.extractLsb' 0 3) (p1.extractLsb' 10 3))
    | 0x5 => chk (rz p0 0x38 && rz p1 0xffff && rz p2 0xfff8)
        (.vmset (p0.extractLsb' 0 3))
    | 0x6 => chk (rz p0 0x38 && rz p1 0xffff && rz p2 0xfff8)
        (.vmclr (p0.extractLsb' 0 3))
    | _ => .error .refused
  | 0x1f => len p0 2 <| chk (rz p0 0x0 && rz p1 0x3f0 && rz p2 0xfc06)
      (.vrsum (p0.extractLsb' 0 6) (p1.extractLsb' 10 6) ⟨(p1.extractLsb' 1 3), (p1.getLsbD 0)⟩ (p2.extractLsb' 7 3) (p2.getLsbD 0) ⟨(p2.getLsbD 6), (p2.getLsbD 5), (p2.extractLsb' 3 2)⟩)
  | 0x20 => len p0 2 <| chk (rz p0 0x0 && rz p1 0x3f0 && rz p2 0xfc7e)
      (.vrmax (p0.extractLsb' 0 6) (p1.extractLsb' 10 6) ⟨(p1.extractLsb' 1 3), (p1.getLsbD 0)⟩ (p2.extractLsb' 7 3) (p2.getLsbD 0))
  | 0x21 => len p0 2 <| chk (rz p0 0x0 && rz p1 0x3f0 && rz p2 0xfc7e)
      (.vrmin (p0.extractLsb' 0 6) (p1.extractLsb' 10 6) ⟨(p1.extractLsb' 1 3), (p1.getLsbD 0)⟩ (p2.extractLsb' 7 3) (p2.getLsbD 0))
  | 0x22 => len p0 2 <| chk (rz p0 0x0 && rz p1 0x3f0 && rz p2 0xfffe)
      (.vramax (p0.extractLsb' 0 6) (p1.extractLsb' 10 6) ⟨(p1.extractLsb' 1 3), (p1.getLsbD 0)⟩ (p2.getLsbD 0))
  | 0x23 => len p0 2 <| chk (rz p0 0x0 && rz p1 0x3f0 && rz p2 0xfc06)
      (.vscan (p0.extractLsb' 0 6) (p1.extractLsb' 10 6) ⟨(p1.extractLsb' 1 3), (p1.getLsbD 0)⟩ (p2.extractLsb' 7 3) (p2.getLsbD 0) ⟨(p2.getLsbD 6), (p2.getLsbD 5), (p2.extractLsb' 3 2)⟩)
  | 0x24 => len p0 2 <| chk (rz p0 0x0 && rz p1 0x0 && rz p2 0xffff)
      (.vperm (p0.extractLsb' 0 6) (p1.extractLsb' 10 6) (p1.extractLsb' 4 6) ⟨(p1.extractLsb' 1 3), (p1.getLsbD 0)⟩)
  | 0x25 => len p0 2 <| chk (rz p0 0x0 && rz p1 0x3f0 && rz p2 0xfe00)
      (.vrot (p0.extractLsb' 0 6) (p1.extractLsb' 10 6) ⟨(p1.extractLsb' 1 3), (p1.getLsbD 0)⟩ (p2.extractLsb' 0 9))
  | 0x26 => len p0 2 <| chk (rz p0 0x0 && rz p1 0x3f0 && rz p2 0xfe00)
      (.vbcast (p0.extractLsb' 0 6) (p1.extractLsb' 10 6) ⟨(p1.extractLsb' 1 3), (p1.getLsbD 0)⟩ (p2.extractLsb' 0 9))
  | 0x27 => len p0 2 <| chk (rz p0 0x0 && rz p1 0x0 && rz p2 0xffff)
      (.vsort (p0.extractLsb' 0 6) (p1.extractLsb' 10 6) (p1.extractLsb' 4 6) ⟨(p1.extractLsb' 1 3), (p1.getLsbD 0)⟩)
  | 0x28 => len p0 2 <| chk (rz p0 0x0 && rz p1 0x0 && rz p2 0xfffe)
      (.vrand (p0.extractLsb' 0 6) (p1.extractLsb' 10 6) (p1.extractLsb' 4 6) ⟨(p1.extractLsb' 1 3), (p1.getLsbD 0)⟩ (p2.getLsbD 0))
  | 0x29 => len p0 2 <| chk (rz p0 0x0 && rz p1 0x3f0 && rz p2 0xffff)
      (.vmov (p0.extractLsb' 0 6) (p1.extractLsb' 10 6) ⟨(p1.extractLsb' 1 3), (p1.getLsbD 0)⟩)
  | 0x2a => len p0 2 <| chk (rz p0 0x0 && rz p1 0xfff0 && rz p2 0x0)
      (.vli (p0.extractLsb' 0 6) ⟨(p1.extractLsb' 1 3), (p1.getLsbD 0)⟩ (p2.extractLsb' 0 16))
  | 0x2b => len p0 2 <| chk (rz p0 0x7 && rz p1 0x0 && rz p2 0x0)
      (.vai (p0.extractLsb' 3 3) ((p2.extractLsb' 0 16) ++ (p1.extractLsb' 0 16)))
  | 0x2c => len p0 1 <| chk (rz p0 0x7 && rz p1 0x0 && rz p2 0x0)
      (.vaadd (p0.extractLsb' 3 3) (p1.extractLsb' 0 16))
  | 0x2d => len p0 1 <| chk (rz p0 0x7 && rz p1 0xffc0 && rz p2 0x0)
      (.vaparm (p0.extractLsb' 3 3) (p1.extractLsb' 0 6))
  | 0x2e => len p0 2 <| chk (rz p0 0x0 && rz p1 0x0 && rz p2 0x0)
      (.vld ⟨(p0.extractLsb' 0 6), (p1.extractLsb' 13 3), (p1.extractLsb' 9 4), (p1.extractLsb' 6 3), (p1.extractLsb' 4 2), ⟨(p1.extractLsb' 1 3), (p1.getLsbD 0)⟩, (p2.extractLsb' 0 16)⟩)
  | 0x2f => len p0 2 <| chk (rz p0 0x0 && rz p1 0x0 && rz p2 0x0)
      (.vst ⟨(p0.extractLsb' 0 6), (p1.extractLsb' 13 3), (p1.extractLsb' 9 4), (p1.extractLsb' 6 3), (p1.extractLsb' 4 2), ⟨(p1.extractLsb' 1 3), (p1.getLsbD 0)⟩, (p2.extractLsb' 0 16)⟩)
  | 0x30 => len p0 2 <| chk (rz p0 0x0 && rz p1 0x0 && rz p2 0x3ff)
      (.vldx ⟨(p0.extractLsb' 0 6), (p1.extractLsb' 13 3), (p1.extractLsb' 9 4), (p1.extractLsb' 6 3), (p1.extractLsb' 4 2), ⟨(p1.extractLsb' 1 3), (p1.getLsbD 0)⟩, (p2.extractLsb' 10 6)⟩)
  | 0x31 => len p0 2 <| chk (rz p0 0x0 && rz p1 0x0 && rz p2 0x3ff)
      (.vstx ⟨(p0.extractLsb' 0 6), (p1.extractLsb' 13 3), (p1.extractLsb' 9 4), (p1.extractLsb' 6 3), (p1.extractLsb' 4 2), ⟨(p1.extractLsb' 1 3), (p1.getLsbD 0)⟩, (p2.extractLsb' 10 6)⟩)
  | 0x32 => len p0 1 <| chk (rz p0 0x0 && rz p1 0x7 && rz p2 0x0)
      (.vmovq (p1.extractLsb' 12 4) (p0.extractLsb' 0 6) (p1.extractLsb' 3 9))
  | _ => .error .badOp

/-- The matrix opcode map (R48): one arm per assigned OP. -/
def decodeMatrix (op : Nat) (p0 p1 p2 : Parcel) : Except DecErr Instr :=
  match op with
  | 0x0 => len p0 0 <| chk (rz p0 0x3f && rz p1 0x0 && rz p2 0x0)
      (.mnop)
  | 0x1 => len p0 0 <| chk (rz p0 0x0 && rz p1 0x0 && rz p2 0x0)
      (.mlit6 (p0.extractLsb' 0 6))
  | 0x2 => len p0 1 <| chk (rz p0 0x3f && rz p1 0x0 && rz p2 0x0)
      (.mlit16 (p1.extractLsb' 0 16))
  | 0x3 => len p0 2 <| chk (rz p0 0x3f && rz p1 0x0 && rz p2 0x0)
      (.mlit32 ((p2.extractLsb' 0 16) ++ (p1.extractLsb' 0 16)))
  | 0x4 => len p0 0 <| chk (rz p0 0x0 && rz p1 0x0 && rz p2 0x0)
      (.mparm (p0.extractLsb' 0 6))
  | 0x5 => len p0 0 <| 
    match (p0.extractLsb' 0 6).toNat with
    | 0x0 => chk (rz p0 0x0 && rz p1 0x0 && rz p2 0x0)
        (.mdup)
    | 0x1 => chk (rz p0 0x0 && rz p1 0x0 && rz p2 0x0)
        (.mdrop)
    | 0x2 => chk (rz p0 0x0 && rz p1 0x0 && rz p2 0x0)
        (.mswap)
    | 0x3 => chk (rz p0 0x0 && rz p1 0x0 && rz p2 0x0)
        (.mover)
    | 0x4 => chk (rz p0 0x0 && rz p1 0x0 && rz p2 0x0)
        (.madd)
    | 0x5 => chk (rz p0 0x0 && rz p1 0x0 && rz p2 0x0)
        (.msub)
    | 0x6 => chk (rz p0 0x0 && rz p1 0x0 && rz p2 0x0)
        (.mshl)
    | 0x7 => chk (rz p0 0x0 && rz p1 0x0 && rz p2 0x0)
        (.mmul)
    | _ => .error .refused
  | 0x6 => len p0 0 <| chk (rz p0 0x20 && rz p1 0x0 && rz p2 0x0)
      (.mma (p0.getLsbD 4) (p0.getLsbD 3) (p0.getLsbD 2) (p0.getLsbD 1) (p0.getLsbD 0))
  | 0x7 => len p0 0 <| chk (rz p0 0x31 && rz p1 0x0 && rz p2 0x0)
      (.mmas (p0.getLsbD 3) (p0.getLsbD 2) (p0.getLsbD 1))
  | 0x8 => len p0 0 <| chk (rz p0 0x3c && rz p1 0x0 && rz p2 0x0)
      (.mzero (p0.extractLsb' 0 2))
  | 0x9 => len p0 0 <| chk (rz p0 0x3f && rz p1 0x0 && rz p2 0x0)
      (.mdrain)
  | 0xa => len p0 0 <| chk (rz p0 0x3f && rz p1 0x0 && rz p2 0x0)
      (.mepi)
  | 0xb => len p0 0 <| chk (rz p0 0x3f && rz p1 0x0 && rz p2 0x0)
      (.mtopk)
  | _ => .error .badOp

/-- The copy opcode map (R48): one arm per assigned OP. -/
def decodeCopy (op : Nat) (p0 p1 p2 : Parcel) : Except DecErr Instr :=
  match op with
  | 0x0 => len p0 0 <| chk (rz p0 0x3f && rz p1 0x0 && rz p2 0x0)
      (.xnop)
  | 0x1 => len p0 0 <| chk (rz p0 0x0 && rz p1 0x0 && rz p2 0x0)
      (.xlit6 (p0.extractLsb' 0 6))
  | 0x2 => len p0 1 <| chk (rz p0 0x3f && rz p1 0x0 && rz p2 0x0)
      (.xlit16 (p1.extractLsb' 0 16))
  | 0x3 => len p0 2 <| chk (rz p0 0x3f && rz p1 0x0 && rz p2 0x0)
      (.xlit32 ((p2.extractLsb' 0 16) ++ (p1.extractLsb' 0 16)))
  | 0x4 => len p0 0 <| chk (rz p0 0x0 && rz p1 0x0 && rz p2 0x0)
      (.xparm (p0.extractLsb' 0 6))
  | 0x5 => len p0 0 <| 
    match (p0.extractLsb' 0 6).toNat with
    | 0x0 => chk (rz p0 0x0 && rz p1 0x0 && rz p2 0x0)
        (.xdup)
    | 0x1 => chk (rz p0 0x0 && rz p1 0x0 && rz p2 0x0)
        (.xdrop)
    | 0x2 => chk (rz p0 0x0 && rz p1 0x0 && rz p2 0x0)
        (.xswap)
    | 0x3 => chk (rz p0 0x0 && rz p1 0x0 && rz p2 0x0)
        (.xover)
    | 0x4 => chk (rz p0 0x0 && rz p1 0x0 && rz p2 0x0)
        (.xadd)
    | 0x5 => chk (rz p0 0x0 && rz p1 0x0 && rz p2 0x0)
        (.xsub)
    | 0x6 => chk (rz p0 0x0 && rz p1 0x0 && rz p2 0x0)
        (.xshl)
    | 0x7 => chk (rz p0 0x0 && rz p1 0x0 && rz p2 0x0)
        (.xmul)
    | _ => .error .refused
  | 0x6 => len p0 0 <| chk (rz p0 0x3f && rz p1 0x0 && rz p2 0x0)
      (.xcopy)
  | 0x7 => len p0 0 <| chk (rz p0 0x3f && rz p1 0x0 && rz p2 0x0)
      (.xcopy2)
  | 0x8 => len p0 0 <| chk (rz p0 0x3f && rz p1 0x0 && rz p2 0x0)
      (.xgath)
  | 0x9 => len p0 0 <| chk (rz p0 0x3f && rz p1 0x0 && rz p2 0x0)
      (.xscat)
  | 0xa => len p0 0 <| chk (rz p0 0x3c && rz p1 0x0 && rz p2 0x0)
      (.xfeed (p0.extractLsb' 0 2))
  | 0xb => len p0 0 <| chk (rz p0 0x3f && rz p1 0x0 && rz p2 0x0)
      (.xmeta)
  | 0xc => len p0 0 <| chk (rz p0 0x3f && rz p1 0x0 && rz p2 0x0)
      (.xfill)
  | 0xd => len p0 0 <| chk (rz p0 0x20 && rz p1 0x0 && rz p2 0x0)
      (.xfmt (p0.extractLsb' 0 5))
  | 0xe => len p0 0 <| chk (rz p0 0x3f && rz p1 0x0 && rz p2 0x0)
      (.xredv)
  | 0xf => len p0 0 <| chk (rz p0 0x3e && rz p1 0x0 && rz p2 0x0)
      (.xbcst (p0.getLsbD 0))
  | 0x10 => len p0 0 <| chk (rz p0 0x3f && rz p1 0x0 && rz p2 0x0)
      (.xkvc)
  | 0x11 => len p0 0 <| chk (rz p0 0x20 && rz p1 0x0 && rz p2 0x0)
      (.xtadd (p0.extractLsb' 0 5))
  | _ => .error .badOp

/-- The instruction that p0, p1 and p2 hold, by the map of the engine p0 names (R34, R49). -/
def decode3 (p0 p1 p2 : Parcel) : Except DecErr Instr :=
  match (p0Eng p0).toNat with
  | 0 => decodeControl (p0Op p0).toNat p0 p1 p2
  | 1 => decodeVector (p0Op p0).toNat p0 p1 p2
  | 2 => decodeMatrix (p0Op p0).toNat p0 p1 p2
  | _ => decodeCopy (p0Op p0).toNat p0 p1 p2

/-- The decoder: the instruction at the head of a run of parcels (R34). -/
def decode : List Parcel → Except DecErr Instr
  | [] => .error .truncated
  | p0 :: rest =>
    if rest.length < (p0Len p0).toNat then .error .truncated
    else decode3 p0 (rest.getD 0 0) (rest.getD 1 0)

/-- Parcel n of an instruction whose bits are `w`, parcel 0 in bits 15..0 (R2: little-endian, first parcel first). -/
def parcelOf (w n : Nat) : Parcel := BitVec.ofNat 16 (w >>> (16 * n))

/-- What the decoder reads from an instruction whose bits are `w`, as spec/opcode_table.json numbers them; the bits above
`nbits` are zero. -/
def decodeTableWord (nbits w : Nat) : Option Instr :=
  let w := w % 2 ^ nbits
  match decode [parcelOf w 0, parcelOf w 1, parcelOf w 2, parcelOf w 3] with
  | .ok i => some i
  | .error _ => none

/-- A first parcel from ENG, LEN, OP and its low six bits (R34). -/
def p0 (eng : BitVec 2) (len : BitVec 2) (op : BitVec 6) (low : BitVec 6) : Parcel := eng ++ len ++ op ++ low

/-- The encoding of an instruction: its parcels, first parcel first, from the format tables of R40–R48 (each parcel written
high bits first). A step that is not an encoded instruction has none. -/
def encode : Instr → List Parcel
  | .nop => [p0 0 0 0x0 (0#6)]
  | .add d a b ka kb => [p0 0 1 0x1 (d ++ bit ka 1 ++ bit kb 1), a ++ b ++ 0#8]
  | .sub d a b ka kb => [p0 0 1 0x1 (d ++ bit ka 1 ++ bit kb 1), a ++ b ++ 1#8]
  | .mul d a b ka kb => [p0 0 1 0x1 (d ++ bit ka 1 ++ bit kb 1), a ++ b ++ 2#8]
  | .mulh d a b ka kb => [p0 0 1 0x1 (d ++ bit ka 1 ++ bit kb 1), a ++ b ++ 3#8]
  | .mulhu d a b ka kb => [p0 0 1 0x1 (d ++ bit ka 1 ++ bit kb 1), a ++ b ++ 4#8]
  | .divs d a b ka kb => [p0 0 1 0x1 (d ++ bit ka 1 ++ bit kb 1), a ++ b ++ 5#8]
  | .divu d a b ka kb => [p0 0 1 0x1 (d ++ bit ka 1 ++ bit kb 1), a ++ b ++ 6#8]
  | .rems d a b ka kb => [p0 0 1 0x1 (d ++ bit ka 1 ++ bit kb 1), a ++ b ++ 7#8]
  | .remu d a b ka kb => [p0 0 1 0x1 (d ++ bit ka 1 ++ bit kb 1), a ++ b ++ 8#8]
  | .and d a b ka kb => [p0 0 1 0x1 (d ++ bit ka 1 ++ bit kb 1), a ++ b ++ 16#8]
  | .or d a b ka kb => [p0 0 1 0x1 (d ++ bit ka 1 ++ bit kb 1), a ++ b ++ 17#8]
  | .xor d a b ka kb => [p0 0 1 0x1 (d ++ bit ka 1 ++ bit kb 1), a ++ b ++ 18#8]
  | .shl d a b ka kb => [p0 0 1 0x1 (d ++ bit ka 1 ++ bit kb 1), a ++ b ++ 24#8]
  | .shr d a b ka kb => [p0 0 1 0x1 (d ++ bit ka 1 ++ bit kb 1), a ++ b ++ 25#8]
  | .sha d a b ka kb => [p0 0 1 0x1 (d ++ bit ka 1 ++ bit kb 1), a ++ b ++ 26#8]
  | .min d a b ka kb => [p0 0 1 0x1 (d ++ bit ka 1 ++ bit kb 1), a ++ b ++ 32#8]
  | .max d a b ka kb => [p0 0 1 0x1 (d ++ bit ka 1 ++ bit kb 1), a ++ b ++ 33#8]
  | .minu d a b ka kb => [p0 0 1 0x1 (d ++ bit ka 1 ++ bit kb 1), a ++ b ++ 34#8]
  | .maxu d a b ka kb => [p0 0 1 0x1 (d ++ bit ka 1 ++ bit kb 1), a ++ b ++ 35#8]
  | .mov d a ka => [p0 0 1 0x2 (d ++ bit ka 1 ++ 0#1), a ++ 0#4 ++ 0#8]
  | .neg d a ka => [p0 0 1 0x2 (d ++ bit ka 1 ++ 0#1), a ++ 0#4 ++ 1#8]
  | .not d a ka => [p0 0 1 0x2 (d ++ bit ka 1 ++ 0#1), a ++ 0#4 ++ 2#8]
  | .clz d a ka => [p0 0 1 0x2 (d ++ bit ka 1 ++ 0#1), a ++ 0#4 ++ 3#8]
  | .popc d a ka => [p0 0 1 0x2 (d ++ bit ka 1 ++ 0#1), a ++ 0#4 ++ 4#8]
  | .sextb d a ka => [p0 0 1 0x2 (d ++ bit ka 1 ++ 0#1), a ++ 0#4 ++ 5#8]
  | .sexth d a ka => [p0 0 1 0x2 (d ++ bit ka 1 ++ 0#1), a ++ 0#4 ++ 6#8]
  | .sextw d a ka => [p0 0 1 0x2 (d ++ bit ka 1 ++ 0#1), a ++ 0#4 ++ 7#8]
  | .zextb d a ka => [p0 0 1 0x2 (d ++ bit ka 1 ++ 0#1), a ++ 0#4 ++ 8#8]
  | .zexth d a ka => [p0 0 1 0x2 (d ++ bit ka 1 ++ 0#1), a ++ 0#4 ++ 9#8]
  | .zextw d a ka => [p0 0 1 0x2 (d ++ bit ka 1 ++ 0#1), a ++ 0#4 ++ 10#8]
  | .addi d a ka imm => [p0 0 1 0x3 (d ++ bit ka 1 ++ 0#1), a ++ imm]
  | .andi d a ka imm => [p0 0 1 0x4 (d ++ bit ka 1 ++ 0#1), a ++ imm]
  | .ori d a ka imm => [p0 0 1 0x5 (d ++ bit ka 1 ++ 0#1), a ++ imm]
  | .xori d a ka imm => [p0 0 1 0x6 (d ++ bit ka 1 ++ 0#1), a ++ imm]
  | .shli d a ka sh => [p0 0 1 0x7 (d ++ bit ka 1 ++ 0#1), a ++ 0#6 ++ sh]
  | .shri d a ka sh => [p0 0 1 0x8 (d ++ bit ka 1 ++ 0#1), a ++ 0#6 ++ sh]
  | .shai d a ka sh => [p0 0 1 0x9 (d ++ bit ka 1 ++ 0#1), a ++ 0#6 ++ sh]
  | .li d imm => [p0 0 2 0xa (d ++ 0#2), (imm.extractLsb' 0 16), (imm.extractLsb' 16 16)]
  | .lih d imm => [p0 0 2 0xb (d ++ 0#2), (imm.extractLsb' 0 16), (imm.extractLsb' 16 16)]
  | .drop q => [p0 0 0 0xc (q ++ 0#2)]
  | .qclr q => [p0 0 0 0xd (q ++ 0#2)]
  | .qlen d a => [p0 0 1 0xe (d ++ 0#2), a ++ 0#12]
  | .cmp a b ka kb cc => [p0 0 1 0xf (0#4 ++ bit ka 1 ++ bit kb 1), a ++ b ++ 0#5 ++ cc]
  | .cmpi a ka cc imm => [p0 0 1 0x10 (0#1 ++ cc ++ bit ka 1 ++ 0#1), a ++ imm]
  | .b follow off => [p0 0 1 0x11 (0#1 ++ follow ++ 0#2), off]
  | .bt pk cqv follow off => [p0 0 1 0x12 (bit pk 1 ++ follow ++ bit cqv 1 ++ 0#1), off]
  | .bf pk cqv follow off => [p0 0 1 0x13 (bit pk 1 ++ follow ++ bit cqv 1 ++ 0#1), off]
  | .call follow off => [p0 0 1 0x14 (0#1 ++ follow ++ 0#2), off]
  | .ret follow => [p0 0 0 0x15 (0#1 ++ follow ++ 0#2)]
  | .loop lc follow off => [p0 0 1 0x16 (0#1 ++ follow ++ lc), off]
  | .lcset lc a ka => [p0 0 1 0x17 (0#2 ++ lc ++ bit ka 1 ++ 0#1), a ++ 0#12]
  | .spushm first last => [p0 0 1 0x18 (first ++ 0#2), last ++ 0#12]
  | .spopm first last => [p0 0 1 0x19 (first ++ 0#2), last ++ 0#12]
  | .ld m => [p0 0 2 0x1a (m.d ++ m.sz), m.a ++ m.cls ++ m.scope ++ bit m.ka 1 ++ 0#4, m.off]
  | .lds m => [p0 0 2 0x1b (m.d ++ m.sz), m.a ++ m.cls ++ m.scope ++ bit m.ka 1 ++ 0#4, m.off]
  | .lda m => [p0 0 2 0x1d (m.d ++ m.sz), m.a ++ m.cls ++ m.scope ++ bit m.ka 1 ++ 0#4, m.off]
  | .st m => [p0 0 2 0x1c (m.d ++ m.sz), m.a ++ m.cls ++ m.scope ++ bit m.ka 1 ++ bit m.kd 1 ++ 0#3, m.off]
  | .stl m => [p0 0 2 0x1e (m.d ++ m.sz), m.a ++ m.cls ++ m.scope ++ bit m.ka 1 ++ bit m.kd 1 ++ 0#3, m.off]
  | .aadd m => [p0 0 2 0x1f (m.d ++ 1#1 ++ bit m.dbl 1), m.a ++ m.cls ++ m.scope ++ bit m.ka 1 ++ bit m.kd 1 ++ 0#3, 0#12 ++ 0#4]
  | .aand m => [p0 0 2 0x1f (m.d ++ 1#1 ++ bit m.dbl 1), m.a ++ m.cls ++ m.scope ++ bit m.ka 1 ++ bit m.kd 1 ++ 0#3, 0#12 ++ 1#4]
  | .aor m => [p0 0 2 0x1f (m.d ++ 1#1 ++ bit m.dbl 1), m.a ++ m.cls ++ m.scope ++ bit m.ka 1 ++ bit m.kd 1 ++ 0#3, 0#12 ++ 2#4]
  | .axor m => [p0 0 2 0x1f (m.d ++ 1#1 ++ bit m.dbl 1), m.a ++ m.cls ++ m.scope ++ bit m.ka 1 ++ bit m.kd 1 ++ 0#3, 0#12 ++ 3#4]
  | .amin m => [p0 0 2 0x1f (m.d ++ 1#1 ++ bit m.dbl 1), m.a ++ m.cls ++ m.scope ++ bit m.ka 1 ++ bit m.kd 1 ++ 0#3, 0#12 ++ 4#4]
  | .amax m => [p0 0 2 0x1f (m.d ++ 1#1 ++ bit m.dbl 1), m.a ++ m.cls ++ m.scope ++ bit m.ka 1 ++ bit m.kd 1 ++ 0#3, 0#12 ++ 5#4]
  | .aminu m => [p0 0 2 0x1f (m.d ++ 1#1 ++ bit m.dbl 1), m.a ++ m.cls ++ m.scope ++ bit m.ka 1 ++ bit m.kd 1 ++ 0#3, 0#12 ++ 6#4]
  | .amaxu m => [p0 0 2 0x1f (m.d ++ 1#1 ++ bit m.dbl 1), m.a ++ m.cls ++ m.scope ++ bit m.ka 1 ++ bit m.kd 1 ++ 0#3, 0#12 ++ 7#4]
  | .axchg m => [p0 0 2 0x1f (m.d ++ 1#1 ++ bit m.dbl 1), m.a ++ m.cls ++ m.scope ++ bit m.ka 1 ++ bit m.kd 1 ++ 0#3, 0#12 ++ 8#4]
  | .cas m => [p0 0 2 0x20 (m.d ++ 1#1 ++ bit m.dbl 1), m.a ++ m.cls ++ m.scope ++ bit m.ka 1 ++ 0#4, m.e ++ m.n ++ 0#8]
  | .fenceFull scope cmask => [p0 0 1 0x21 (scope ++ 0#3), cmask]
  | .fenceSs scope cmask => [p0 0 1 0x21 (scope ++ 1#3), cmask]
  | .fenceLl scope cmask => [p0 0 1 0x21 (scope ++ 2#3), cmask]
  | .twait ctr st a scope ka => [p0 0 1 0x22 (ctr ++ bit st 1), a ++ scope ++ bit ka 1 ++ 0#8]
  | .tadd ctr st a scope ka => [p0 0 1 0x23 (ctr ++ bit st 1), a ++ scope ++ bit ka 1 ++ 0#8]
  | .tread d ctr => [p0 0 1 0x24 (ctr ++ 0#1), d ++ 0#12]
  | .waitc nl ns nc nt => [p0 0 1 0x25 (0#6), nl ++ ns ++ nc ++ nt]
  | .garv slot st => [p0 0 0 0x26 (slot ++ bit st 1 ++ 0#3)]
  | .gwait slot st => [p0 0 0 0x27 (slot ++ bit st 1 ++ 0#3)]
  | .gsync slot st => [p0 0 0 0x28 (slot ++ bit st 1 ++ 0#3)]
  | .fork v m x => [p0 0 0 0x29 (bit v 1 ++ bit m 1 ++ bit x 1 ++ 0#3)]
  | .rdv => [p0 0 0 0x2a (0#6)]
  | .exit nsucc abs wri a => [p0 0 1 0x2b (nsucc ++ bit abs 1 ++ wri), a ++ 0#12]
  | .yield => [p0 0 0 0x2c (0#6)]
  | .chkp => [p0 0 0 0x2d (0#6)]
  | .parm d w => [p0 0 1 0x2e (d ++ 0#2), 0#10 ++ w]
  | .winset n => [p0 0 1 0x2f (0#6), 0#8 ++ n]
  | .enq d a b ka wait => [p0 0 1 0x30 (d ++ bit ka 1 ++ 0#1), a ++ b ++ 0#7 ++ bit wait 1]
  | .deq d a ka wait => [p0 0 1 0x31 (d ++ bit ka 1 ++ 0#1), a ++ 0#11 ++ bit wait 1]
  | .qstat d a ka => [p0 0 1 0x32 (d ++ bit ka 1 ++ 0#1), a ++ 0#12]
  | .wpub a ka => [p0 0 1 0x33 (0#4 ++ bit ka 1 ++ 0#1), a ++ 0#12]
  | .wadoptToken d => [p0 0 1 0x34 (d ++ 0#2), 0#8 ++ 1#8]
  | .wadoptSeq d => [p0 0 1 0x34 (d ++ 0#2), 0#8 ++ 2#8]
  | .whold d a ka => [p0 0 1 0x35 (d ++ bit ka 1 ++ 0#1), a ++ 0#12]
  | .wdrop a ka => [p0 0 1 0x36 (0#4 ++ bit ka 1 ++ 0#1), a ++ 0#12]
  | .wqry d a ka => [p0 0 1 0x37 (d ++ bit ka 1 ++ 0#1), a ++ 0#12]
  | .spapp a ka => [p0 0 1 0x38 (0#4 ++ bit ka 1 ++ 0#1), a ++ 0#12]
  | .acpt d a b ka kb n => [p0 0 1 0x39 (d ++ bit ka 1 ++ bit kb 1), a ++ b ++ n]
  | .jfrag follow => [p0 0 0 0x3a (0#1 ++ follow ++ 0#2)]
  | .trap code => [p0 0 0 0x3b (code)]
  | .scall => [p0 0 0 0x3f (0#6)]
  | .tret => [p0 0 0 0x3c (0#6)]
  | .csrr d csr => [p0 0 1 0x3d (d ++ 0#2), 0#4 ++ csr]
  | .csrw csr a ka => [p0 0 1 0x3e (0#4 ++ bit ka 1 ++ 0#1), a ++ csr]
  | .vnop => [p0 1 0 0x0 (0#6)]
  | .vadd vd va vb m ty r => [p0 1 2 0x1 (vd), va ++ vb ++ m.msk ++ bit m.mneg 1, 0#6 ++ ty ++ bit r.fzi 1 ++ bit r.fzo 1 ++ r.rm ++ 0#3]
  | .vsub vd va vb m ty r => [p0 1 2 0x2 (vd), va ++ vb ++ m.msk ++ bit m.mneg 1, 0#6 ++ ty ++ bit r.fzi 1 ++ bit r.fzo 1 ++ r.rm ++ 0#3]
  | .vmul vd va vb m ty r => [p0 1 2 0x3 (vd), va ++ vb ++ m.msk ++ bit m.mneg 1, 0#6 ++ ty ++ bit r.fzi 1 ++ bit r.fzo 1 ++ r.rm ++ 0#3]
  | .vmin vd va vb m ty r => [p0 1 2 0x7 (vd), va ++ vb ++ m.msk ++ bit m.mneg 1, 0#6 ++ ty ++ bit r.fzi 1 ++ bit r.fzo 1 ++ r.rm ++ 0#3]
  | .vmax vd va vb m ty r => [p0 1 2 0x8 (vd), va ++ vb ++ m.msk ++ bit m.mneg 1, 0#6 ++ ty ++ bit r.fzi 1 ++ bit r.fzo 1 ++ r.rm ++ 0#3]
  | .vabs vd va m ty r => [p0 1 2 0x9 (vd), va ++ 0#6 ++ m.msk ++ bit m.mneg 1, 0#6 ++ ty ++ bit r.fzi 1 ++ bit r.fzo 1 ++ r.rm ++ 0#3]
  | .vneg vd va m ty r => [p0 1 2 0xa (vd), va ++ 0#6 ++ m.msk ++ bit m.mneg 1, 0#6 ++ ty ++ bit r.fzi 1 ++ bit r.fzo 1 ++ r.rm ++ 0#3]
  | .vscale vd va vb m r => [p0 1 2 0xb (vd), va ++ vb ++ m.msk ++ bit m.mneg 1, 0#6 ++ 0#3 ++ bit r.fzi 1 ++ bit r.fzo 1 ++ r.rm ++ 0#3]
  | .vfma vd va vb vc m ty r => [p0 1 2 0x4 (vd), va ++ vb ++ m.msk ++ bit m.mneg 1, vc ++ ty ++ bit r.fzi 1 ++ bit r.fzo 1 ++ r.rm ++ 0#3]
  | .vfms vd va vb vc m ty r => [p0 1 2 0x5 (vd), va ++ vb ++ m.msk ++ bit m.mneg 1, vc ++ ty ++ bit r.fzi 1 ++ bit r.fzo 1 ++ r.rm ++ 0#3]
  | .vfnma vd va vb vc m ty r => [p0 1 2 0x6 (vd), va ++ vb ++ m.msk ++ bit m.mneg 1, vc ++ ty ++ bit r.fzi 1 ++ bit r.fzo 1 ++ r.rm ++ 0#3]
  | .vrcp vd va m r => [p0 1 2 0xc (vd), va ++ 0#6 ++ m.msk ++ bit m.mneg 1, 0#6 ++ 0#3 ++ bit r.fzi 1 ++ bit r.fzo 1 ++ r.rm ++ 0#3]
  | .vrsq vd va m r => [p0 1 2 0xd (vd), va ++ 0#6 ++ m.msk ++ bit m.mneg 1, 0#6 ++ 0#3 ++ bit r.fzi 1 ++ bit r.fzo 1 ++ r.rm ++ 0#3]
  | .vsqrt vd va m r => [p0 1 2 0xe (vd), va ++ 0#6 ++ m.msk ++ bit m.mneg 1, 0#6 ++ 0#3 ++ bit r.fzi 1 ++ bit r.fzo 1 ++ r.rm ++ 0#3]
  | .vexp2 vd va m r => [p0 1 2 0xf (vd), va ++ 0#6 ++ m.msk ++ bit m.mneg 1, 0#6 ++ 0#3 ++ bit r.fzi 1 ++ bit r.fzo 1 ++ r.rm ++ 0#3]
  | .vlog2 vd va m r => [p0 1 2 0x10 (vd), va ++ 0#6 ++ m.msk ++ bit m.mneg 1, 0#6 ++ 0#3 ++ bit r.fzi 1 ++ bit r.fzo 1 ++ r.rm ++ 0#3]
  | .vcvt vd va vb m ty sub r => [p0 1 2 0x11 (vd), va ++ vb ++ m.msk ++ bit m.mneg 1, 0#6 ++ ty ++ bit r.fzi 1 ++ bit r.fzo 1 ++ r.rm ++ sub]
  | .vcvtL6 vd va vb m fzi => [p0 1 2 0x11 (vd), va ++ vb ++ m.msk ++ bit m.mneg 1, 0#6 ++ 4#3 ++ bit fzi 1 ++ 0#1 ++ 0#2 ++ 0#3]
  | .vand vd va vb m => [p0 1 2 0x12 (vd), va ++ vb ++ m.msk ++ bit m.mneg 1, 0#6 ++ 0#3 ++ 0#1 ++ 0#1 ++ 0#2 ++ 0#3]
  | .vor vd va vb m => [p0 1 2 0x13 (vd), va ++ vb ++ m.msk ++ bit m.mneg 1, 0#6 ++ 0#3 ++ 0#1 ++ 0#1 ++ 0#2 ++ 0#3]
  | .vxor vd va vb m => [p0 1 2 0x14 (vd), va ++ vb ++ m.msk ++ bit m.mneg 1, 0#6 ++ 0#3 ++ 0#1 ++ 0#1 ++ 0#2 ++ 0#3]
  | .vnot vd va m => [p0 1 2 0x15 (vd), va ++ 0#6 ++ m.msk ++ bit m.mneg 1, 0#6 ++ 0#3 ++ 0#1 ++ 0#1 ++ 0#2 ++ 0#3]
  | .vshl vd va vb m => [p0 1 2 0x16 (vd), va ++ vb ++ m.msk ++ bit m.mneg 1, 0#6 ++ 0#3 ++ 0#1 ++ 0#1 ++ 0#2 ++ 0#3]
  | .vshr vd va vb m => [p0 1 2 0x17 (vd), va ++ vb ++ m.msk ++ bit m.mneg 1, 0#6 ++ 0#3 ++ 0#1 ++ 0#1 ++ 0#2 ++ 0#3]
  | .vsha vd va vb m => [p0 1 2 0x18 (vd), va ++ vb ++ m.msk ++ bit m.mneg 1, 0#6 ++ 0#3 ++ 0#1 ++ 0#1 ++ 0#2 ++ 0#3]
  | .vsel vd va vb m => [p0 1 2 0x19 (vd), va ++ vb ++ m.msk ++ bit m.mneg 1, 0#6 ++ 0#3 ++ 0#1 ++ 0#1 ++ 0#2 ++ 0#3]
  | .vmov vd va m => [p0 1 2 0x29 (vd), va ++ 0#6 ++ m.msk ++ bit m.mneg 1, 0#6 ++ 0#3 ++ 0#1 ++ 0#1 ++ 0#2 ++ 0#3]
  | .vcmp md va vb m ty cc fzi => [p0 1 2 0x1a (0#3 ++ md), va ++ vb ++ m.msk ++ bit m.mneg 1, 0#6 ++ ty ++ bit fzi 1 ++ 0#1 ++ 0#2 ++ cc]
  | .vcmpq all va vb m ty cc fzi => [p0 1 2 0x1b (0#5 ++ bit all 1), va ++ vb ++ m.msk ++ bit m.mneg 1, 0#6 ++ ty ++ bit fzi 1 ++ 0#1 ++ 0#2 ++ cc]
  | .vtestz va m ty fzi => [p0 1 2 0x1c (0#6), va ++ 0#6 ++ m.msk ++ bit m.mneg 1, 0#6 ++ ty ++ bit fzi 1 ++ 0#1 ++ 0#2 ++ 0#3]
  | .vtestn va m ty fzi => [p0 1 2 0x1d (0#6), va ++ 0#6 ++ m.msk ++ bit m.mneg 1, 0#6 ++ ty ++ bit fzi 1 ++ 0#1 ++ 0#2 ++ 0#3]
  | .vmand d a b => [p0 1 2 0x1e (0#3 ++ d), 0#3 ++ a ++ 0#3 ++ b ++ 0#4, 0#13 ++ 0#3]
  | .vmor d a b => [p0 1 2 0x1e (0#3 ++ d), 0#3 ++ a ++ 0#3 ++ b ++ 0#4, 0#13 ++ 1#3]
  | .vmxor d a b => [p0 1 2 0x1e (0#3 ++ d), 0#3 ++ a ++ 0#3 ++ b ++ 0#4, 0#13 ++ 2#3]
  | .vmandn d a b => [p0 1 2 0x1e (0#3 ++ d), 0#3 ++ a ++ 0#3 ++ b ++ 0#4, 0#13 ++ 3#3]
  | .vmnot d a => [p0 1 2 0x1e (0#3 ++ d), 0#3 ++ a ++ 0#6 ++ 0#4, 0#13 ++ 4#3]
  | .vmset d => [p0 1 2 0x1e (0#3 ++ d), 0#16, 0#13 ++ 5#3]
  | .vmclr d => [p0 1 2 0x1e (0#3 ++ d), 0#16, 0#13 ++ 6#3]
  | .vrsum vd va m ty seg r => [p0 1 2 0x1f (vd), va ++ 0#6 ++ m.msk ++ bit m.mneg 1, 0#6 ++ ty ++ bit r.fzi 1 ++ bit r.fzo 1 ++ r.rm ++ 0#2 ++ bit seg 1]
  | .vrmax vd va m ty seg => [p0 1 2 0x20 (vd), va ++ 0#6 ++ m.msk ++ bit m.mneg 1, 0#6 ++ ty ++ 0#1 ++ 0#1 ++ 0#2 ++ 0#2 ++ bit seg 1]
  | .vrmin vd va m ty seg => [p0 1 2 0x21 (vd), va ++ 0#6 ++ m.msk ++ bit m.mneg 1, 0#6 ++ ty ++ 0#1 ++ 0#1 ++ 0#2 ++ 0#2 ++ bit seg 1]
  | .vramax vd va m seg => [p0 1 2 0x22 (vd), va ++ 0#6 ++ m.msk ++ bit m.mneg 1, 0#6 ++ 0#3 ++ 0#1 ++ 0#1 ++ 0#2 ++ 0#2 ++ bit seg 1]
  | .vscan vd va m ty seg r => [p0 1 2 0x23 (vd), va ++ 0#6 ++ m.msk ++ bit m.mneg 1, 0#6 ++ ty ++ bit r.fzi 1 ++ bit r.fzo 1 ++ r.rm ++ 0#2 ++ bit seg 1]
  | .vperm vd va vb m => [p0 1 2 0x24 (vd), va ++ vb ++ m.msk ++ bit m.mneg 1, 0#6 ++ 0#3 ++ 0#1 ++ 0#1 ++ 0#2 ++ 0#3]
  | .vrot vd va m n => [p0 1 2 0x25 (vd), va ++ 0#6 ++ m.msk ++ bit m.mneg 1, 0#7 ++ n]
  | .vbcast vd va m k => [p0 1 2 0x26 (vd), va ++ 0#6 ++ m.msk ++ bit m.mneg 1, 0#7 ++ k]
  | .vsort vd va vb m => [p0 1 2 0x27 (vd), va ++ vb ++ m.msk ++ bit m.mneg 1, 0#6 ++ 0#3 ++ 0#1 ++ 0#1 ++ 0#2 ++ 0#3]
  | .vrand vd va vb m f32 => [p0 1 2 0x28 (vd), va ++ vb ++ m.msk ++ bit m.mneg 1, 0#6 ++ 0#3 ++ 0#1 ++ 0#1 ++ 0#2 ++ 0#2 ++ bit f32 1]
  | .vli vd m imm => [p0 1 2 0x2a (vd), 0#6 ++ 0#6 ++ m.msk ++ bit m.mneg 1, imm]
  | .vai n imm => [p0 1 2 0x2b (n ++ 0#3), (imm.extractLsb' 0 16), (imm.extractLsb' 16 16)]
  | .vaadd n imm => [p0 1 1 0x2c (n ++ 0#3), imm]
  | .vaparm n w => [p0 1 1 0x2d (n ++ 0#3), 0#10 ++ w]
  | .vld m => [p0 1 2 0x2e (m.v), m.areg ++ m.cls ++ m.scope ++ m.sz ++ m.m.msk ++ bit m.m.mneg 1, m.off]
  | .vst m => [p0 1 2 0x2f (m.v), m.areg ++ m.cls ++ m.scope ++ m.sz ++ m.m.msk ++ bit m.m.mneg 1, m.off]
  | .vldx m => [p0 1 2 0x30 (m.v), m.areg ++ m.cls ++ m.scope ++ m.sz ++ m.m.msk ++ bit m.m.mneg 1, m.vi ++ 0#10]
  | .vstx m => [p0 1 2 0x31 (m.v), m.areg ++ m.cls ++ m.scope ++ m.sz ++ m.m.msk ++ bit m.m.mneg 1, m.vi ++ 0#10]
  | .vmovq d va lane => [p0 1 1 0x32 (va), d ++ lane ++ 0#3]
  | .mnop => [p0 2 0 0x0 (0#6)]
  | .mlit6 n => [p0 2 0 0x1 (n)]
  | .mlit16 n => [p0 2 1 0x2 (0#6), n]
  | .mlit32 n => [p0 2 2 0x3 (0#6), (n.extractLsb' 0 16), (n.extractLsb' 16 16)]
  | .mparm w => [p0 2 0 0x4 (w)]
  | .mdup => [p0 2 0 0x5 (0#6)]
  | .mdrop => [p0 2 0 0x5 (1#6)]
  | .mswap => [p0 2 0 0x5 (2#6)]
  | .mover => [p0 2 0 0x5 (3#6)]
  | .madd => [p0 2 0 0x5 (4#6)]
  | .msub => [p0 2 0 0x5 (5#6)]
  | .mshl => [p0 2 0 0x5 (6#6)]
  | .mmul => [p0 2 0 0x5 (7#6)]
  | .mma bf16 fzi fzo bver acc => [p0 2 0 0x6 (0#1 ++ bit bf16 1 ++ bit fzi 1 ++ bit fzo 1 ++ bit bver 1 ++ bit acc 1)]
  | .mmas fzi fzo bver => [p0 2 0 0x7 (0#2 ++ bit fzi 1 ++ bit fzo 1 ++ bit bver 1 ++ 0#1)]
  | .mzero z => [p0 2 0 0x8 (0#4 ++ z)]
  | .mdrain => [p0 2 0 0x9 (0#6)]
  | .mepi => [p0 2 0 0xa (0#6)]
  | .mtopk => [p0 2 0 0xb (0#6)]
  | .xnop => [p0 3 0 0x0 (0#6)]
  | .xlit6 n => [p0 3 0 0x1 (n)]
  | .xlit16 n => [p0 3 1 0x2 (0#6), n]
  | .xlit32 n => [p0 3 2 0x3 (0#6), (n.extractLsb' 0 16), (n.extractLsb' 16 16)]
  | .xparm w => [p0 3 0 0x4 (w)]
  | .xdup => [p0 3 0 0x5 (0#6)]
  | .xdrop => [p0 3 0 0x5 (1#6)]
  | .xswap => [p0 3 0 0x5 (2#6)]
  | .xover => [p0 3 0 0x5 (3#6)]
  | .xadd => [p0 3 0 0x5 (4#6)]
  | .xsub => [p0 3 0 0x5 (5#6)]
  | .xshl => [p0 3 0 0x5 (6#6)]
  | .xmul => [p0 3 0 0x5 (7#6)]
  | .xcopy => [p0 3 0 0x6 (0#6)]
  | .xcopy2 => [p0 3 0 0x7 (0#6)]
  | .xgath => [p0 3 0 0x8 (0#6)]
  | .xscat => [p0 3 0 0x9 (0#6)]
  | .xfeed q => [p0 3 0 0xa (0#4 ++ q)]
  | .xmeta => [p0 3 0 0xb (0#6)]
  | .xfill => [p0 3 0 0xc (0#6)]
  | .xfmt bank => [p0 3 0 0xd (0#1 ++ bank)]
  | .xredv => [p0 3 0 0xe (0#6)]
  | .xbcst publish => [p0 3 0 0xf (0#5 ++ bit publish 1)]
  | .xkvc => [p0 3 0 0x10 (0#6)]
  | .xtadd ctr => [p0 3 0 0x11 (0#1 ++ ctr)]
  | .outcomePop .. => []
  | .vectorLoadComplete .. => []
  | .pendingWriteLand .. => []
  | .matrixRecordStart => []
  | .pinnedWindowGrant => []
  | .matrixDrain => []
  | .copyLineLand .. => []
  | .xtaddAdd .. => []
  | .timelineAdd .. => []
  | .queueSlotFill .. => []
  | .storeBufferDrain .. => []
  | .l2Eviction .. => []
  | .trapEntry .. => []
  | .stall .. => []
  | .taskDispatch .. => []
  | .taskCompletion .. => []
  | .taskAging .. => []
  | .workQueueAdmission .. => []
  | .refillStart .. => []
  | .refillComplete .. => []
  | .mailboxArrival .. => []
  | .spoorAppend .. => []
  | .forcedSave .. => []
  | .sliceRequest => []
  | .sliceBoundary => []
  | .settExchange .. => []
  | .settExchangeComplete .. => []
  | .mcheck .. => []
  | .notify .. => []
  | .enqueue .. => []
  | .mailboxWrite .. => []
  | .summaryRequest .. => []
  | .xredvUnit .. => []
  | .xbcstUnit .. => []
  | .unitAcknowledge .. => []
  | .ualinkStore .. => []
  | .benrekReceive .. => []
  | .migrationChunk .. => []
  | .migrationRound .. => []
  | .fwreq .. => []
  | .fwdata .. => []
  | .fwreqTimeout .. => []
  | .packageReset => []
  | .bootRetry .. => []
  | .hbeatWrite .. => []
  | .claim .. => []
  | .thermalStop .. => []
  | .powerChangeComplete .. => []
  | .cmdtailWrite .. => []
  | .inval .. => []
  | .txinv .. => []
  | .tresume .. => []
  | .tsave .. => []
  | .cmdFence .. => []
  | .unfence .. => []
  | .settx .. => []
  | .settio .. => []
  | .preq .. => []
  | .failset .. => []
  | .resume .. => []
  | .power .. => []
  | .summary .. => []
  | .qres .. => []
  | .ctxdown .. => []
  | .restart .. => []
  | .migr .. => []
  | .thclr .. => []
  | .cctlWrite .. => []
  | .tposWrite .. => []
  | .wvtAllocate .. => []
  | .queueCreate .. => []
  | .mailboxBind .. => []
  | .mgmtkeyWrite .. => []
  | .sltailWrite .. => []
  | .groupEntryRewrite .. => []
  | .registerWrite .. => []
  | .consumerIndexWrite .. => []
  | .creditGrant .. => []
  | .unitRefusal .. => []

/-- A command record of the command ring (R372): D0 holds OP in [7:0] and TAG in [63:32], its other bits zero; D1 to D6
the arguments; D7 zero. `none` is BADCMD: an unknown OP or a nonzero reserved field. -/
def decodeCommand (r : Rec) : Option Instr :=
  let tag := r.d0.extractLsb' 32 32
  let z3 := r.d4 = 0 && r.d5 = 0 && r.d6 = 0
  let z2 := r.d3 = 0 && z3
  let z1 := r.d2 = 0 && z2
  let ok (b : Bool) (i : Instr) : Option Instr := if b then some i else none
  if r.d0.extractLsb' 8 24 ≠ 0#24 || r.d7 ≠ 0 then none else
  match (r.d0.extractLsb' 0 8).toNat with
  | 0x01 => ok z3 (.inval tag r.d1 r.d2 r.d3)
  | 0x02 => ok z3 (.txinv tag r.d1 r.d2 r.d3)
  | 0x03 => ok z1 (.tresume tag r.d1)
  | 0x04 => ok z1 (.tsave tag r.d1)
  | 0x05 => ok z1 (.cmdFence tag r.d1)
  | 0x06 => ok z1 (.unfence tag r.d1)
  | 0x07 => ok z1 (.settx tag r.d1)
  | 0x08 => ok z3 (.settio tag r.d1 r.d2 r.d3)
  | 0x09 => ok z3 (.preq tag r.d1 r.d2 r.d3)
  | 0x0A => ok (r.d5 = 0 && r.d6 = 0) (.failset tag r.d1 r.d2 r.d3 r.d4)
  | 0x0B => ok z2 (.resume tag r.d1 r.d2)
  | 0x0C => ok z2 (.power tag r.d1 r.d2)
  | 0x0D => ok z1 (.summary tag r.d1)
  | 0x0E => ok z2 (.qres tag r.d1 r.d2)
  | 0x0F => ok z1 (.ctxdown tag r.d1)
  | 0x10 => ok z1 (.restart tag r.d1)
  | 0x11 => ok z1 (.migr tag r.d1)
  | 0x12 => ok (r.d1 = 0 && z1) (.thclr tag)
  | _ => none

end Sys2Proof
end

