-- ==== Sys2Proof/Machine/Ops.lean ====
section
/-! DEFINITION. The named operations over memory, units and traps that every meaning calls: sparse arrays, memory and
L2, release sets and write-backs (R84–R91), translation (R76, R186–R190), counters (R223), trap entry and return
(R346–R349). -/

namespace Sys2Proof.Machine

/-! ### Sparse arrays and memories -/

/-- The value under `k`. -/
def aget {α : Type} : AMap α → Nat → Option α
  | [], _ => none
  | (i, v) :: r, k => if i = k then some v else aget r k

/-- The array with `v` under `k`, numbers still rising. -/
def aset {α : Type} : AMap α → Nat → α → AMap α
  | [], k, v => [(k, v)]
  | (i, w) :: r, k, v =>
    if k < i then (k, v) :: (i, w) :: r else if k = i then (k, v) :: r else (i, w) :: aset r k v

/-- The array without `k`. -/
def adel {α : Type} : AMap α → Nat → AMap α
  | [], _ => []
  | (i, w) :: r, k => if i = k then r else (i, w) :: adel r k

/-- A byte of a memory; an unlisted byte reads as 0 (DESIGN CHOICE, log 2; unsafe). -/
def memGet : Memory → Nat → Byte
  | [], _ => 0
  | (i, v) :: r, a => if i = a then v else memGet r a

/-- A memory with byte `v` at `a`, in canonical form. -/
def memSet : Memory → Nat → Byte → Memory
  | [], a, v => if v = 0 then [] else [(a, v)]
  | (i, w) :: r, a, v =>
    if a < i then (if v = 0 then (i, w) :: r else (a, v) :: (i, w) :: r)
    else if a = i then (if v = 0 then r else (a, v) :: r)
    else (i, w) :: memSet r a v

/-- The canonical form from address `lo` on: addresses rising, no byte 0. -/
def Memory.wfFrom (lo : Nat) : Memory → Bool
  | [] => true
  | (a, v) :: r => lo ≤ a && v ≠ 0 && Memory.wfFrom (a + 1) r

/-- The canonical form of a memory. -/
def Memory.wf (m : Memory) : Bool := Memory.wfFrom 0 m

/-- Bytes of a memory from `a` upward. -/
def memBytes (m : Memory) (a n : Nat) : List Byte := (List.range n).map (fun i => memGet m (a + i))

/-- A memory with bytes written from `a` upward. -/
def memWrite (m : Memory) (a : Nat) : List Byte → Memory
  | [] => m
  | b :: r => memWrite (memSet m a b) (a + 1) r

/-- Little-endian bytes as a double (R2). -/
def ofBytes : List Byte → Dbl
  | [] => 0
  | b :: r => (ofBytes r <<< 8) ||| b.setWidth 64

/-- The low `n` bytes of a value, lowest first (R2). -/
def toBytes (v : Dbl) (n : Nat) : List Byte := (List.range n).map (fun i => v.extractLsb' (8 * i) 8)

/-- The low `n` bytes of a natural number, lowest first (R2). -/
def natBytes (v n : Nat) : List Byte := (List.range n).map (fun i => BitVec.ofNat 8 (v >>> (8 * i)))

/-- Bytes as a natural number, lowest first (R2). -/
def bytesNat : List Byte → Nat
  | [] => 0
  | b :: r => b.toNat + 256 * bytesNat r

/-- The eight doubles of 64 bytes. -/
def recOf (bs : List Byte) : Rec :=
  let d (i : Nat) := ofBytes ((bs.drop (8 * i)).take 8)
  ⟨d 0, d 1, d 2, d 3, d 4, d 5, d 6, d 7⟩

/-- The doubles of a record in order. -/
def recDoubles (r : Rec) : List Dbl := [r.d0, r.d1, r.d2, r.d3, r.d4, r.d5, r.d6, r.d7]

/-- The 64 bytes of a record. -/
def recBytes (r : Rec) : List Byte := (recDoubles r).flatMap (fun d => toBytes d 8)

/-- sext(v, n) (R33). -/
def sext (v : Dbl) (n : Nat) : Dbl := BitVec.ofInt 64 (BitVec.ofNat n v.toNat).toInt
/-- zext(v, n) (R33). -/
def zext (v : Dbl) (n : Nat) : Dbl := BitVec.ofNat 64 (v.toNat % 2 ^ n)

/-! ### Units -/

/-- A tile of the package. -/
def State.tile (s : State) (t : PTile) : Tile := (aget s.tiles t.toNat).getD .reset
/-- The package with a tile changed. -/
def State.setTile (s : State) (t : PTile) (x : Tile) : State := { s with tiles := aset s.tiles t.toNat x }
/-- The package with a change made to a tile. -/
def State.modTile (s : State) (t : PTile) (f : Tile → Tile) : State := s.setTile t (f (s.tile t))
/-- The context state of a tile. -/
def State.tc (s : State) (t : PTile) : TCtx := (s.tile t).tc
/-- The package with a change made to a tile's context state. -/
def State.modTc (s : State) (t : PTile) (f : TCtx → TCtx) : State :=
  s.modTile t (fun x => { x with tc := f x.tc })
/-- A context of the package. -/
def State.ctx (s : State) (c : Ctx) : Context := (aget s.ctxs c.toNat).getD .reset
/-- The package with a change made to a context. -/
def State.modCtx (s : State) (c : Ctx) (f : Context → Context) : State :=
  { s with ctxs := aset s.ctxs c.toNat (f (s.ctx c)) }
/-- A die of the package. -/
def State.die (s : State) (d : Bool) : Die := if d then s.die1 else s.die0
/-- The package with a change made to a die. -/
def State.modDie (s : State) (d : Bool) (f : Die → Die) : State :=
  if d then { s with die1 := f s.die1 } else { s with die0 := f s.die0 }
/-- PTILE.DIE (R6). -/
def dieOf (t : PTile) : Bool := t.getLsbD 6
/-- The package-wide quad number (R6). -/
def quadOf (t : PTile) : Nat := t.toNat / 4
/-- The context a tile's running state belongs to; 0 where none is live. -/
def liveCtx (x : Tile) : Ctx := x.live.getD 0
/-- A Thicket slot of a die. -/
def State.slot (s : State) (d : Bool) (n : Nat) : Option TSlot := aget (s.die d).slots n
/-- A queue slot of a die. -/
def State.queue (s : State) (d : Bool) (n : Nat) : Queue := (aget (s.die d).queues n).getD .reset
/-- The package with a change made to a queue slot. -/
def State.modQueue (s : State) (d : Bool) (n : Nat) (f : Queue → Queue) : State :=
  s.modDie d (fun x => { x with queues := aset x.queues n (f ((aget x.queues n).getD .reset)) })
/-- A mailbox of a context. -/
def State.mbox (s : State) (c : Ctx) (m : Nat) : Mailbox := (aget (s.ctx c).mboxes m).getD .reset
/-- The package with a change made to a mailbox. -/
def State.modMbox (s : State) (c : Ctx) (m : Nat) (f : Mailbox → Mailbox) : State :=
  s.modCtx c (fun x => { x with mboxes := aset x.mboxes m (f ((aget x.mboxes m).getD .reset)) })
/-- A WVT entry of a context. -/
def State.wvt (s : State) (c : Ctx) (e : Nat) : Wvt := (aget (s.ctx c).wvt e).getD .reset
/-- The package with a change made to a WVT entry. -/
def State.modWvt (s : State) (c : Ctx) (e : Nat) (f : Wvt → Wvt) : State :=
  s.modCtx c (fun x => { x with wvt := aset x.wvt e (f ((aget x.wvt e).getD .reset)) })
/-- A group entry of a die. -/
def State.group (s : State) (d : Bool) (g : Nat) : Group := (aget (s.die d).groups g).getD .reset
/-- The package with a change made to a group entry. -/
def State.modGroup (s : State) (d : Bool) (g : Nat) (f : Group → Group) : State :=
  s.modDie d (fun x => { x with groups := aset x.groups g (f ((aget x.groups g).getD .reset)) })
/-- An island (R7, R385). -/
def State.island (s : State) (i : Nat) : Island := (aget s.islands i).getD .reset
/-- A message leaves the part (log 14). -/
def State.send (s : State) (m : Msg) : State := { s with sent := s.sent ++ [m] }

/-- PTIME (R343): seconds in [63:30], nanoseconds in [29:0]; `ns9` counts ninths of a nanosecond. -/
def State.ptime (s : State) : Dbl :=
  let ns := s.ns9 / 9
  BitVec.ofNat 64 ((ns / 1000000000) * 2 ^ 30 + ns % 1000000000)

/-- Byte n of TMAP (R374): the tile that holds a logical tile. -/
def State.mapTile (s : State) (c : Ctx) (n : Nat) : Option PTile :=
  let b := (aget (s.ctx c).tmap n).getD 0
  if b.getLsbD 7 then some (b.extractLsb' 0 7) else none

/-- TILEID (R343): the lowest logical number under which the context's map names the tile; 0 with none. -/
def State.logical (s : State) (c : Ctx) (t : PTile) : Nat :=
  ((List.range 128).find? (fun n => s.mapTile c n = some t)).getD 0

/-! ### Physical memory, L2 and release sets -/

/-- Whether an address of the physical map reaches memory (R395). No address of it reaches the memory of another package of the
pod, and the HDM decoders' ranges come from a turn of the environment (DESIGN CHOICE, log 44). -/
def State.mapped (s : State) (pa : Nat) : Bool :=
  pa < 0x00C000000000 || (0x010000000000 ≤ pa && pa < 0x020000000000) ||
  (0x100000000000 ≤ pa && pa < 0x200000000000 && s.hdm.any (fun r => r.1 ≤ pa && pa < r.1 + r.2))

/-- The home die of a physical address (R395). -/
def homeDie (pa : Nat) : Bool :=
  if pa < 0x010000000000 then 0x006000000000 ≤ pa
  else if pa < 0x020000000000 then 0x018000000000 ≤ pa
  else 0x180000000000 ≤ pa

/-- What an agent of die `d` reads at a physical byte: the die's L2, else the home (R84). -/
def State.phys (s : State) (d : Bool) (pa : Nat) : Byte := (aget (s.die d).l2 pa).getD (memGet s.mem pa)
/-- Bytes as an agent of die `d` reads them. -/
def State.physBytes (s : State) (d : Bool) (pa n : Nat) : List Byte :=
  (List.range n).map (fun i => s.phys d (pa + i))

/-- The line of a byte. -/
def lineOf (pa : Nat) : Nat := pa / 64

/-- Write back one line of a die's L2 to its home (R89): only the bytes of the line's mask; the line leaves every release
set of the die, and the other die's L2 gives up what it holds of it outside its own masks. -/
def State.writeBackLine (s : State) (d : Bool) (line : Nat) : State :=
  let here := (s.die d).l2.filter (fun c => lineOf c.1 = line)
  let mem := here.foldl (fun m c => memSet m c.1 c.2) s.mem
  let s := { s with mem := mem }
  let s := s.modDie d (fun x => { x with
    l2 := x.l2.filter (fun c => lineOf c.1 ≠ line)
    after := (x.after.filter (fun e => e.1 ≠ line)).map (fun e => (e.1, e.2.filter (· ≠ line))) })
  { s with tiles := s.tiles.map (fun e =>
      if dieOf (BitVec.ofNat 7 e.1) = d then (e.1, { e.2 with rset := e.2.rset.filter (· ≠ line) })
      else (e.1, { e.2 with kept := e.2.kept.filter (· ≠ line) })) }

/-- The lines of a die's L2 whose writes the line's own come after, where it is the line of an STL (R195). -/
def State.before (s : State) (d : Bool) (line : Nat) : List Nat := (aget (s.die d).after line).getD []

/-- Lines of a die's L2 with all those whose writes theirs come after, and so on, the latter first (R195). Each round but the last
adds a line that another is after, so one round more than there are lists of such lines suffices. -/
def linesBefore (after : AMap (List Nat)) : Nat → List Nat → List Nat
  | 0, ls => ls
  | n + 1, ls =>
    let more := (ls.flatMap (fun l => (aget after l).getD [])).dedup.filter (fun l => !ls.contains l)
    if more.isEmpty then ls else linesBefore after n (more ++ ls)

/-- A line with the lines that must be home no later than it (R195). -/
def State.covered (s : State) (d : Bool) (line : Nat) : List Nat :=
  linesBefore (s.die d).after ((s.die d).after.length + 1) [line]

/-- A line goes home, and with it all the lines whose writes its own come after, directly or through others (R195). -/
def State.bringHome (s : State) (d : Bool) (line : Nat) : State :=
  (s.covered d line).foldl (fun s l => s.writeBackLine d l) s

/-- Write back several lines of a die. -/
def State.writeBack (s : State) (d : Bool) (lines : List Nat) : State :=
  lines.foldl (fun s l => s.bringHome d l) s

/-- A line goes home from both dies (R87, R188). -/
def State.bothHome (s : State) (line : Nat) : State := (s.bringHome false line).bringHome true line

/-- Write back a tile's whole release set (R89). -/
def State.writeBackSet (s : State) (t : PTile) : State := s.writeBack (dieOf t) (s.tile t).rset

/-- A write performed at the home: any written-back copy of the line goes home first, on both dies (R87, R188). -/
def State.homeWrite (s : State) (pa : Nat) (bs : List Byte) : State :=
  let s := s.bothHome (lineOf pa)
  { s with mem := memWrite s.mem pa bs }

/-- An atomic OR of bytes at the home, after any written-back copy of the line (R87, R188). -/
def State.homeOr (s : State) (pa : Nat) (bits : List Byte) : State :=
  let s := s.bothHome (lineOf pa)
  { s with mem := memWrite s.mem pa (List.zipWith (· ||| ·) (memBytes s.mem pa bits.length) bits) }

/-- A line joins a tile's release set (R84, R88). -/
def joinLine (rset : List Nat) (l : Nat) : List Nat := if rset.contains l then rset else rset ++ [l]

/-- Write bytes into the L2 of a tile's die; their lines join the tile's release set (R84). -/
def State.l2Write (s : State) (t : PTile) (pa : Nat) : List Byte → State
  | [] => s
  | b :: r =>
    let s := s.modDie (dieOf t) (fun x => { x with l2 := aset x.l2 pa b })
    let s := s.modTile t (fun x => { x with rset := joinLine x.rset (lineOf pa) })
    s.l2Write t (pa + 1) r

/-- Read bytes at a place as a tile's vector, copy or bypassing control access does (R77, R84). -/
def State.readLoc (s : State) (t : PTile) (at_ : Loc) (n : Nat) : List Byte :=
  match at_ with
  | .mem pa => s.physBytes (dieOf t) pa n
  | .scr p off => memBytes (s.tc p).scratch off n

/-- Write bytes at a place: a scratchpad byte at once, a memory byte into the die's L2 (R77, R84). -/
def State.writeLoc (s : State) (t : PTile) (at_ : Loc) (bs : List Byte) : State :=
  match at_ with
  | .mem pa => s.l2Write t pa bs
  | .scr p off => s.modTc p (fun c => { c with scratch := memWrite c.scratch off bs })

/-- An access of the tile that goes to the die's L2: the L2 then holds the line (R165). A write of another engine invalidates the
line in the control data cache (R84, R154); a read that has passed the cache takes an older copy with it, so that no later read
of the tile goes backwards (R79). -/
def State.dropCached (s : State) (t : PTile) (at_ : Loc) : State :=
  match at_ with
  | .mem pa => s.modTile t (fun x => { x with dcache := adel x.dcache (lineOf pa), kept := joinLine x.kept (lineOf pa) })
  | .scr _ _ => s

/-- An acquire at QUAD scope or wider invalidates the control data cache (R225). -/
def State.acquireCache (s : State) (t : PTile) (scope : Nat) : State :=
  if 2 ≤ scope then s.modTile t (fun x => { x with dcache := [] }) else s

/-- Whether tile `q` lies within `scope` as tile `p` sees it (R78). -/
def inScope (scope : Nat) (p q : PTile) : Bool :=
  match scope with
  | 0 => p = q
  | 1 => p = q
  | 2 => quadOf p = quadOf q
  | 3 => dieOf p = dieOf q
  | _ => true

/-- Whether a release was made by another agent than tile `t`. -/
def Release.other (r : Release) (t : PTile) : Bool := r.unit || r.t ≠ t

/-- Whether a release is lazy (R88). -/
def Release.isLazy (r : Release) : Bool := 4 ≤ r.scope

/-- The releases at a location, the latest first (R86, R88). The location is the aligned double (DESIGN CHOICE, log 32): the
spec states no size, and two words of one double share their releases. -/
def State.releases (s : State) (pa : Nat) : List Release :=
  match aget s.dir (pa / 8) with
  | none => []
  | some r => r :: (aget s.past (pa / 8)).getD []

/-- The last releaser of a location that the home directory records: that of its last lazy release (R88). -/
def State.lastLazy (s : State) (pa : Nat) : Option Release := (s.releases pa).find? (·.isLazy)

/-- Whether two releases have the releaser and the scope in common. -/
def Release.same (a b : Release) : Bool := a.t = b.t && a.unit = b.unit && a.scope = b.scope

/-- An earlier release among earlier ones: one per releaser and scope, with the lines of them all. -/
def Release.into (r : Release) (l : List Release) : List Release :=
  { r with lines := (l.filter r.same).foldl (fun ls q => q.lines.foldl joinLine ls) r.lines } ::
    l.filter (fun q => !r.same q)

/-- A release at a location becomes its latest; the one before stays among the earlier (R85, R86, R88). -/
def State.putRelease (s : State) (pa : Nat) (r : Release) : State :=
  { s with
    dir := aset s.dir (pa / 8) r
    past := match s.releases pa with
      | [] => s.past
      | q :: l => aset s.past (pa / 8) (q.into l) }

/-- The lines of an acquired release join the acquiring tile's set, where the releaser is another tile or a unit of the same
die and the two synchronize (R86, R88); at PKG scope and wider as well, for the cumulativity of R85. -/
def State.joinRelease (s : State) (t : PTile) (scope : Nat) (r : Release) : State :=
  if r.other t && dieOf r.t = dieOf t && (if r.unit then 3 ≤ scope && 3 ≤ r.scope
      else inScope scope t r.t && inScope r.scope r.t t) then
    let live := r.lines.filter (fun l => (s.die (dieOf t)).l2.any (fun c => lineOf c.1 = l))
    s.modTile t (fun x => { x with rset := live.foldl joinLine x.rset })
  else s

/-- The write-back of the set that a lazy release recorded at a location (R89, 1). -/
def State.writeBackLazy (s : State) (r : Option Release) : State :=
  match r with
  | some r => s.writeBack (dieOf r.t) r.lines
  | none => s

/-- An acquire of a memory location (R85, R86, R89): at PKG scope and wider the home routes it to the last releaser, whose set
as of that release is written back; the lines of every release with which it synchronizes join this tile's set. -/
def State.acquireMem (s : State) (t : PTile) (scope pa : Nat) : State :=
  let rs := s.releases pa
  let s := if 4 ≤ scope then s.writeBackLazy (s.lastLazy pa) else s
  (rs.foldl (fun s r => s.joinRelease t scope r) s).acquireCache t scope

/-- A release set above 4,096 lines is written back whole before a release completes (R89, 2). -/
def State.capSet (s : State) (t : PTile) : State :=
  if 4096 < (s.tile t).rset.length then s.writeBackSet t else s

/-- What a release at a memory location does before its own write (R88–R90): at PKG scope and wider another releaser's set
is written back first. -/
def State.releaseBefore (s : State) (t : PTile) (scope pa : Nat) : State :=
  let s := if 4 ≤ scope then s.writeBackLazy ((s.lastLazy pa).filter (·.other t)) else s
  s.capSet t

/-- The record of a release at a memory location (R88): the tile, the scope and its set. -/
def State.recordRelease (s : State) (t : PTile) (scope pa : Nat) : State :=
  s.putRelease pa ⟨t, false, scope, (s.tile t).rset⟩

/-! ### The sets of L2 (R12, R165) -/

/-- Slice and set of a line (R165). -/
def setOf (line : Nat) : Nat × Nat := (line % 64, line / 64 % 1536)

/-- The pinned lines of the records that run on a die: each record's context and windows (R167). -/
def State.diePins (s : State) (d : Bool) : List (Ctx × List Nat) :=
  s.tiles.flatMap (fun e =>
    if dieOf (BitVec.ofNat 7 e.1) = d then
      e.2.tc.mq.flatMap (fun r => r.pins.map (fun p => (liveCtx e.2, p.2)))
    else [])

/-- The lines of a die's L2 with bytes not yet written back. -/
def State.dirtyLines (s : State) (d : Bool) : List Nat := ((s.die d).l2.map (fun c => lineOf c.1)).dedup

/-- The lines that a die's L2 holds: those not yet written back, and those that its tiles have read (R165). -/
def State.l2Lines (s : State) (d : Bool) : List Nat :=
  (s.dirtyLines d ++ s.tiles.flatMap (fun e => if dieOf (BitVec.ofNat 7 e.1) = d then e.2.kept else [])).dedup

/-- The lines not pinned of those sets of a die's L2 that hold more than their 16 ways. -/
def State.overfull (s : State) (d : Bool) : List Nat :=
  let pinned := ((s.diePins d).flatMap (·.2)).dedup
  let all := (s.l2Lines d ++ pinned).dedup
  (s.l2Lines d).filter (fun l => !pinned.contains l && 16 < (all.filter (fun q => setOf q = setOf l)).length)

/-- Lines leave a die's L2 as copies that its tiles have read (R165). -/
def State.giveUp (s : State) (d : Bool) (line : Nat) : State :=
  { s with tiles := s.tiles.map (fun e =>
      if dieOf (BitVec.ofNat 7 e.1) = d then (e.1, { e.2 with kept := e.2.kept.filter (· ≠ line) }) else e) }

/-- A list that has grown past its capacity gives up one entry, which one is free. -/
def State.evict {α : Type} (s : State) (cap : Nat) (l : List α) : List α :=
  if cap < l.length then l.eraseIdx (Config.freeVictim s.fresh % l.length) else l

/-! ### Translation -/

/-- What an access needs of its page (R187). -/
structure Acc where
  r : Bool
  w : Bool
  x : Bool
  /-- The access writes, so dirty state is set now (R188). -/
  d : Bool
  deriving DecidableEq, Repr

/-- Reads, writes, atomic accesses and text fetches (R187). -/
def accR : Acc := ⟨true, false, false, false⟩
/-- See `accR`. -/
def accW : Acc := ⟨false, true, false, true⟩
/-- See `accR`. -/
def accRW : Acc := ⟨true, true, false, true⟩
/-- A CAS, which sets dirty state only where it writes (R187, R197). -/
def accCas : Acc := ⟨true, true, false, false⟩
/-- See `accR`. -/
def accX : Acc := ⟨false, false, true, false⟩

/-- The shift of a leaf's page at a level (R376). -/
def pageShift (level : Nat) : Nat := match level with | 0 => 15 | 1 => 21 | _ => 30
/-- The lowest VA bit of a level's index, and the index's width (R376). -/
def levelBits (level : Nat) : Nat × Nat :=
  match level with | 4 => (48, 8) | 3 => (39, 9) | 2 => (30, 9) | 1 => (21, 9) | _ => (15, 6)

/-- A leaf of the walk (R186, R187, R376): its SIZE matches its level and the PPN bits of a large page are zero. -/
def leafOk (pte : Dbl) (level : Nat) : Bool :=
  level ≤ 2 && (pte.extractLsb' 6 2).toNat = level &&
  (level ≠ 1 || pte.extractLsb' 16 6 = 0#6) && (level ≠ 2 || pte.extractLsb' 16 15 = 0#15)

/-- The walk of R376 from a table at `level`, `fuel` levels at most: the leaf's level, entry and address. -/
def State.walkTable (s : State) (d : Bool) (va : Nat) : Nat → Nat → Nat → Option (Nat × Dbl × Nat)
  | 0, _, _ => none
  | fuel + 1, level, table =>
    let (sh, w) := levelBits level
    let a := table + 8 * ((va >>> sh) % 2 ^ w)
    let pte := ofBytes (s.physBytes d a 8)
    if !pte.getLsbD 0 then none
    else if pte.getLsbD 1 || pte.getLsbD 2 || pte.getLsbD 3 then
      if leafOk pte level then some (level, pte, a) else none
    else if level = 0 || pte.extractLsb' 4 5 ≠ 0#5 then none
    else s.walkTable d va fuel (level - 1) ((pte.extractLsb' 9 43).toNat * 512)

/-- The addresses of the entries that the walk reads. -/
def State.walkReads (s : State) (d : Bool) (va : Nat) : Nat → Nat → Nat → List Nat
  | 0, _, _ => []
  | fuel + 1, level, table =>
    let (sh, w) := levelBits level
    let a := table + 8 * ((va >>> sh) % 2 ^ w)
    let pte := ofBytes (s.physBytes d a 8)
    if !pte.getLsbD 0 || pte.getLsbD 1 || pte.getLsbD 2 || pte.getLsbD 3 || level = 0 || pte.extractLsb' 4 5 ≠ 0#5 then [a]
    else a :: s.walkReads d va fuel (level - 1) ((pte.extractLsb' 9 43).toNat * 512)

/-- The first byte, among `n` that a tile reads at a place, of an uncorrectable line (R387): its physical address, or its address
in the window through which the tile reads a scratchpad (DESIGN CHOICE, log 37). -/
def State.lostByte (s : State) (t : PTile) (at_ : Loc) (n : Nat) : Option Nat :=
  match at_ with
  | .mem pa => ((List.range n).find? (fun i => s.poison.contains (lineOf (pa + i)))).map (pa + ·)
  | .scr p off =>
    let base := if p = t then 0x00FF00000000 else 0x00FE00000000 + 0x200000 * s.logical (liveCtx (s.tile t)) p
    ((List.range n).find? (fun i => (s.tile p).spoiled.contains (lineOf (off + i)))).map (base + off + ·)

/-- An access of a tile reads bytes: where their line is uncorrectable, the tile has an MCHECK to take, with its address (R360,
R387). -/
def State.sees (s : State) (t : PTile) (at_ : Loc) (n : Nat) : State :=
  match s.lostByte t at_ n with
  | some a => s.modTile t (fun x => { x with bad := x.bad <|> some a })
  | none => s

/-- A unit that has read a bad line has a report of kind 0 to make (R387). -/
def State.owesReport (s : State) (bad : Bool) (c : Ctx) (va : Dbl) : State :=
  if bad then { s with toReport := s.toReport ++ [(c, va)] } else s

/-- A unit reads a line for a context: where the line is poisoned it has a report of kind 0 to make (R387). The bytes that it
reads are those that memory holds (DESIGN CHOICE, log 37). -/
def State.unitReads (s : State) (c : Ctx) (pa : Nat) (va : Dbl) : State := s.owesReport (s.poison.contains (lineOf pa)) c va

/-- The walk for a tile, or for a unit of the die, reads the tables' lines, which may be uncorrectable (R387). -/
def State.readsTables (s : State) (d : Bool) (t : Option PTile) (c : Ctx) (va : Nat) : State :=
  if s.poison.isEmpty then s else
  (s.walkReads d va 5 4 (((s.ctx c).ptroot.extractLsb' 11 41).toNat * 2048)).foldl (fun s a =>
    match t with
    | some t => s.sees t (.mem a) 8
    | none => s.unitReads c a (BitVec.ofNat 64 va)) s

/-- An atomic OR of bits into an entry in memory (R188). -/
def State.orEntry (s : State) (a : Nat) (bits : Dbl) : State := s.homeOr a (toBytes bits 8)

/-- Whether a TLB entry translates an address of a context (R186: G entries are kept by an invalidate, and each entry is of
one context). -/
def TlbEntry.hits (e : TlbEntry) (c : Ctx) (va : Nat) : Bool :=
  e.ctx = c && e.base = va >>> pageShift e.level <<< pageShift e.level

/-- Find a translation for an agent of die `d`: the tile's TLB, the shared TLB, or a walk, which sets A (R186, R189). A new
entry enters both TLBs. -/
def State.findTlb (s : State) (d : Bool) (t : Option PTile) (c : Ctx) (va : Nat) : Option (State × TlbEntry) :=
  let own := match t with | some t => (s.tile t).tlb | none => []
  let enter (s : State) (e : TlbEntry) : State :=
    match t with
    | some t => s.modTile t (fun x => { x with tlb := (x.tlb ++ [e]).drop (x.tlb.length + 1 - 128) })
    | none => s
  match own.find? (·.hits c va) with
  | some e => some (s, e)
  | none =>
    match (s.die d).stlb.find? (·.hits c va) with
    | some e => some (enter s { e with known := [] }, { e with known := [] })
    | none =>
      match s.walkTable d va 5 4 (((s.ctx c).ptroot.extractLsb' 11 41).toNat * 2048) with
      | none => none
      | some (level, pte, a) =>
        let e : TlbEntry := ⟨c, va >>> pageShift level <<< pageShift level, level, pte, a, []⟩
        let s := s.readsTables d t c va
        let s := if pte.getLsbD 4 then s else s.orEntry a 0x10
        let s := s.modDie d (fun x => { x with stlb := (x.stlb ++ [e]).drop (x.stlb.length + 1 - 16384) })
        some (enter s e, e)

/-- The physical address a TLB entry gives (R186). -/
def TlbEntry.pa (e : TlbEntry) (va : Nat) : Nat :=
  (e.pte.extractLsb' 16 37).toNat * 2 ^ 15 + va % 2 ^ pageShift e.level

/-- Set the dirty state of the 4 KiB that holds `va` (R188, R376): a D bit of a 32 KiB page, or the frame's bit in the
context's dirty bitmap; a frame outside DBWIN sets DBOVF. An entry's dirty-known bit keeps a later write from the walk. -/
def State.setDirty (s : State) (t : Option PTile) (c : Ctx) (va : Nat) (e : TlbEntry) : State :=
  let frame := e.pa va / 4096
  if e.known.contains frame then s else
  let s := match t with
    | none => s
    | some t => s.modTile t (fun x => { x with tlb := x.tlb.map (fun (y : TlbEntry) =>
        if y.hits c va then { y with known := y.known ++ [frame] } else y) })
  if e.level = 0 then s.orEntry e.addr (1#64 <<< (8 + va / 4096 % 8))
  else
    let x := s.ctx c
    let first := x.dbwin.toNat % 2 ^ 40
    let n := x.dbwin.toNat / 2 ^ 40 * 64
    if first ≤ frame && frame < first + n then
      s.homeOr (x.dbbase.toNat + (frame - first) / 8) [1#8 <<< ((frame - first) % 8)]
    else s.modCtx c (fun x => { x with dbovf := true })

/-- Cause codes (R344). -/
def cILLEGAL : Byte := 0x01
def cQOVER : Byte := 0x02
def cQUNDER : Byte := 0x03
def cSTKOVER : Byte := 0x04
def cSTKUNDER : Byte := 0x05
def cALIGN : Byte := 0x06
def cPAGE : Byte := 0x07
def cPROT : Byte := 0x08
def cPINOVER : Byte := 0x09
def cPEERFAIL : Byte := 0x0A
def cEXPOSE : Byte := 0x0B
def cSTALEVER : Byte := 0x0C
def cSPILLOVER : Byte := 0x0D
def cSTALL : Byte := 0x0E
def cSCALL : Byte := 0x0F
def cTRAPI : Byte := 0x10
def cMCHECK : Byte := 0x11
def cFETCH : Byte := 0x12
def cQHANDLE : Byte := 0x13

/-- Whether an entry permits an access (R187). -/
def TlbEntry.allows (e : TlbEntry) (acc : Acc) : Bool :=
  (!acc.r || e.pte.getLsbD 1) && (!acc.w || e.pte.getLsbD 2) && (!acc.x || e.pte.getLsbD 3)

/-- Whether an address lies in a window range, which is decoded before translation (R76). -/
def isWindow (a : Nat) : Bool := 0x00FE00000000 ≤ a && a < 0x010000000000

/-- Translate an access through a context's tables (R186–R188): PAGE where there is no valid translation, PROT where a
permission lacks or the physical address reaches nothing (R395). A write sets dirty state. -/
def State.throughTables (s : State) (d : Bool) (t : Option PTile) (c : Ctx) (va : Nat) (acc : Acc) (tval : Dbl) :
    Except Cause (State × Nat) :=
  match s.findTlb d t c va with
  | none => .error ⟨cPAGE, tval⟩
  | some (s, e) =>
    if !e.allows acc then .error ⟨cPROT, tval⟩
    else if !s.mapped (e.pa va) then .error ⟨cPROT, tval⟩
    else .ok (if acc.d then s.setDirty t c va e else s, e.pa va)

/-- The same for an address of memory: one in a window range, or of 2^56 or more, is never translated (R76). A unit of the die reaches
nothing there with a line of its own, of a ring, a log, a mailbox or an image, and the access fails with PROT (DESIGN CHOICE, log 62). -/
def State.translate (s : State) (d : Bool) (t : Option PTile) (c : Ctx) (va : Nat) (acc : Acc) (tval : Dbl) :
    Except Cause (State × Nat) :=
  if 2 ^ 56 ≤ va || isWindow va then .error ⟨cPROT, tval⟩ else s.throughTables d t c va acc tval

/-- The translation that an access has completed where its physical address reaches nothing (R186, R395): A is set and the
entry enters the TLBs, before the access fails with PROT. Of a walk that finds no translation, what it has read stands (R387). -/
def State.touchAs (s : State) (d : Bool) (t : Option PTile) (c : Ctx) (acc : Acc) (k : Cause) : State :=
  let a := k.tval.toNat
  if (k.code ≠ cPROT && k.code ≠ cPAGE) || isWindow a || 2 ^ 56 ≤ a then s
  else if k.code = cPAGE then s.readsTables d t c a
  else
  match s.findTlb d t c a with
  | none => s
  | some (s', e) => if e.allows acc && !s'.mapped (e.pa a) then s' else s

/-- The same for an access of a tile. -/
def State.touch (s : State) (t : PTile) (acc : Acc) (k : Cause) : State :=
  s.touchAs (dieOf t) (some t) (liveCtx (s.tile t)) acc k

/-- The accesses of a unit to addresses of a context one after another, up to the first that fails or that R76 refuses: each
completes its translation, and sets no dirty state (R186, R395). -/
def State.touchAll (s : State) (d : Bool) (c : Ctx) (acc : Acc) : List Nat → State
  | [] => s
  | a :: rest =>
    if 2 ^ 56 ≤ a then s else
    match s.translate d none c a { acc with d := false } (BitVec.ofNat 64 a) with
    | .ok (s, _) => s.touchAll d c acc rest
    | .error k => s.touchAs d none c acc k

/-- Why an instruction does not go on: it stands in a wait that counts as a stall (R396), it waits for its own earlier
accesses, which is no such wait, or it traps (R32, R52). -/
inductive Halt where
  | wait
  | hold
  | trap (c : Cause)
  deriving DecidableEq, Repr

/-- The tile whose scratchpad `n` bytes at a peer-window address name, and the offset there; none where the access traps PROT (R76). -/
def State.peerOf (s : State) (c : Ctx) (a n : Nat) : Option (PTile × Nat) :=
  let o := (a - 0x00FE00000000) % 0x200000
  let k := (a - 0x00FE00000000) / 0x200000
  if 128 ≤ k || 0x200000 < o + n then none else (s.mapTile c k).map (fun p => (p, o))

/-- An access to the scratchpad of another tile (R77, R361): it waits while the tile exchanges with its Sett, which no rule calls a
stall (R396), and traps PEERFAIL where the tile is fenced. It reaches the scratchpad of the context that is live there, whichever
context's map names the tile (DESIGN CHOICE, log 41). -/
def State.peerLoc (s : State) (p : PTile) (o : Nat) (va : Dbl) : Except Halt Loc :=
  match (s.tile p).stop with
  | .fenced => .error (.trap ⟨cPEERFAIL, va⟩)
  | .exchanging _ => .error .hold
  | _ => .ok (.scr p o)

/-- Where an access of `n` bytes at `va` leads (R76, R77, R361): a scratchpad window, before translation, or memory. The
access lies within one page. -/
def State.locate (s : State) (t : PTile) (va : Dbl) (n : Nat) (acc : Acc) : Except Halt (State × Loc) :=
  let a := va.toNat
  let c := liveCtx (s.tile t)
  if 0x00FF00000000 ≤ a && a < 0x010000000000 then
    let o := a - 0x00FF00000000
    if o + n ≤ 0x200000 then .ok (s, .scr t o) else .error (.trap ⟨cPROT, va⟩)
  else if 0x00FE00000000 ≤ a && a < 0x00FF00000000 then
    match s.peerOf c a n with
    | none => .error (.trap ⟨cPROT, va⟩)
    | some (p, o) => if p = t then .ok (s, .scr t o) else (s.peerLoc p o va).map (fun l => (s, l))
  else
    match s.translate (dieOf t) (some t) c a acc va with
    | .error e => .error (.trap e)
    | .ok (s, pa) => .ok (s, .mem pa)

/-! ### Timeline counters -/

/-- A counter of a tile context (R222). -/
def TCtx.ctr (c : TCtx) (n : Nat) : Dbl := (aget c.ts n).getD 0

/-- An add, saturating (R223). -/
def TCtx.addCtr (c : TCtx) (n : Nat) (v : Dbl) : TCtx :=
  { c with ts := aset c.ts n (if c.ctr n + v < v then 0xFFFFFFFFFFFFFFFF#64 else c.ctr n + v) }

/-- The progress count of a tile restarts (R396). -/
def State.progress (s : State) (t : PTile) : State := s.modTile t (fun x => { x with prog := 0 })

/-- A FAIL bit is set (R224). -/
def TCtx.setFail (c : TCtx) (n : Nat) : TCtx := { c with fails := c.fails ||| (1#32 <<< n) }

/-! ### Performing pending accesses of a tile -/

/-- The value an atomic operation writes (R196), at an access of `n` bytes. -/
def amoOp (aop n : Nat) (old v : Dbl) : Dbl :=
  let so := sext old (8 * n)
  let sv := sext v (8 * n)
  let uo := zext old (8 * n)
  let uv := zext v (8 * n)
  match aop with
  | 0 => old + v
  | 1 => old &&& v
  | 2 => old ||| v
  | 3 => old ^^^ v
  | 4 => if sv.slt so then v else old
  | 5 => if so.slt sv then v else old
  | 6 => if uv < uo then v else old
  | 7 => if uo < uv then v else old
  | _ => v

/-- The control data cache of a tile takes a line, which the die's L2 holds as well (R165); it holds 1,024 of them (R8, R191). -/
def State.cacheLine (s : State) (t : PTile) (l : Nat) (line : List Byte) : State :=
  s.modTile t (fun x => { x with dcache := s.evict 1024 (aset x.dcache l line), kept := joinLine x.kept l })

/-- A store of the control engine updates its data cache as it enters it (R84): a line that the cache holds takes the new bytes;
at ENG or TILE scope the cache takes a line that it does not hold. -/
def State.cacheStore (s : State) (t : PTile) (pa scope : Nat) (bs : List Byte) : State :=
  let l := lineOf pa
  match aget (s.tile t).dcache l with
  | some line =>
    let line := (line.take (pa % 64)) ++ bs ++ line.drop (pa % 64 + bs.length)
    s.modTile t (fun x => { x with dcache := aset x.dcache l line })
  | none => if scope ≤ 1 then s.cacheLine t l (s.physBytes (dieOf t) (64 * l) 64) else s

/-- The control data cache after a store of its engine at a place. -/
def State.cacheStoreAt (s : State) (t : PTile) (at_ : Loc) (scope : Nat) (bs : List Byte) : State :=
  match at_ with
  | .scr _ _ => s
  | .mem pa => s.cacheStore t pa scope bs

/-- A buffered store leaves the buffer (R191): it is written at its place, and at ENG or TILE scope the control data cache
takes the new bytes. -/
def State.drainStore (s : State) (t : PTile) (b : BufStore) : State :=
  let s := s.modTile t (fun x => { x with
    sbuf := x.sbuf.filter (fun y => y.seq ≠ b.seq), seen := x.seen.filter (· ≠ b.seq) })
  let bs := toBytes b.v b.n
  (s.writeLoc t b.at_ bs).cacheStoreAt t b.at_ b.scope bs

/-- Two places of given lengths share a byte. -/
def overlaps (a : Loc) (n : Nat) (b : Loc) (m : Nat) : Bool :=
  match a, b with
  | .mem p, .mem q => p < q + m && q < p + n
  | .scr t p, .scr u q => t = u && p < q + m && q < p + n
  | _, _ => false

/-- Offset of one place within another, where it lies wholly inside. -/
def insideAt (a : Loc) (n : Nat) (b : Loc) (m : Nat) : Option Nat :=
  match a, b with
  | .mem p, .mem q => if q ≤ p && p + n ≤ q + m then some (p - q) else none
  | .scr t p, .scr u q => if t = u && q ≤ p && p + n ≤ q + m then some (p - q) else none
  | _, _ => none

/-- The place `k` bytes further. -/
def Loc.plus : Loc → Nat → Loc
  | .mem pa, k => .mem (pa + k)
  | .scr t o, k => .scr t (o + k)

/-- The buffered stores of a class before place `seq` of the control stream. -/
def Tile.earlier (x : Tile) (seq cls : Nat) : List BufStore := x.sbuf.filter (fun b => b.seq < seq && b.cls = cls)

/-- What the store buffer gives a load for the byte `k` of its place: the youngest of the stores that holds it, by its order
number, and the byte. -/
def bufByte (stores : List BufStore) (at_ : Loc) (k : Nat) : Option (Nat × Byte) :=
  (stores.filter (fun b => (insideAt (at_.plus k) 1 b.at_ b.n).isSome)).getLast?.map (fun b =>
    (b.seq, b.v.extractLsb' (8 * (insideAt (at_.plus k) 1 b.at_ b.n).getD 0) 8))

/-- The bytes that the store buffer serves to a load, where every byte lies in earlier stores of its own class (R191). -/
def Tile.served (x : Tile) (seq cls : Nat) (at_ : Loc) (n : Nat) : Option (List (Nat × Byte)) :=
  let bs := (List.range n).map (bufByte (x.earlier seq cls) at_)
  if 0 < n && bs.all (·.isSome) then some (bs.filterMap id) else none

/-- A plain control load's bytes (R84, R191): those that the store buffer serves, whose stores are then seen; else from the
control data cache at ENG or TILE scope, which takes the line; else from the scratchpad or the die's L2, and the cache gives
its copy of the line up, so that no later read goes backwards (R79). -/
def State.loadBytes (s : State) (t : PTile) (seq cls scope : Nat) (at_ : Loc) (n : Nat) : State × List Byte :=
  match (s.tile t).served seq cls at_ n with
  | some bs => (s.modTile t (fun x => { x with seen := x.seen ++ bs.map (·.1) }), bs.map (·.2))
  | none =>
    match at_ with
    | .scr p off => (s.sees t at_ n, memBytes (s.tc p).scratch off n)
    | .mem pa =>
      if scope ≤ 1 then
        let l := lineOf pa
        match aget (s.tile t).dcache l with
        | some line => (s, (line.drop (pa % 64)).take n)
        | none =>
          let line := s.physBytes (dieOf t) (64 * l) 64
          ((s.sees t at_ n).cacheLine t l line, (line.drop (pa % 64)).take n)
      else ((s.sees t at_ n).dropCached t at_, s.physBytes (dieOf t) pa n)

/-- Fill the reserved slot of a pending fill (R97). -/
def fillSlot (c : TCtx) (id : Nat) (v : Dbl) : TCtx :=
  { c with qs := c.qs.map (fun q => (q.1, q.2.map (fun sl => if sl = .reserved id then .filled v else sl)))
           fills := c.fills.filter (fun f => f.id ≠ id) }

/-- An atomic operation on a place (R87, R196, R197): at DIE scope or narrower in the die's L2, wider at the line's home
after the write-backs of R89 and R90, at a window at its scratchpad. It is a release and then an acquire (R85); no older
copy of its line stays in the control data cache (R79). -/
def State.atomic (s : State) (t : PTile) (scope : Nat) (at_ : Loc) (n : Nat) (f : Dbl → Option Dbl) : State × Dbl :=
  match at_ with
  | .scr p off =>
    let s := (s.sees t at_ n).writeBackSet t
    let old := ofBytes (memBytes (s.tc p).scratch off n)
    let s := match f old with
      | some v => s.writeLoc t at_ (toBytes v n)
      | none => s
    (s.acquireCache t scope, old)
  | .mem pa =>
    let s := (((s.sees t at_ n).releaseBefore t scope pa).dropCached t at_).acquireMem t scope pa
    if scope ≤ 3 then
      let old := ofBytes (s.physBytes (dieOf t) pa n)
      let s := match f old with
        | some v => s.l2Write t pa (toBytes v n)
        | none => s
      (s.recordRelease t scope pa, old)
    else
      let s := s.bothHome (lineOf pa)
      let old := ofBytes (memBytes s.mem pa n)
      let s := match f old with
        | some v => s.homeWrite pa (toBytes v n)
        | none => s
      (s.recordRelease t scope pa, old)

/-- Perform a pending fill of a tile: the value or the access, then the slot (R97, R194, R196, R197). -/
def State.performFill (s : State) (t : PTile) (f : Fill) : State :=
  match f.op with
  | .value v => s.modTc t (fun c => fillSlot c f.id v)
  | .load at_ n sx acq =>
    let s := match acq, at_ with
      | true, .mem pa => s.acquireMem t f.scope pa
      | true, .scr _ _ => s.acquireCache t f.scope
      | false, _ => s
    let (s, bs) := s.loadBytes t f.seq f.cls f.scope at_ n
    let v := ofBytes bs
    s.modTc t (fun c => fillSlot c f.id (if sx then sext v (8 * n) else v))
  | .amo at_ n aop v =>
    let (s, old) := s.atomic t f.scope at_ n (fun old => some (amoOp aop n old v))
    s.modTc t (fun c => fillSlot c f.id (zext old (8 * n)))
  | .cas at_ n va e v =>
    let (s, old) := s.atomic t f.scope at_ n (fun old => if old = zext e (8 * n) then some v else none)
    let s := match at_ with
      | .mem _ =>
        if old = zext e (8 * n) then
          match s.translate (dieOf t) (some t) (liveCtx (s.tile t)) va accW 0 with
          | .ok (s, _) => s
          | .error _ => s
        else s
      | .scr _ _ => s
    s.modTc t (fun c => fillSlot c f.id (zext old (8 * n)))

/-- Whether a fill orders every later access after itself (R85). -/
def Fill.acquires (f : Fill) : Bool :=
  match f.op with
  | .load _ _ _ acq => acq
  | .amo .. => true
  | .cas .. => true
  | .value _ => false

/-- Whether a fill is a memory access, and so counts as a load (R226). -/
def Fill.isAccess (f : Fill) : Bool := match f.op with | .value _ => false | _ => true

/-- Whether a fill is also a release, which every earlier access precedes (R85). -/
def Fill.releases (f : Fill) : Bool :=
  match f.op with
  | .amo .. => true
  | .cas .. => true
  | _ => false

/-- Two classes are ordered against each other: the same class, or one of them 15 (R80). -/
def clsOrdered (a b : Nat) : Bool := a = b || a = 15 || b = 15

/-- Whether a pending fill may be performed now (R80, R191): nothing before it in its stream that its class, class 15 or an
acquire orders before it is still outstanding, but for stores of its class that serve it whole from the buffer; and no store
of another class that a load has read lies in its way (R79). -/
def fillReady (x : Tile) (f : Fill) : Bool :=
  match f.op with
  | .value _ => true
  | .load at_ n _ _ =>
    x.tc.fills.all (fun g => f.seq ≤ g.seq || !g.isAccess || !(clsOrdered f.cls g.cls || g.acquires)) &&
    x.sbuf.all (fun b => f.seq ≤ b.seq || (f.cls ≠ 15 && b.cls ≠ 15)) &&
    ((x.earlier f.seq f.cls).isEmpty || (x.served f.seq f.cls at_ n).isSome) &&
    x.sbuf.all (fun b => b.cls = f.cls || !x.seen.contains b.seq || !overlaps at_ n b.at_ b.n)
  | _ =>
    x.tc.fills.all (fun g => f.seq ≤ g.seq || !g.isAccess) && x.sbuf.all (fun b => f.seq ≤ b.seq)

/-- Whether a buffered store may leave the buffer now (R80, R191). -/
def storeReady (x : Tile) (b : BufStore) : Bool :=
  x.sbuf.all (fun c => b.seq ≤ c.seq || !clsOrdered b.cls c.cls) &&
  x.tc.fills.all (fun g => b.seq ≤ g.seq || !g.isAccess || !(clsOrdered b.cls g.cls || g.acquires))

/-- Where the access of a pending fill leads. -/
def FillOp.place : FillOp → Option Loc
  | .value _ => none
  | .load at_ _ _ _ => some at_
  | .amo at_ _ _ _ => some at_
  | .cas at_ _ _ _ _ => some at_

/-- Whether a place lies in the scratchpad of tile `p`. -/
def Loc.on (p : PTile) : Loc → Bool
  | .mem _ => false
  | .scr q _ => q = p

/-- Whether a tile has issued an access to the scratchpad of tile `p` that is not performed yet. -/
def Tile.reaches (x : Tile) (p : PTile) : Bool :=
  x.tc.fills.any (fun f => f.op.place.any (Loc.on p)) || x.sbuf.any (fun b => b.at_.on p) ||
  x.tc.vloads.any (fun l => l.lanes.any (fun q => q.2.on p)) || x.tc.vstores.any (fun v => v.bytes.any (fun b => b.1.on p))

/-- Perform everything outstanding of a tile's control stream in program order, `n` items at most. -/
def State.settle (s : State) (t : PTile) : Nat → State
  | 0 => s
  | n + 1 =>
    match (s.tile t).tc.fills, (s.tile t).sbuf with
    | [], [] => s
    | f :: _, [] => (s.performFill t f).settle t n
    | [], b :: _ => (s.drainStore t b).settle t n
    | f :: _, b :: _ => if f.seq < b.seq then (s.performFill t f).settle t n else (s.drainStore t b).settle t n

/-- Every issued control load, AMO, CAS, CSRR, PARM and VMOVQ fills its slot (R346, 2): the fills in program order, each
after the buffered stores before it. -/
def State.completeFills (s : State) (t : PTile) : State :=
  match (s.tile t).tc.fills.getLast? with
  | none => s
  | some last =>
    let n := (s.tile t).tc.fills.length + ((s.tile t).sbuf.filter (fun b => b.seq < last.seq)).length
    s.settle t n

/-! ### Engines -/

/-- ENG of an engine (R34). -/
def engCode : Eng → BitVec 2 | .c => 0 | .v => 1 | .m => 2 | .x => 3
/-- An engine of a tile context. -/
def TCtx.eng (c : TCtx) : Eng → Engine | .c => c.c | .v => c.v | .m => c.m | .x => c.x
/-- A tile context with a change made to an engine. -/
def TCtx.modEng (c : TCtx) (e : Eng) (f : Engine → Engine) : TCtx :=
  match e with
  | .c => { c with c := f c.c }
  | .v => { c with v := f c.v }
  | .m => { c with m := f c.m }
  | .x => { c with x := f c.x }
/-- The engines of the walking set (R259). -/
def TCtx.walkers (c : TCtx) : List Eng := [.c, .v, .m, .x].filter (fun e => (c.eng e).walking)

/-- A program counter moved by a number of parcels; addresses of text wrap at 48 bits (DEDUCED, log 12). -/
def pcAdd (pc : Pc) (parcels : Nat) : Pc := pc + BitVec.ofNat 48 (2 * parcels)

/-- An engine with what its instruction's wait has gathered given up; a QCLR that a trap or a save stops counts its slots anew
when it runs again (R346; DESIGN CHOICE, log 36). -/
def Engine.drop (g : Engine) : Engine := { g with clearing := none, exit := none, await := none, fetched := [] }

/-- An engine stopped where it stands: no wait and no meeting; at an RDV of several parcels it is before them all (R49, R346). -/
def Engine.still (g : Engine) : Engine :=
  { g.drop with
    waiting := false, meet := .none, span := 0
    pc := if g.meet = .rdv then g.pc - BitVec.ofNat 48 (2 * g.span) else g.pc }

/-- The control queues without the slots that an ENQ or DEQ in its wait has reserved, whose values no pending fill brings (R97,
R346). -/
def TCtx.unreserved (c : TCtx) : AMap (List Slot) :=
  if c.c.await.isNone then c.qs else
  c.qs.map (fun q => (q.1, q.2.filter (fun sl => match sl with
    | .reserved id => c.fills.any (fun f => f.id = id)
    | .filled _ => true)))

/-- Whether an operation is a load. -/
def FillOp.isLoad : FillOp → Bool
  | .load .. => true
  | _ => false

/-- The fills of PARM after an instruction of `n` parcels has issued: of those that leave a load pending, it alone has two. -/
def TCtx.parmsAfter (c : TCtx) (g : Engine) (n : Nat) : List Nat :=
  (g.parms.filter (fun k => c.fills.any (fun f => f.seq = k))) ++
    (if n = 2 then (c.fills.filter (fun f => g.mark ≤ f.seq && f.op.isLoad)).map (·.seq) else [])

/-- An engine goes on past `n` parcels: it issued, so its wait ends and the progress count restarts (R396). The walk count
rises by the parcels passed, but for FORK and RDV and while a handler runs (R261). -/
def State.advance (s : State) (t : PTile) (e : Eng) (n : Nat) (counted : Bool) : State :=
  (s.modTc t (fun c => c.modEng e (fun g =>
    { g.drop with pc := pcAdd g.pc n, waiting := false, meet := .none, mark := c.seq
                  parms := if e = .c then c.parmsAfter g n else g.parms
                  count := if counted && !c.inh then g.count + n else g.count }))).progress t

/-- An engine goes on at an address its instruction gave. -/
def State.goTo (s : State) (t : PTile) (e : Eng) (n : Nat) (dest : Pc) : State :=
  (s.advance t e n true).modTc t (fun c => c.modEng e (fun g => { g with pc := dest }))

/-- An engine stands in a wait that counts as a stall (R396). -/
def State.stand (s : State) (t : PTile) (e : Eng) : State :=
  s.modTc t (fun c => c.modEng e (fun g => { g with waiting := true }))

/-- An engine waits where no stall is counted. -/
def State.pause (s : State) (t : PTile) (e : Eng) : State :=
  s.modTc t (fun c => c.modEng e (fun g => { g with waiting := false }))

/-! ### Vector registers under exposure (R126) -/

/-- Lanes `new` where the mask has a bit, `old` elsewhere, from lane `i` on. -/
def mergeLanes (m : Mask) : Nat → List Lane → List Lane → List Lane
  | i, a :: r, b :: q => (if m.getLsbD i then a else b) :: mergeLanes m (i + 1) r q
  | i, a :: r, [] => (if m.getLsbD i then a else 0) :: mergeLanes m (i + 1) r []
  | _, [], q => q

/-- Whether write `a` is read before write `b` where both qualify (R126): the later visibility tick, then the later issue. -/
def VWrite.before (a b : VWrite) : Bool := a.vis < b.vis || (a.vis = b.vis && a.iss ≤ b.iss)

/-- A write into its place among writes in the order of R126. -/
def insertWrite (w : VWrite) : List VWrite → List VWrite
  | [] => [w]
  | a :: r => if w.before a then w :: a :: r else a :: insertWrite w r

/-- The writes in the order in which readers see them. -/
def sortWrites : List VWrite → List VWrite
  | [] => []
  | w :: r => insertWrite w (sortWrites r)

/-- Register `n` as an instruction issued at tick `u` reads it (R126). -/
def TCtx.vread (c : TCtx) (n u : Nat) : List Lane :=
  let due := sortWrites (c.pending.filter (fun w => w.reg = n && w.vis ≤ u))
  due.foldl (fun v w => mergeLanes w.mask 0 w.vals v) ((aget c.vregs n).getD [])

/-- A pending write lands in its register. -/
def TCtx.land (c : TCtx) (w : VWrite) : TCtx :=
  { c with vregs := aset c.vregs w.reg (mergeLanes w.mask 0 w.vals ((aget c.vregs w.reg).getD [])) }

/-- Every pending write whose visibility tick is at or below `u` lands, in the order of R126; the others stay. -/
def TCtx.landDue (c : TCtx) (u : Nat) : TCtx :=
  let due := sortWrites (c.pending.filter (fun w => w.vis ≤ u))
  { due.foldl TCtx.land c with pending := c.pending.filter (fun w => !(w.vis ≤ u)) }

/-- The pending writes to registers that no vector load in flight is to write land; the others stay, for they may come after the
load's (R126, R129). -/
def TCtx.landClear (c : TCtx) : TCtx :=
  let clear (w : VWrite) : Bool := c.vloads.all (fun l => l.reg ≠ w.reg)
  { (sortWrites (c.pending.filter clear)).foldl TCtx.land c with pending := c.pending.filter (fun w => !clear w) }

/-- Every pending write lands, and no tick passes (R129). -/
def TCtx.landAll (c : TCtx) : TCtx := { (sortWrites c.pending).foldl TCtx.land c with pending := [] }

/-- The lane that a loaded element gives (R153); L6 elements are read with their bit offset in two bytes. -/
def elemLane (e : VElem) (l : Nat) (bs : List Byte) : Lane :=
  match e with
  | .w32 => (ofBytes (bs.take 4)).setWidth 32
  | .h16 => (ofBytes (bs.take 2)).setWidth 32 <<< 16
  | .s8 => (sext (ofBytes (bs.take 1)) 8).setWidth 32
  | .u8 => (ofBytes (bs.take 1)).setWidth 32
  | .l6 => BitVec.ofNat 32 ((ofBytes (bs.take 2)).toNat / 2 ^ (6 * l % 8) % 64)

/-- Bytes that hold one element (R153). -/
def elemBytes : VElem → Nat → Nat
  | .w32, _ => 4
  | .h16, _ => 2
  | .s8, _ => 1
  | .u8, _ => 1
  | .l6, l => if 6 * l % 8 + 6 ≤ 8 then 1 else 2

/-- Lanes placed at their numbers, 0 elsewhere. -/
def placeLanes (vals : List (Nat × Lane)) : List Lane :=
  (List.range 512).map (fun l => ((vals.find? (fun p => p.1 = l)).map (·.2)).getD 0)

/-- The mask of the lanes listed. -/
def lanesMask (ls : List Nat) : Mask := ls.foldl (fun m l => m ||| (1#512 <<< l)) 0

/-- A vector load's data arrives (R133): its elements are read now, from the scratchpad or the die's L2 (R154), past the control
data cache (R79), and its write becomes present with the visibility tick of an interlocked write (R126). All lanes are read in
this one step (DESIGN CHOICE, log 5). -/
def State.completeVLoad (s : State) (t : PTile) (l : VLoad) : State :=
  let vals := l.lanes.map (fun p => (p.1, elemLane l.elem p.1 (s.readLoc t p.2 (elemBytes l.elem p.1))))
  let s := l.lanes.foldl (fun s p => (s.sees t p.2 (elemBytes l.elem p.1)).dropCached t p.2) s
  s.modTc t (fun c => { c with
    vloads := c.vloads.filter (fun y => y.seq ≠ l.seq)
    pending := c.pending ++ [⟨l.reg, lanesMask (l.lanes.map (·.1)), placeLanes vals, l.iss, l.iss + 1⟩] })

/-- A vector store is performed (R154): each byte's written bits change, and the line leaves the tile's own control data
cache; the fall of the store count restarts the progress count (R226, R396). All its lines are written in this one step (DESIGN
CHOICE, log 5). -/
def State.performVStore (s : State) (t : PTile) (v : VStore) : State :=
  let s := s.modTc t (fun c => { c with vstores := c.vstores.filter (fun y => y.seq ≠ v.seq) })
  (v.bytes.foldl (fun s b =>
    let old := (s.readLoc t b.1 1).headD 0
    (s.writeLoc t b.1 [(old &&& ~~~b.2.1) ||| (b.2.2 &&& b.2.1)]).dropCached t b.1) s).progress t

/-- Whether a vector load may complete (R80): no earlier access of its class, or of class 15, is outstanding. -/
def vloadReady (c : TCtx) (l : VLoad) : Bool :=
  c.vloads.all (fun g => l.seq ≤ g.seq || !clsOrdered l.cls g.cls) &&
  c.vstores.all (fun g => l.seq ≤ g.seq || !clsOrdered l.cls g.cls)

/-- Whether a vector store may be performed (R80). -/
def vstoreReady (c : TCtx) (v : VStore) : Bool :=
  c.vloads.all (fun g => v.seq ≤ g.seq || !clsOrdered v.cls g.cls) &&
  c.vstores.all (fun g => v.seq ≤ g.seq || !clsOrdered v.cls g.cls)

/-- The vector stream's outstanding accesses are performed in program order, `n` at most. -/
def State.settleV (s : State) (t : PTile) : Nat → State
  | 0 => s
  | n + 1 =>
    match (s.tc t).vloads, (s.tc t).vstores with
    | [], [] => s
    | l :: _, [] => (s.completeVLoad t l).settleV t n
    | [], v :: _ => (s.performVStore t v).settleV t n
    | l :: _, v :: _ => if l.seq < v.seq then (s.completeVLoad t l).settleV t n else (s.performVStore t v).settleV t n

/-- Every issued vector load completes (R129, R346), after the stores before it. -/
def State.completeVLoads (s : State) (t : PTile) : State :=
  if (s.tc t).vloads.isEmpty then s
  else s.settleV t ((s.tc t).vloads.length + (s.tc t).vstores.length)

/-! ### Rings and reports -/

/-- Trap ring 2d + l (R371). -/
def State.trapRing (s : State) (d m : Bool) : Ring := (aget s.trapRings (2 * d.toNat + m.toNat)).getD .reset

/-- A ring is full (R371). -/
def Ring.full (r : Ring) : Bool := (r.prod - r.cons).toNat ≥ 2 ^ r.log2.toNat

/-- Where the next record of a ring goes (R371, R373); bases are physical, bits [51:6]. -/
def Ring.slotAddr (r : Ring) : Nat :=
  (r.base.toNat % 2 ^ 52) / 64 * 64 + 64 * (r.prod.toNat % 2 ^ r.log2.toNat)

/-- A record enters a trap ring (R373); where the ring's base reaches nothing in the physical map, the record is stored at that address
all the same (R395; DESIGN CHOICE, log 64). -/
def State.ringTrap (s : State) (d m : Bool) (r : Rec) : State :=
  let g := s.trapRing d m
  let s := s.homeWrite g.slotAddr (recBytes r)
  { s with trapRings := aset s.trapRings (2 * d.toNat + m.toNat) { g with prod := g.prod + 1 } }

/-- The trap records that a tile holds, the oldest first. -/
def Tile.records (x : Tile) : List (Bool × Rec) := x.older ++ x.held.toList
/-- A tile with the records that it holds. -/
def Tile.hold (x : Tile) (l : List (Bool × Rec)) : Tile := { x with older := l.dropLast, held := l.getLast? }

/-- The oldest record that a tile holds for a level goes to its ring, where there is room (R373). -/
def State.deliver (s : State) (t : PTile) (m : Bool) : State :=
  match (s.tile t).records.find? (fun q => q.1 = m) with
  | none => s
  | some q =>
    if (s.trapRing (dieOf t) m).full then s
    else (s.modTile t (fun x => x.hold (x.records.erase q))).ringTrap (dieOf t) m q.2

/-- A trap record goes to its ring, or is held by its tile while the ring is full (R348, R373). -/
def State.postTrap (s : State) (t : PTile) (m : Bool) (r : Rec) : State :=
  (s.modTile t (fun x => x.hold (x.records ++ [(m, r)]))).deliver t m

/-- A record goes to the context fault queue; a full queue counts it in LOST (R373, R374). FQBASE is taken as physical
(DESIGN CHOICE, log 18). -/
def State.faultQueue (s : State) (c : Ctx) (r : Rec) : State :=
  let x := s.ctx c
  if (x.fqtail - x.fqhead).toNat ≥ 2 ^ x.fqlog2.toNat then
    s.modCtx c (fun x => { x with fqlost := if x.fqlost = 255 then 255 else x.fqlost + 1 })
  else
    let a := (x.fqbase.toNat % 2 ^ 52) / 64 * 64 + 64 * (x.fqtail.toNat % 2 ^ x.fqlog2.toNat)
    (s.homeWrite a (recBytes r)).modCtx c (fun x => { x with fqtail := x.fqtail + 1 })

/-- The contents of a fault report that its event decides (R257). -/
structure Report where
  kind : BitVec 3
  eng : BitVec 2
  cause : Byte
  d1 : Dbl
  d2 : Dbl
  d3 : Dbl
  d4 : Dbl
  d5 : Dbl
  d6 : Dbl
  d7 : Dbl
  deriving DecidableEq, Repr

/-- A fault report (R257, R258): kinds 0 and 3 go to the task's fault mailbox where FMB names a bound one, every other
report to the context's fault queue. -/
def State.report (s : State) (c : Ctx) (fmb : Nat) (r : Report) : State :=
  let n := (s.ctx c).repSeq
  let s := s.modCtx c (fun x => { x with repSeq := x.repSeq + 1 })
  let d0 : Dbl := n ++ (0#19 ++ r.kind ++ r.eng ++ r.cause)
  let q : Rec := ⟨d0, r.d1, r.d2, r.d3, r.d4, r.d5, r.d6, r.d7⟩
  if (r.kind = 0 || r.kind = 3) && 0 < fmb && fmb ≤ 64 && (s.mbox c (fmb - 1)).bound then
    { s with arrivals := s.arrivals ++ [(c, BitVec.ofNat 6 (fmb - 1), .report q)] }
  else s.faultQueue c q

/-- The first report that a unit has to make of a poisoned line is made (R387). -/
def State.reportPoison (s : State) : State :=
  match s.toReport with
  | [] => s
  | (c, va) :: rest => { s with toReport := rest }.report c 0 ⟨0, 0, cMCHECK, 0, 0, va, 0, 0, 0, 0⟩

/-- A count that saturates. -/
def satSucc (v : BitVec 32) : BitVec 32 := if v = 0xFFFFFFFF#32 then v else v + 1

/-- A soft error is corrected on a die: ECNT[31:0] counts it (R371, R387). -/
def State.softError (s : State) (d : Bool) : State :=
  s.modDie d (fun x => { x with ecnt := x.ecnt.extractLsb' 32 32 ++ satSucc (x.ecnt.extractLsb' 0 32) })

/-- ECNT[63:32] of a die counts an uncorrectable line (R371). -/
def State.countLoss (s : State) (d : Bool) : State :=
  s.modDie d (fun x => { x with ecnt := satSucc (x.ecnt.extractLsb' 32 32) ++ x.ecnt.extractLsb' 0 32 })

/-- A line of the physical map becomes uncorrectable, in HBM or in the L2 of die `d`: it is poisoned (R371, R387). -/
def State.loseLine (s : State) (d : Bool) (pa : Nat) : State :=
  { s.countLoss d with poison := joinLine s.poison (lineOf pa) }

/-- The line of a tile's scratchpad that holds an offset becomes uncorrectable: it is poisoned (R371, R387). -/
def State.loseScr (s : State) (t : PTile) (off : Nat) : State :=
  (s.countLoss (dieOf t)).modTile t (fun x => { x with spoiled := joinLine x.spoiled (lineOf off) })

/-! ### Completions of commands (R371, R372) -/

/-- A completion record goes to its ring, or waits for room. -/
def State.putCompletion (s : State) (d0 d1 : Dbl) : State :=
  if 2 ^ s.cpllog2.toNat ≤ (s.cplprod - s.cplcons).toNat then { s with cplWait := some (d0, d1) }
  else
    let a := (s.cplbase.toNat % 2 ^ 52) / 16 * 16 + 16 * (s.cplprod.toNat % 2 ^ s.cpllog2.toNat)
    { s.homeWrite a (toBytes d0 8 ++ toBytes d1 8) with cplprod := s.cplprod + 1, cplWait := none }

/-- A command completes with a status and a result; where the completion ring's base reaches nothing in the physical map, the record is
stored at that address all the same (R395; DESIGN CHOICE, log 64). -/
def State.completion (s : State) (tag : BitVec 32) (status : Nat) (result : Dbl) : State :=
  s.putCompletion (tag ++ BitVec.ofNat 32 status) result

/-- A SETTX that awaits the exchange of a tile completes with a status. -/
def State.endSettx (s : State) (t : PTile) (status : Nat) : State :=
  match s.settWait with
  | some (p, tag) => if p = t then { s with settWait := none }.completion tag status 0 else s
  | none => s

/-! ### Trap entry and return -/

/-- TSTAT (R341). -/
def TCtx.tstat (c : TCtx) : Dbl :=
  (0#57 ++ bit c.v.walking 1 ++ bit c.m.walking 1 ++ bit c.x.walking 1 ++ 0#1 ++ bit c.resumed 1 ++ bit c.dbl 1 ++
    bit c.inh 1 : BitVec 64)

/-- The destination of a cause (R345): MCHECK goes to Abatal M; 00 goes to the in-tile handler unless TVEC is 0 or a
handler runs; `some true` is M, `some false` S, `none` the handler. -/
def trapDest (x : Context) (c : TCtx) (code : Byte) : Option Bool :=
  if code = cMCHECK then some true else
  match (x.tdeleg.toNat >>> (2 * code.toNat)) % 4 with
  | 0 => if c.tvec = 0 || c.inh then some false else none
  | 2 => some true
  | _ => some false

/-- How a trap came about (R344): at the instruction, after it, or by a running record at an address (R173, R208). -/
inductive TrapKind where
  | fault | completed | record (addr : Pc)
  deriving DecidableEq, Repr

/-- The trap record of R348. -/
def trapRecord (s : State) (t : PTile) (e : Eng) (c : Cause) (pc : Pc) : Rec :=
  let x := s.tile t
  let tc := x.tc
  let cx := liveCtx x
  let id := BitVec.ofNat 7 (s.logical cx t)
  { d0 := x.trapSeq ++ (cx ++ t ++ id ++ 0#1 ++ bit tc.dbl 1 ++ 0#1 ++ engCode e ++ c.code)
    d1 := pc.setWidth 64
    d2 := c.tval
    d3 := tc.tcpc.setWidth 64
    d4 := (tc.task.map (·.lba)).getD 0
    d5 := tc.tstat
    d6 := s.ptime
    d7 := (tc.task.map (fun k => (0#52 ++ 1#1 ++ k.slot : BitVec 64))).getD 0 }

/-- The group slots with no wait under way (R237). -/
def TCtx.unsync (c : TCtx) : AMap GSlot := c.gslots.map (fun e => (e.1, { e.2 with fail := none, synced := false }))

/-- The group slots with no release kept for a wait (R237): a trap has cancelled it, and the wait that re-executes is a new one
(R346). -/
def TCtx.unheard (c : TCtx) : AMap GSlot := c.gslots.map (fun e => (e.1, { e.2 with fail := none }))

/-- A trap stops a GSYNC that has arrived: the arrival stays with the instruction, not with its slot (R237, R346). -/
def TCtx.desync (c : TCtx) : TCtx :=
  { c with gsync := (c.gslots.find? (·.2.synced)).map (fun e => (e.1, c.c.pc)), gslots := c.unsync }

/-- The control engine goes on: where it stands at the GSYNC that has arrived and that a trap has stopped, that performs only its
wait (R346); where the handler or Abatal has moved it on (R349), the arrival is done with. -/
def TCtx.resync (c : TCtx) : TCtx :=
  { c with gsync := none
           gslots := c.gslots.map (fun e =>
             if c.gsync = some (e.1, c.c.pc) then (e.1, { e.2 with synced := true }) else e) }

/-- A trap of a tile (R346–R348). Every walk stops; issued loads and fills complete; waits are cancelled, and the slots reserved for
them are removed; due vector
writes land and the others form the pending-write list; the trap registers are written, but not for a double trap; then
the in-tile handler runs, or the tile stops for Abatal and its record goes to the ring of the destination level; that of a
double trap names the handler's instruction (TRAP and SCALL are of one parcel). The progress count restarts at a trap and at its
return, which R396 does not name (DESIGN CHOICE, log 45). -/
def State.takeTrap (s : State) (t : PTile) (e : Eng) (k : TrapKind) (c : Cause) : State :=
  let s := (s.completeFills t).completeVLoads t
  let x := s.tile t
  let tc := x.tc
  let pc := match k with | .record a => a | _ => (tc.eng e).pc
  let handler := match k with | .record _ => tc.c.pc | .completed => tc.c.pc - 2 | .fault => pc
  let dest := trapDest (s.ctx (liveCtx x)) tc c.code
  let double := tc.inh
  let s := s.modTc t (fun q =>
    let q := q.landDue q.tick
    { q with qs := q.unreserved, c := { q.c.still with pc := q.c.pc }, v := q.v.still, m := q.m.still, x := q.x.still, gslots := q.unheard })
  let s := (if double then s.modTc t (fun q => { q with dbl := true })
    else s.modTc t (fun q => { q.desync with
      tcause := c.code, tepc := pc, teng := engCode e, tval := c.tval, tcpc := q.c.pc
      recStop := match k with | .record _ => true | _ => false })).progress t
  match dest with
  | none => s.modTc t (fun q => { q with inh := true, c := { q.c with pc := q.tvec } })
  | some m =>
    let r := trapRecord s t e c (if double then handler else pc)
    let s := s.modTile t (fun x => { x with stop := .abatal double, trapSeq := x.trapSeq + 1 })
    s.postTrap t m r

/-- The return of R349, by TRET or by Abatal's resume: the trapping engine restarts at TEPC, the control engine at TCPC
where another engine trapped, every other engine where it stopped; text is fetched anew there. A trap that stopped a record replays
no instruction: the record resumes (R173, R208). A GSYNC that had arrived goes on with its wait (R346). -/
def State.trapReturn (s : State) (t : PTile) : State :=
  let clear (q : TCtx) : TCtx :=
    { q with inh := false, recStop := false
             mq := q.mq.map (fun r => { r with fault := none })
             xrecs := q.xrecs.map (fun r => { r with fault := none }) }
  (s.modTc t (fun q =>
    let q' := clear q
    let at_ (e : Eng) (q : TCtx) : TCtx := q.modEng e (fun g => { g.drop with pc := q.tepc })
    let other (e : Eng) : TCtx :=
      let r := if q.recStop then q' else at_ e q'
      { r with c := { r.c.drop with pc := r.tcpc } }
    (match q.teng.toNat with
    | 0 => at_ .c q'
    | 1 => other .v
    | 2 => other .m
    | _ => other .x).resync)).progress t

/-- What an instruction of engine e and of `n` parcels comes to (R32): it waits, it traps, or its effect stands and the
engine goes on. -/
def State.finish (s : State) (e : Eng) (n : Nat) (r : Except Halt State) : Host.Outcome State Fault Refusal :=
  match r with
  | .ok s' => .next (s'.advance s.cur e n true)
  | .error .wait => .next (s.stand s.cur e)
  | .error .hold => .next (s.pause s.cur e)
  | .error (.trap c) => .next (s.takeTrap s.cur e .fault c)

/-- The same for an access to memory: one that traps PROT after its translation leaves what the translation set (R395). -/
def State.finishAt (s : State) (e : Eng) (n : Nat) (acc : Acc) (r : Except Halt State) :
    Host.Outcome State Fault Refusal :=
  match r with
  | .error (.trap c) => .next ((s.touch s.cur acc c).takeTrap s.cur e .fault c)
  | _ => s.finish e n r

/-- The same for a jump: the effect with the address at which the engine goes on. -/
def State.finishJump (s : State) (e : Eng) (n : Nat) (r : Except Halt (State × Pc)) :
    Host.Outcome State Fault Refusal :=
  match r with
  | .ok (s', dest) => .next (s'.goTo s.cur e n dest)
  | .error .wait => .next (s.stand s.cur e)
  | .error .hold => .next (s.pause s.cur e)
  | .error (.trap c) => .next (s.takeTrap s.cur e .fault c)

/-- The same for a jump that reads memory, as `finishAt`. -/
def State.finishJumpAt (s : State) (e : Eng) (n : Nat) (acc : Acc) (r : Except Halt (State × Pc)) :
    Host.Outcome State Fault Refusal :=
  match r with
  | .error (.trap c) => .next ((s.touch s.cur acc c).takeTrap s.cur e .fault c)
  | _ => s.finishJump e n r

/-- The same where the effect is on the tile's context state alone. -/
def State.finishTc (s : State) (e : Eng) (n : Nat) (r : Except Halt TCtx) : Host.Outcome State Fault Refusal :=
  s.finish e n (r.map (fun c => s.modTc s.cur (fun _ => c)))

/-- A trap with a code and a value. -/
def trapE {α : Type} (code : Byte) (tval : Dbl) : Except Halt α := .error (.trap ⟨code, tval⟩)
/-- An instruction waits. -/
def waitE {α : Type} : Except Halt α := .error .wait
/-- An instruction waits for its own stream's earlier accesses (R80, R88). -/
def holdE {α : Type} : Except Halt α := .error .hold

/-- TVAL of an ILLEGAL trap (R50): the parcels as fetched. -/
def parcelsVal (ps : List Parcel) : Dbl :=
  (ps.getD 3 0) ++ (ps.getD 2 0) ++ (ps.getD 1 0) ++ (ps.getD 0 0)

/-- An instruction that its entry refuses on its operands (R172, R219, R347, R364): ILLEGAL with its parcels. -/
def illegalE {α : Type} (i : Instr) : Except Halt α := trapE cILLEGAL (parcelsVal (encode i))

end Sys2Proof.Machine
end

