-- ==== Sys2Proof/Machine/Crypto.lean ====
section
/-! DEFINITION. The algorithms that the spec names by their public standards (R256, R290, R377, R384, R390): AES (FIPS 197),
AES-128-CMAC (RFC 4493), AES-256-GCM (SP 800-38D), SHA-512 (FIPS 180-4) and the verification of Ed25519 (RFC 8032). The spec
names them and these texts give them (PRESUMED, log 7). -/

namespace Sys2Proof.Machine

/-! ### AES -/

/-- Twice an element of the field of 256. -/
def xtime (a : Byte) : Byte := if a.getLsbD 7 then (a <<< 1) ^^^ 0x1B#8 else a <<< 1

/-- Part of the S-box: the bytes of 32 inputs, the lowest input's in the lowest bits. -/
def sboxPart (k : Nat) : Nat :=
  match k with
  | 0 => 0xc072a49cafa2d4adf04759fa7dc982ca76abd7fe2b670130c56f6bf27b777c63
  | 1 => 0x75b227ebe28012079a059618c323c7041531d871f1e5a534ccf73f362693fdb7
  | 2 => 0xcf584c4a39becb6a5bb1fc20ed00d153842fe329b3d63b52a05a6e1b1a2c8309
  | 3 => 0xd2f3ff1021dab6bcf5389d928f40a351a89f3c507f02f94585334d43fbaaefd0
  | 4 => 0xdb0b5ede14b8ee4688902a22dc4f816073195d643d7ea7c41744975fec130ccd
  | 5 => 0x08ae7a65eaf4566ca94ed58d6d37c8e779e4959162acd3c25c2406490a3a32e0
  | 6 => 0x9e1dc186b95735610ef6034866b53e708a8bbd4b1f74dde8c6b4a61c2e2578ba
  | _ => 0x16bb54b00f2d99416842e6bf0d89a18cdf2855cee9871e9b948ed9691198f8e1

/-- The S-box. -/
def subByte (a : Byte) : Byte := BitVec.ofNat 8 (sboxPart (a.toNat / 32) >>> (8 * (a.toNat % 32)))

/-- Bytes combined by exclusive or. -/
def xorBytes (a b : List Byte) : List Byte := List.zipWith (· ^^^ ·) a b

/-- ShiftRows: byte r of column c comes from column c + r. -/
def shiftRows (s : List Byte) : List Byte :=
  (List.range 16).map (fun i => s.getD (4 * ((i / 4 + i % 4) % 4) + i % 4) 0)

/-- MixColumns. -/
def mixColumns (s : List Byte) : List Byte :=
  (List.range 16).map (fun i =>
    let at_ (k : Nat) : Byte := s.getD (i / 4 * 4 + (i + k) % 4) 0
    xtime (at_ 0) ^^^ xtime (at_ 1) ^^^ at_ 1 ^^^ at_ 2 ^^^ at_ 3)

/-- The key schedule: words of four bytes, `n` further ones. -/
def keyWords (nk : Nat) : Nat → List (List Byte) → List (List Byte)
  | 0, w => w
  | n + 1, w =>
    let i := w.length
    let last := w.getD (i - 1) []
    let t :=
      if i % nk = 0 then
        xorBytes ((last.drop 1 ++ last.take 1).map subByte) [(List.range (i / nk - 1)).foldl (fun r _ => xtime r) 1, 0, 0, 0]
      else if 6 < nk && i % nk = 4 then last.map subByte
      else last
    keyWords nk n (w ++ [xorBytes (w.getD (i - nk) []) t])

/-- The round keys of a key of 16 or 32 bytes, 16 bytes each. -/
def roundKeys (key : List Byte) : List Byte :=
  let nk := key.length / 4
  (keyWords nk (4 * (nk + 7) - nk) ((List.range nk).map (fun i => (key.drop (4 * i)).take 4))).flatten

/-- One block of 16 bytes enciphered under round keys of `rounds` rounds. -/
def aesRounds (rounds : Nat) (ks block : List Byte) : List Byte :=
  let key (r : Nat) : List Byte := (ks.drop (16 * r)).take 16
  let s := (List.range (rounds - 1)).foldl (fun s r => xorBytes (mixColumns (shiftRows (s.map subByte))) (key (r + 1)))
    (xorBytes block (key 0))
  xorBytes (shiftRows (s.map subByte)) (key rounds)

/-- AES of one block under a key of 16 or 32 bytes. -/
def aes (key block : List Byte) : List Byte := aesRounds (key.length / 4 + 6) (roundKeys key) block

/-! ### CMAC -/

/-- Sixteen bytes, the first the most significant, as bits. -/
def beBits (bs : List Byte) : BitVec 128 := BitVec.ofNat 128 (bytesNat bs.reverse)
/-- The bytes of such bits. -/
def beBytes (v : BitVec 128) : List Byte := (natBytes v.toNat 16).reverse

/-- The doubling of CMAC's subkeys. -/
def cmacDouble (v : BitVec 128) : BitVec 128 := if v.getLsbD 127 then (v <<< 1) ^^^ 0x87#128 else v <<< 1

/-- The chain over `n` whole blocks of a message. -/
def cbcMac (ks : List Byte) : Nat → List Byte → List Byte → List Byte
  | 0, x, _ => x
  | n + 1, x, m => cbcMac ks n (aesRounds 10 ks (xorBytes x (m.take 16))) (m.drop 16)

/-- AES-128-CMAC of a message under a key whose byte i stands in bits [8i + 7:8i]. -/
def cmac (key : BitVec 128) (m : List Byte) : List Byte :=
  let ks := roundKeys (natBytes key.toNat 16)
  let k1 := cmacDouble (beBits (aesRounds 10 ks (List.replicate 16 0)))
  let n := (m.length - 1) / 16
  let tail := m.drop (16 * n)
  let last :=
    if tail.length = 16 then xorBytes tail (beBytes k1)
    else xorBytes (tail ++ 0x80#8 :: List.replicate (15 - tail.length) 0) (beBytes (cmacDouble k1))
  aesRounds 10 ks (xorBytes (cbcMac ks n (List.replicate 16 0) m) last)

/-- Its first 8 bytes, as a little-endian double (R256, R290, R384). -/
def cmac8 (key : BitVec 128) (m : List Byte) : Dbl := BitVec.ofNat 64 (bytesNat ((cmac key m).take 8))

/-! ### GCM -/

/-- The product of GHASH. -/
def ghashMul (x y : BitVec 128) : BitVec 128 :=
  ((List.range 128).foldl (fun (q : BitVec 128 × BitVec 128) i =>
    (if x.getLsbD (127 - i) then q.1 ^^^ q.2 else q.1,
     if q.2.getLsbD 0 then (q.2 >>> 1) ^^^ ((0xE1#128) <<< 120) else q.2 >>> 1)) (0, y)).1

/-- GHASH of whole blocks. -/
def ghash (h : BitVec 128) : Nat → BitVec 128 → List Byte → BitVec 128
  | 0, y, _ => y
  | n + 1, y, m => ghash h n (ghashMul (y ^^^ beBits (m.take 16)) h) (m.drop 16)

/-- Bytes filled up to whole blocks. -/
def padded (m : List Byte) : List Byte := m ++ List.replicate ((16 - m.length % 16) % 16) 0

/-- The key stream over a text, block by block, from a counter block's 12-byte nonce. -/
def gctr (ks nonce : List Byte) : Nat → Nat → List Byte → List Byte
  | 0, _, _ => []
  | n + 1, i, m =>
    xorBytes (m.take 16) (aesRounds 14 ks (nonce ++ (natBytes i 4).reverse)) ++ gctr ks nonce n (i + 1) (m.drop 16)

/-- The tag of a ciphertext with its additional data. -/
def gcmTag (ks nonce aad c : List Byte) : List Byte :=
  let h := beBits (aesRounds 14 ks (List.replicate 16 0))
  let m := padded aad ++ padded c ++ (natBytes (8 * aad.length) 8).reverse ++ (natBytes (8 * c.length) 8).reverse
  xorBytes (aesRounds 14 ks (nonce ++ [0, 0, 0, 1])) (beBytes (ghash h (m.length / 16) 0 m))

/-- AES-256-GCM under a key and a 12-byte nonce (R390): ciphertext and tag, whose byte i stands in bits [8i + 7:8i]. -/
def gcmSeal (key : BitVec 256) (nonce aad plain : List Byte) : List Byte × BitVec 128 :=
  let ks := roundKeys (natBytes key.toNat 32)
  let c := gctr ks nonce ((plain.length + 15) / 16) 2 plain
  (c, BitVec.ofNat 128 (bytesNat (gcmTag ks nonce aad c)))

/-- The plaintext, where the tag verifies (R390). -/
def gcmOpen (key : BitVec 256) (nonce aad c : List Byte) (tag : BitVec 128) : Option (List Byte) :=
  let ks := roundKeys (natBytes key.toNat 32)
  if BitVec.ofNat 128 (bytesNat (gcmTag ks nonce aad c)) = tag then some (gctr ks nonce ((c.length + 15) / 16) 2 c) else none

/-! ### SHA-512 -/

/-- The first 80 primes. -/
def shaPrimes : List Nat :=
  [2, 3, 5, 7, 11, 13, 17, 19, 23, 29, 31, 37, 41, 43, 47, 53, 59, 61, 67, 71, 73, 79, 83, 89, 97, 101, 103, 107, 109, 113] ++
  [127, 131, 137, 139, 149, 151, 157, 163, 167, 173, 179, 181, 191, 193, 197, 199, 211, 223, 227, 229, 233, 239, 241, 251, 257] ++
  [263, 269, 271, 277, 281, 283, 293, 307, 311, 313, 317, 331, 337, 347, 349, 353, 359, 367, 373, 379, 383, 389, 397, 401, 409]

/-- The first 64 bits of the fraction of the k-th root of a prime, for k of 2 or 3, bit by bit. -/
def rootBits (k p : Nat) : BitVec 64 :=
  BitVec.ofNat 64 ((List.range 70).foldl (fun r i => if (r + 2 ^ (69 - i)) ^ k ≤ p * 2 ^ (64 * k) then r + 2 ^ (69 - i) else r) 0)

/-- The message schedule: `n` further words, the latest first. -/
def shaWords : Nat → List Dbl → List Dbl
  | 0, w => w
  | n + 1, w =>
    let at_ (i : Nat) : Dbl := w.getD (i - 1) 0
    let s0 := (at_ 15).rotateRight 1 ^^^ (at_ 15).rotateRight 8 ^^^ (at_ 15 >>> 7)
    let s1 := (at_ 2).rotateRight 19 ^^^ (at_ 2).rotateRight 61 ^^^ (at_ 2 >>> 6)
    shaWords n ((s1 + at_ 7 + s0 + at_ 16) :: w)

/-- The eight working words after a round. -/
def shaRound (v : List Dbl) (kw : Dbl) : List Dbl :=
  let a := v.getD 0 0
  let e := v.getD 4 0
  let t1 := v.getD 7 0 + (e.rotateRight 14 ^^^ e.rotateRight 18 ^^^ e.rotateRight 41) +
    ((e &&& v.getD 5 0) ^^^ (~~~e &&& v.getD 6 0)) + kw
  let t2 := (a.rotateRight 28 ^^^ a.rotateRight 34 ^^^ a.rotateRight 39) +
    ((a &&& v.getD 1 0) ^^^ (a &&& v.getD 2 0) ^^^ (v.getD 1 0 &&& v.getD 2 0))
  [t1 + t2, a, v.getD 1 0, v.getD 2 0, v.getD 3 0 + t1, e, v.getD 5 0, v.getD 6 0]

/-- The hash over blocks of 128 bytes. -/
def shaBlocks (ks : List Dbl) : Nat → List Dbl → List Byte → List Dbl
  | 0, h, _ => h
  | n + 1, h, m =>
    let w0 := (List.range 16).map (fun i => BitVec.ofNat 64 (bytesNat ((m.drop (8 * i)).take 8).reverse))
    let ws := (shaWords 64 w0.reverse).reverse
    shaBlocks ks n (List.zipWith (· + ·) h ((List.zipWith (· + ·) ks ws).foldl shaRound h)) (m.drop 128)

/-- SHA-512 of bytes. -/
def sha512 (m : List Byte) : List Byte :=
  let pad := m ++ 0x80#8 :: List.replicate ((239 - m.length % 128) % 128) 0 ++ (natBytes (8 * m.length) 16).reverse
  let h := shaBlocks (shaPrimes.map (rootBits 3)) (pad.length / 128) ((shaPrimes.take 8).map (rootBits 2)) pad
  h.flatMap (fun x => (natBytes x.toNat 8).reverse)

/-! ### Ed25519 -/

/-- The field's prime. -/
def edP : Nat := 2 ^ 255 - 19
/-- The order of the base point. -/
def edL : Nat := 2 ^ 252 + 27742317777372353535851937790883648493

/-- A power modulo the prime, over `n` bits of the exponent. -/
def edPow (b e : Nat) : Nat → Nat
  | 0 => 1
  | n + 1 => let r := edPow b (e / 2) n; if e % 2 = 1 then r * r % edP * b % edP else r * r % edP

/-- The inverse modulo the prime. -/
def edInv (a : Nat) : Nat := edPow a (edP - 2) 255

/-- The constant d of the curve. -/
def edD : Nat := (edP - 121665) * edInv 121666 % edP

/-- A point in extended coordinates. -/
structure EdPoint where
  x : Nat
  y : Nat
  z : Nat
  t : Nat
  deriving DecidableEq, Repr

/-- The sum of two points. -/
def edAdd (p q : EdPoint) : EdPoint :=
  let a := (p.y + edP - p.x) * (q.y + edP - q.x) % edP
  let b := (p.y + p.x) * (q.y + q.x) % edP
  let c := p.t * 2 % edP * edD % edP * q.t % edP
  let d := p.z * 2 * q.z % edP
  let e := b + edP - a
  let f := d + edP - c
  let g := d + c
  let h := b + a
  ⟨e * f % edP, g * h % edP, f * g % edP, e * h % edP⟩

/-- A multiple of a point, over `n` bits of the factor. -/
def edMul (k : Nat) (p : EdPoint) : Nat → EdPoint
  | 0 => ⟨0, 1, 1, 0⟩
  | n + 1 => let r := edMul (k / 2) p n; let r := edAdd r r; if k % 2 = 1 then edAdd r p else r

/-- Whether two points are equal. -/
def edSame (p q : EdPoint) : Bool := p.x * q.z % edP = q.x * p.z % edP && p.y * q.z % edP = q.y * p.z % edP

/-- The point with a y coordinate and the low bit of x, where there is one. -/
def edRecover (y : Nat) (odd : Bool) : Option EdPoint :=
  if edP ≤ y then none else
  let x2 := (y * y + edP - 1) * edInv (edD * y % edP * y + 1) % edP
  let r := edPow x2 ((edP + 3) / 8) 255
  let r := if r * r % edP = x2 then r else r * edPow 2 ((edP - 1) / 4) 255 % edP
  if r * r % edP ≠ x2 || (x2 = 0 && odd) then none else
  let x := if decide (r % 2 = 1) = odd then r else edP - r
  some ⟨x, y, 1, x * y % edP⟩

/-- A point from its 32 bytes. -/
def edDecode (bs : List Byte) : Option EdPoint :=
  let v := bytesNat bs
  edRecover (v % 2 ^ 255) (decide (2 ^ 255 ≤ v))

/-- Whether a signature of 64 bytes verifies for a message under a public key of 32 bytes (R377), by the equation that the
standard states. -/
def edVerify (key m sig : List Byte) : Bool :=
  let s := bytesNat (sig.drop 32)
  match edDecode key, edDecode (sig.take 32), edRecover (4 * edInv 5 % edP) false with
  | some a, some r, some b =>
    let k := bytesNat (sha512 (sig.take 32 ++ key ++ m)) % edL
    s < edL && edSame (edMul 8 (edMul s b 256) 4) (edMul 8 (edAdd r (edMul k a 256)) 4)
  | _, _, _ => false

end Sys2Proof.Machine
end

