-- ==== Sys2Proof/Machine/Operands.lean ====
section
/-! DEFINITION. Every operand form: control queue reads and pushes (R23, R96–R101), vector source codes and masks
(R44, R131, R132), the parameter stacks (R176), parameter words (R241). -/

namespace Sys2Proof.Machine

/-! ### Control queues -/

/-- The slots of a queue register. -/
def TCtx.q (c : TCtx) (n : BitVec 4) : List Slot := (aget c.qs n.toNat).getD []
/-- A queue register with other slots. -/
def TCtx.setQ (c : TCtx) (n : BitVec 4) (ss : List Slot) : TCtx := { c with qs := aset c.qs n.toNat ss }

/-- A source: a queue, and whether it is peeked (R22). -/
abbrev Src := BitVec 4 × Bool

/-- How many entries the reads `rs` take from a queue (R23). -/
def taken (rs : List Src) (n : BitVec 4) : Nat := (rs.filter (fun r => r.1 = n && !r.2)).length

/-- The place in its queue of each read, in field order (R23): after the entries that earlier reads have taken. -/
def readPlaces : List Src → List Src → List (BitVec 4 × Nat)
  | _, [] => []
  | before, r :: rest => (r.1, taken before r.1) :: readPlaces (before ++ [r]) rest

/-- The reads of an instruction (R98): QUNDER, with the queue's number, where a queue has too few slots, reserved slots
counting as present; a wait where a slot is not yet filled; otherwise the values in field order. -/
def TCtx.readQ (c : TCtx) (rs : List Src) : Except Halt (List Dbl) :=
  let ps := readPlaces [] rs
  match ps.find? (fun p => (c.q p.1).length ≤ p.2) with
  | some p => trapE cQUNDER (p.1.setWidth 64)
  | none =>
    let slots := ps.map (fun p => (c.q p.1).getD p.2 (.filled 0))
    if slots.all (fun sl => match sl with | .filled _ => true | .reserved _ => false) then
      .ok (slots.map (fun sl => match sl with | .filled v => v | .reserved _ => 0))
    else waitE

/-- QOVER (R99): a queue that the instruction writes would hold more than 4 slots. -/
def TCtx.roomQ (c : TCtx) (rs : List Src) (ws : List (BitVec 4)) : Except Halt Unit :=
  match ws.find? (fun w => 4 < (c.q w).length - taken rs w + (ws.filter (· = w)).length) with
  | some w => trapE cQOVER (w.setWidth 64)
  | none => .ok ()

/-- The pops of an instruction, at retirement (R23). -/
def TCtx.popQ (c : TCtx) (rs : List Src) : TCtx :=
  rs.foldl (fun c r => if r.2 then c else c.setQ r.1 ((c.q r.1).drop 1)) c

/-- A push at the tail (R96). -/
def TCtx.pushQ (c : TCtx) (n : BitVec 4) (v : Dbl) : TCtx := c.setQ n (c.q n ++ [.filled v])

/-- A reserved slot at the tail, with the fill that is to come (R97). -/
def TCtx.reserve (c : TCtx) (n : BitVec 4) (cls scope : Nat) (op : FillOp) : TCtx :=
  let c := c.setQ n (c.q n ++ [.reserved c.seq])
  { c with fills := c.fills ++ [⟨c.seq, c.seq, cls, scope, op⟩], seq := c.seq + 1 }

/-- An instruction that reads queues and pushes one result (R112–R114): its values, the room for it, then the pops and the
push together. -/
def TCtx.compute (c : TCtx) (rs : List Src) (d : BitVec 4) (f : List Dbl → Dbl) : Except Halt TCtx := do
  let vs ← c.readQ rs
  c.roomQ rs [d]
  .ok ((c.popQ rs).pushQ d (f vs))

/-- Room in CQC or CQV for one entry: a producer that finds the queue full waits (R101). -/
def roomC (q : List CEntry) : Except Halt Unit := if q.length < 8 then .ok () else waitE

/-- One entry pushed into CQC (R101). -/
def TCtx.pushC (c : TCtx) (value err : Bool) : TCtx := { c with cqc := c.cqc ++ [⟨value, err⟩] }
/-- One entry pushed into CQV (R101). -/
def TCtx.pushV (c : TCtx) (value : Bool) : TCtx := { c with cqv := c.cqv ++ [⟨value, false⟩] }

/-! ### The parameter block -/

/-- A parameter word (R152, R175, R209, R241): a load of class 15 at ENG scope of the double at D2 + 8w, which the control
data cache may serve (R171). Class 15 follows every earlier synchronous access of its stream; the records of the matrix
and copy engines run on (R160; DEDUCED, log 21). -/
def State.paramWord (s : State) (t : PTile) (w : BitVec 6) : Except Halt (State × Dbl) := do
  let c := s.tc t
  let lb := (c.task.map (·.lb)).getD ⟨0, 0, 0, 0, 0, 0, 0, 0⟩
  let a := (lb.d2 &&& 0x00FFFFFFFFFFFFC0#64) + 8 * w.setWidth 64
  if 2 ^ 56 ≤ a.toNat then trapE cPROT a else
  let (s, at_) ← s.locate t a 8 accR
  let (s, bs) := s.loadBytes t 0 15 0 at_ 8
  .ok (s, ofBytes bs)

/-! ### Vector operands -/

/-- The lanes that a source code names, as an instruction issued at the present tick reads them (R44, R126, R131). A feeder
code whose queue has no entry at `skip` is not there yet. -/
def TCtx.vsrc (c : TCtx) (code : BitVec 6) (skip : Nat) : Option (List Lane) :=
  let n := code.toNat
  if n < 48 then some (c.vread n c.tick)
  else if n < 56 then ((aget c.feed (n % 4)).getD [])[skip]?
  else if n = 57 then some ((List.range 512).map (BitVec.ofNat 32))
  else some []

/-- How many entries of a feeder queue the codes before a read have popped (R23, R131). -/
def popsOf (before : List (BitVec 6)) (code : BitVec 6) : Nat :=
  (before.filter (fun b => 48 ≤ b.toNat && b.toNat < 52 && b.toNat % 4 = code.toNat % 4)).length

/-- The sources of an instruction in field order; it waits for an entry that has not arrived (R131), and for a register that
a load in flight writes (R128). -/
def TCtx.vsrcs (c : TCtx) (codes : List (BitVec 6)) : Except Halt (List (List Lane)) :=
  if codes.any (fun k => k.toNat < 48 && c.vloads.any (fun l => l.reg = k.toNat)) then waitE else
  let rec go (before : List (BitVec 6)) : List (BitVec 6) → Except Halt (List (List Lane))
    | [] => .ok []
    | k :: r =>
      match c.vsrc k (if 48 ≤ k.toNat && k.toNat < 56 then popsOf before k else 0) with
      | none => waitE
      | some v => (go (before ++ [k]) r).map (v :: ·)
  go [] codes

/-- The feeder entries that an instruction pops, taken at issue (R131). -/
def TCtx.vpops (c : TCtx) (codes : List (BitVec 6)) : TCtx :=
  codes.foldl (fun c k => if 48 ≤ k.toNat && k.toNat < 52 then
    { c with feed := aset c.feed (k.toNat % 4) (((aget c.feed (k.toNat % 4)).getD []).drop 1) } else c) c

/-- A mask register: M0 reads as all ones (R123). -/
def TCtx.maskReg (c : TCtx) (n : BitVec 3) : Mask :=
  if n = 0 then BitVec.allOnes 512 else (aget c.masks n.toNat).getD 0
/-- A write of a mask register: writes to M0 are discarded (R123). -/
def TCtx.setMask (c : TCtx) (n : BitVec 3) (m : Mask) : TCtx :=
  if n = 0 then c else { c with masks := aset c.masks n.toNat m }
/-- The active lanes (R132). -/
def TCtx.active (c : TCtx) (m : Msk) : Mask :=
  let x := c.maskReg m.msk
  if m.mneg then ~~~x else x

/-- The lowest lane of `want` that a pending write of register n would give a reader at the present tick (R130). -/
def TCtx.pendingLane (c : TCtx) (n : Nat) (want : Mask) : Option Nat :=
  let m := (c.pending.filter (fun w => w.reg = n && c.tick < w.vis)).foldl (fun m w => m ||| w.mask) 0 &&& want
  if m = 0 then none else (List.range 512).find? (fun l => m.getLsbD l)

/-- The lanes of register code `k` that an instruction reads, in whichever of its fields. -/
def readOf (reads : List (BitVec 6 × Mask)) (k : BitVec 6) : Mask :=
  reads.foldl (fun m r => if r.1 = k then m ||| r.2 else m) 0

/-- The exposure check of R130: each source code with the lanes the instruction reads of it. TVAL names the first register in field
order that has a pending lane (DESIGN CHOICE, log 48), and the lowest of its lanes that is read while pending, in whichever field. -/
def TCtx.exposeCheck (c : TCtx) (reads : List (BitVec 6 × Mask)) : Except Halt Unit :=
  if !c.dbgpend then .ok () else
  match reads.findSome? (fun r =>
      if r.1.toNat < 48 && (c.pendingLane r.1.toNat r.2).isSome then
        (c.pendingLane r.1.toNat (readOf reads r.1)).map (fun l => (r.1, l))
      else none) with
  | none => .ok ()
  | some (k, l) => trapE cEXPOSE (BitVec.ofNat 64 (k.toNat + l * 256))

/-! ### Parameter stacks -/

/-- STKUNDER and STKOVER of a parameter stack of eight (R176). The top of the stack is the head of the list. -/
def stackCheck (st : List Dbl) (needs pops pushes : Nat) : Except Halt Unit :=
  if st.length < needs then trapE cSTKUNDER 0xFFFFFFFFFFFFFFFF#64
  else if 8 < st.length - pops + pushes then trapE cSTKOVER 0xFFFFFFFFFFFFFFFF#64
  else .ok ()

end Sys2Proof.Machine
end

