-- ==== Sys2Proof/Machine/Control.lean ====
section
/-! DEFINITION. The control instructions of 06_control_class.md: arithmetic, literals, queue management, compares,
branches, loops and the spill stack (R111–R121). Each acts on the tile State.cur. -/

namespace Sys2Proof.Machine

/-! ### Arithmetic of the control engine (R59) -/

/-- Bits [127:64] of the signed or unsigned 128-bit product. -/
def mulHigh (signed : Bool) (a b : Dbl) : Dbl :=
  if signed then BitVec.ofInt 64 ((a.toInt * b.toInt) / 2 ^ 64) else BitVec.ofNat 64 (a.toNat * b.toNat / 2 ^ 64)
/-- The signed quotient, truncated toward zero; by zero all ones; −2^63 by −1 is −2^63. -/
def divS (a b : Dbl) : Dbl := if b = 0 then BitVec.allOnes 64 else BitVec.ofInt 64 (a.toInt.tdiv b.toInt)
/-- The unsigned quotient; by zero all ones. -/
def divU (a b : Dbl) : Dbl := if b = 0 then BitVec.allOnes 64 else BitVec.ofNat 64 (a.toNat / b.toNat)
/-- The signed remainder, with the dividend's sign; by zero the dividend; −2^63 by −1 is 0. -/
def remS (a b : Dbl) : Dbl := if b = 0 then a else BitVec.ofInt 64 (a.toInt.tmod b.toInt)
/-- The unsigned remainder; by zero the dividend. -/
def remU (a b : Dbl) : Dbl := if b = 0 then a else BitVec.ofNat 64 (a.toNat % b.toNat)
/-- The number of leading zero bits; 64 for 0. -/
def clzNat (a : Dbl) : Nat := ((List.range 64).find? (fun i => a.getLsbD (63 - i))).getD 64
/-- The number of one bits. -/
def popCount (a : Dbl) : Nat := ((List.range 64).filter (fun i => a.getLsbD i)).length
/-- IMM12, sign-extended. -/
def sext12 (i : BitVec 12) : Dbl := i.signExtend 64

/-- The ALU family (R112): two reads, one push, two parcels. -/
def State.alu (s : State) (d a b : BitVec 4) (ka kb : Bool) (f : Dbl → Dbl → Dbl) :
    Host.Outcome State Fault Refusal :=
  s.finishTc .c 2 ((s.tc s.cur).compute [(a, ka), (b, kb)] d (fun vs => f (vs.getD 0 0) (vs.getD 1 0)))

/-- One read, one push, `n` parcels. -/
def State.unaryN (s : State) (n : Nat) (d a : BitVec 4) (ka : Bool) (f : Dbl → Dbl) :
    Host.Outcome State Fault Refusal :=
  s.finishTc .c n ((s.tc s.cur).compute [(a, ka)] d (fun vs => f (vs.getD 0 0)))

/-- The unary family (R114). -/
def State.unary (s : State) (d a : BitVec 4) (ka : Bool) (f : Dbl → Dbl) : Host.Outcome State Fault Refusal :=
  s.unaryN 2 d a ka f

/-- NOP (R111). -/
def execNop (s : State) : Host.Outcome State Fault Refusal := s.finish .c 1 (.ok s)

/-- ADD (R112). -/
def execAdd (d a b : BitVec 4) (ka kb : Bool) (s : State) : Host.Outcome State Fault Refusal :=
  s.alu d a b ka kb (fun a b => a + b)

/-- SUB (R112). -/
def execSub (d a b : BitVec 4) (ka kb : Bool) (s : State) : Host.Outcome State Fault Refusal :=
  s.alu d a b ka kb (fun a b => a - b)

/-- MUL (R112). -/
def execMul (d a b : BitVec 4) (ka kb : Bool) (s : State) : Host.Outcome State Fault Refusal :=
  s.alu d a b ka kb (fun a b => a * b)

/-- MULH (R112). -/
def execMulh (d a b : BitVec 4) (ka kb : Bool) (s : State) : Host.Outcome State Fault Refusal :=
  s.alu d a b ka kb (fun a b => mulHigh true a b)

/-- MULHU (R112). -/
def execMulhu (d a b : BitVec 4) (ka kb : Bool) (s : State) : Host.Outcome State Fault Refusal :=
  s.alu d a b ka kb (fun a b => mulHigh false a b)

/-- DIVS (R112). -/
def execDivs (d a b : BitVec 4) (ka kb : Bool) (s : State) : Host.Outcome State Fault Refusal :=
  s.alu d a b ka kb (fun a b => divS a b)

/-- DIVU (R112). -/
def execDivu (d a b : BitVec 4) (ka kb : Bool) (s : State) : Host.Outcome State Fault Refusal :=
  s.alu d a b ka kb (fun a b => divU a b)

/-- REMS (R112). -/
def execRems (d a b : BitVec 4) (ka kb : Bool) (s : State) : Host.Outcome State Fault Refusal :=
  s.alu d a b ka kb (fun a b => remS a b)

/-- REMU (R112). -/
def execRemu (d a b : BitVec 4) (ka kb : Bool) (s : State) : Host.Outcome State Fault Refusal :=
  s.alu d a b ka kb (fun a b => remU a b)

/-- AND (R112). -/
def execAnd (d a b : BitVec 4) (ka kb : Bool) (s : State) : Host.Outcome State Fault Refusal :=
  s.alu d a b ka kb (fun a b => a &&& b)

/-- OR (R112). -/
def execOr (d a b : BitVec 4) (ka kb : Bool) (s : State) : Host.Outcome State Fault Refusal :=
  s.alu d a b ka kb (fun a b => a ||| b)

/-- XOR (R112). -/
def execXor (d a b : BitVec 4) (ka kb : Bool) (s : State) : Host.Outcome State Fault Refusal :=
  s.alu d a b ka kb (fun a b => a ^^^ b)

/-- SHL (R112). -/
def execShl (d a b : BitVec 4) (ka kb : Bool) (s : State) : Host.Outcome State Fault Refusal :=
  s.alu d a b ka kb (fun a b => a <<< (b.toNat % 64))

/-- SHR (R112). -/
def execShr (d a b : BitVec 4) (ka kb : Bool) (s : State) : Host.Outcome State Fault Refusal :=
  s.alu d a b ka kb (fun a b => a >>> (b.toNat % 64))

/-- SHA (R112). -/
def execSha (d a b : BitVec 4) (ka kb : Bool) (s : State) : Host.Outcome State Fault Refusal :=
  s.alu d a b ka kb (fun a b => a.sshiftRight (b.toNat % 64))

/-- MIN (R112). -/
def execMin (d a b : BitVec 4) (ka kb : Bool) (s : State) : Host.Outcome State Fault Refusal :=
  s.alu d a b ka kb (fun a b => if b.slt a then b else a)

/-- MAX (R112). -/
def execMax (d a b : BitVec 4) (ka kb : Bool) (s : State) : Host.Outcome State Fault Refusal :=
  s.alu d a b ka kb (fun a b => if a.slt b then b else a)

/-- MINU (R112). -/
def execMinu (d a b : BitVec 4) (ka kb : Bool) (s : State) : Host.Outcome State Fault Refusal :=
  s.alu d a b ka kb (fun a b => if b.ult a then b else a)

/-- MAXU (R112). -/
def execMaxu (d a b : BitVec 4) (ka kb : Bool) (s : State) : Host.Outcome State Fault Refusal :=
  s.alu d a b ka kb (fun a b => if a.ult b then b else a)

/-- MOV (R114). -/
def execMov (d a : BitVec 4) (ka : Bool) (s : State) : Host.Outcome State Fault Refusal :=
  s.unary d a ka (fun a => a)

/-- NEG (R114). -/
def execNeg (d a : BitVec 4) (ka : Bool) (s : State) : Host.Outcome State Fault Refusal :=
  s.unary d a ka (fun a => 0 - a)

/-- NOT (R114). -/
def execNot (d a : BitVec 4) (ka : Bool) (s : State) : Host.Outcome State Fault Refusal :=
  s.unary d a ka (fun a => ~~~a)

/-- CLZ (R114). -/
def execClz (d a : BitVec 4) (ka : Bool) (s : State) : Host.Outcome State Fault Refusal :=
  s.unary d a ka (fun a => BitVec.ofNat 64 (clzNat a))

/-- POPC (R114). -/
def execPopc (d a : BitVec 4) (ka : Bool) (s : State) : Host.Outcome State Fault Refusal :=
  s.unary d a ka (fun a => BitVec.ofNat 64 (popCount a))

/-- SEXTB (R114). -/
def execSextb (d a : BitVec 4) (ka : Bool) (s : State) : Host.Outcome State Fault Refusal :=
  s.unary d a ka (fun a => sext a 8)

/-- SEXTH (R114). -/
def execSexth (d a : BitVec 4) (ka : Bool) (s : State) : Host.Outcome State Fault Refusal :=
  s.unary d a ka (fun a => sext a 16)

/-- SEXTW (R114). -/
def execSextw (d a : BitVec 4) (ka : Bool) (s : State) : Host.Outcome State Fault Refusal :=
  s.unary d a ka (fun a => sext a 32)

/-- ZEXTB (R114). -/
def execZextb (d a : BitVec 4) (ka : Bool) (s : State) : Host.Outcome State Fault Refusal :=
  s.unary d a ka (fun a => zext a 8)

/-- ZEXTH (R114). -/
def execZexth (d a : BitVec 4) (ka : Bool) (s : State) : Host.Outcome State Fault Refusal :=
  s.unary d a ka (fun a => zext a 16)

/-- ZEXTW (R114). -/
def execZextw (d a : BitVec 4) (ka : Bool) (s : State) : Host.Outcome State Fault Refusal :=
  s.unary d a ka (fun a => zext a 32)

/-- ADDI (R113). -/
def execAddi (d a : BitVec 4) (ka : Bool) (i : BitVec 12) (s : State) : Host.Outcome State Fault Refusal :=
  s.unaryN 2 d a ka (fun a => a + sext12 i)

/-- ANDI (R113). -/
def execAndi (d a : BitVec 4) (ka : Bool) (i : BitVec 12) (s : State) : Host.Outcome State Fault Refusal :=
  s.unaryN 2 d a ka (fun a => a &&& sext12 i)

/-- ORI (R113). -/
def execOri (d a : BitVec 4) (ka : Bool) (i : BitVec 12) (s : State) : Host.Outcome State Fault Refusal :=
  s.unaryN 2 d a ka (fun a => a ||| sext12 i)

/-- XORI (R113). -/
def execXori (d a : BitVec 4) (ka : Bool) (i : BitVec 12) (s : State) : Host.Outcome State Fault Refusal :=
  s.unaryN 2 d a ka (fun a => a ^^^ sext12 i)

/-- SHLI (R113). -/
def execShli (d a : BitVec 4) (ka : Bool) (sh : BitVec 6) (s : State) : Host.Outcome State Fault Refusal :=
  s.unaryN 2 d a ka (fun a => a <<< sh.toNat)

/-- SHRI (R113). -/
def execShri (d a : BitVec 4) (ka : Bool) (sh : BitVec 6) (s : State) : Host.Outcome State Fault Refusal :=
  s.unaryN 2 d a ka (fun a => a >>> sh.toNat)

/-- SHAI (R113). -/
def execShai (d a : BitVec 4) (ka : Bool) (sh : BitVec 6) (s : State) : Host.Outcome State Fault Refusal :=
  s.unaryN 2 d a ka (fun a => a.sshiftRight sh.toNat)

/-- LI (R115). -/
def execLi (d : BitVec 4) (imm : BitVec 32) (s : State) : Host.Outcome State Fault Refusal :=
  s.finishTc .c 3 ((s.tc s.cur).compute [] d (fun _ => imm.signExtend 64))

/-- LIH (R115): pops Q[D] and pushes the literal over its low half. -/
def execLih (d : BitVec 4) (imm : BitVec 32) (s : State) : Host.Outcome State Fault Refusal :=
  s.unaryN 3 d d false (fun v => imm ++ v.setWidth 32)

/-! ### Queue management (R116) -/

/-- DROP: pops one slot. -/
def execDrop (q : BitVec 4) (s : State) : Host.Outcome State Fault Refusal :=
  s.finishTc .c 1 (do let c := s.tc s.cur; let _ ← c.readQ [(q, false)]; .ok (c.popQ [(q, false)]))

/-- Whether a slot is filled. -/
def Slot.isFilled : Slot → Bool | .filled _ => true | .reserved _ => false

/-- QCLR: waits until every reserved slot that was present at its issue has filled, then removes those that were present. One that
another engine has reserved since stays. -/
def execQclr (q : BitVec 4) (s : State) : Host.Outcome State Fault Refusal :=
  let c := s.tc s.cur
  let n := c.c.clearing.getD (c.q q).length
  if ((c.q q).take n).all Slot.isFilled then s.finishTc .c 1 (.ok (c.setQ q ((c.q q).drop n)))
  else .next ((s.stand s.cur .c).modTc s.cur (fun c => c.modEng .c (fun g => { g with clearing := some n })))

/-- QLEN: occupancy in [2:0], filled slots in [5:3], before the push. -/
def execQlen (d a : BitVec 4) (s : State) : Host.Outcome State Fault Refusal :=
  s.finishTc .c 2 ((s.tc s.cur).compute [] d (fun _ =>
    let q := (s.tc s.cur).q a
    BitVec.ofNat 64 (q.length + 8 * (q.filter Slot.isFilled).length)))

/-! ### Compares (R117) -/

/-- cond(c, a, b): eq, ne, lt, ltu, ge, geu. -/
def condOf (cc : BitVec 3) (a b : Dbl) : Bool :=
  match cc.toNat with
  | 0 => a = b
  | 1 => a ≠ b
  | 2 => a.slt b
  | 3 => a.ult b
  | 4 => !a.slt b
  | _ => !a.ult b

/-- CMP: a full CQC makes it wait (R101). -/
def execCmp (a b : BitVec 4) (ka kb : Bool) (cc : BitVec 3) (s : State) : Host.Outcome State Fault Refusal :=
  s.finishTc .c 2 (do
    let c := s.tc s.cur
    let vs ← c.readQ [(a, ka), (b, kb)]
    roomC c.cqc
    .ok ((c.popQ [(a, ka), (b, kb)]).pushC (condOf cc (vs.getD 0 0) (vs.getD 1 0)) false))

/-- CMPI: the immediate is always sign-extended. -/
def execCmpi (a : BitVec 4) (ka : Bool) (cc : BitVec 3) (imm : BitVec 12) (s : State) :
    Host.Outcome State Fault Refusal :=
  s.finishTc .c 2 (do
    let c := s.tc s.cur
    let vs ← c.readQ [(a, ka)]
    roomC c.cqc
    .ok ((c.popQ [(a, ka)]).pushC (condOf cc (vs.getD 0 0) (sext12 imm)) false))

/-! ### Branches, followers and the link stack (R102–R104, R118, R119) -/

/-- The followers named in FOLLOW that walk and do not wait at EXIT (R103): bit 2 V, bit 1 M, bit 0 X. While a handler
runs FOLLOW is ignored (R347). -/
def TCtx.followers (c : TCtx) (follow : BitVec 3) : List Eng :=
  if c.inh then [] else
  ([(.v, 2), (.m, 1), (.x, 0)] : List (Eng × Nat)).filterMap (fun p =>
    if follow.getLsbD p.2 && (c.eng p.1).walking && (c.eng p.1).meet ≠ .exit then some p.1 else none)

/-- The outcome pushed to each follower; a full outcome queue of 16 makes the branch wait (R103). -/
def TCtx.outcome (c : TCtx) (follow : BitVec 3) (dest : Pc) : Except Halt TCtx :=
  let fs := c.followers follow
  if fs.any (fun e => 16 ≤ (c.eng e).oq.length) then waitE
  else .ok (fs.foldl (fun c e => c.modEng e (fun g => { g with oq := g.oq ++ [dest] })) c)

/-- The target of a branch at `pc` (R102): pc + 2 × sext(offset). -/
def target (pc : Pc) (off : BitVec 16) : Pc := pc + (off.signExtend 48 <<< 1)

/-- Every earlier access of the control stream is performed: what an access of class 15 and a
release wait for (R80, R85, R88). -/
def State.controlQuiet (s : State) (t : PTile) : Bool :=
  (s.tile t).sbuf.isEmpty && (s.tc t).fills.all (fun f => !f.isAccess)

/-- A branch whose decision is made: its outcomes and its destination (R118). An outcome push is a release at TILE scope
(R83), so with a follower it waits until the earlier accesses of the control stream are performed. -/
def State.branch (s : State) (c : TCtx) (follow : BitVec 3) (dest : Pc) : Except Halt (State × Pc) := do
  let c' ← c.outcome follow dest
  let _ ← if !(c.followers follow).isEmpty && !s.controlQuiet s.cur then holdE else .ok ()
  let c := c'
  .ok (s.modTc s.cur (fun _ => c), dest)

/-- B. -/
def execB (follow : BitVec 3) (off : BitVec 16) (s : State) : Host.Outcome State Fault Refusal :=
  let c := s.tc s.cur
  s.finishJump .c 2 (s.branch c follow (target c.c.pc off))

/-- BT and BF: the head of CQC or CQV, popped or peeked; an empty queue makes the branch wait (R101). -/
def State.condBranch (s : State) (pk cqv : Bool) (follow : BitVec 3) (off : BitVec 16) (sense : Bool) :
    Host.Outcome State Fault Refusal :=
  let c := s.tc s.cur
  s.finishJump .c 2 (
    match if cqv then c.cqv else c.cqc with
    | [] => waitE
    | e :: rest =>
      let c' := if pk then c else if cqv then { c with cqv := rest } else { c with cqc := rest }
      s.branch c' follow (if e.value = sense then target c.c.pc off else pcAdd c.c.pc 2))

/-- BT. -/
def execBt (pk cqv : Bool) (follow : BitVec 3) (off : BitVec 16) (s : State) : Host.Outcome State Fault Refusal :=
  s.condBranch pk cqv follow off true

/-- BF. -/
def execBf (pk cqv : Bool) (follow : BitVec 3) (off : BitVec 16) (s : State) : Host.Outcome State Fault Refusal :=
  s.condBranch pk cqv follow off false

/-- CALL: pushes a + 4 onto the link stack; a full one traps STKOVER, also where a follower's outcome queue is full (R103, R104; DESIGN
CHOICE, log 55). -/
def execCall (follow : BitVec 3) (off : BitVec 16) (s : State) : Host.Outcome State Fault Refusal :=
  let c := s.tc s.cur
  s.finishJump .c 2 (
    if 8 ≤ c.c.stack.length then trapE cSTKOVER 0xFFFFFFFFFFFFFFFF#64
    else s.branch { c with c := { c.c with stack := pcAdd c.c.pc 2 :: c.c.stack } } follow (target c.c.pc off))

/-- RET: pops the link stack; an empty one traps STKUNDER, also where a follower's outcome queue is full (R103, R104; DESIGN CHOICE,
log 55). -/
def execRet (follow : BitVec 3) (s : State) : Host.Outcome State Fault Refusal :=
  let c := s.tc s.cur
  s.finishJump .c 1 (
    match c.c.stack with
    | [] => trapE cSTKUNDER 0xFFFFFFFFFFFFFFFF#64
    | a :: rest => s.branch { c with c := { c.c with stack := rest } } follow a)

/-- A loop counter (R105). -/
def TCtx.lc (c : TCtx) (n : BitVec 2) : Dbl := (aget c.lcs n.toNat).getD 0

/-- LOOP (R105, R120). -/
def execLoop (lc : BitVec 2) (follow : BitVec 3) (off : BitVec 16) (s : State) : Host.Outcome State Fault Refusal :=
  let c := s.tc s.cur
  let v := if c.lc lc = 0 then 0 else c.lc lc - 1
  s.finishJump .c 2 (s.branch { c with lcs := aset c.lcs lc.toNat v } follow
    (if v = 0 then pcAdd c.c.pc 2 else target c.c.pc off))

/-- LCSET (R120). -/
def execLcset (lc : BitVec 2) (a : BitVec 4) (ka : Bool) (s : State) : Host.Outcome State Fault Refusal :=
  s.finishTc .c 2 (do
    let c := s.tc s.cur
    let vs ← c.readQ [(a, ka)]
    .ok { c.popQ [(a, ka)] with lcs := aset c.lcs lc.toNat (vs.getD 0 0) })

/-- OUTCOME_POP (R37, R103, R104): a follower at a followed branch pops the oldest outcome and continues there; the first
parcel it has read tells a CALL and a RET, which move its mirror stack. `p0` is the parcel at its program counter. At a CALL with a
full mirror stack, or a RET with an empty one, it first waits for an outcome, and then traps (DESIGN CHOICE, log 55). -/
def State.popOutcome (s : State) (t : PTile) (e : Eng) (p0 : Parcel) : Host.Outcome State Fault Refusal :=
  let c := s.tc t
  let g := c.eng e
  let s := { s with cur := t }
  match g.oq with
  | [] => .next (s.stand t e)
  | dest :: rest =>
    let go (stack : List Pc) : Host.Outcome State Fault Refusal :=
      .next ((s.goTo t e (parcelCount p0) dest).modTc t (fun c =>
        c.modEng e (fun g => { g with oq := rest, stack := stack })))
    if (p0Op p0).toNat = 0x14 then
      if 8 ≤ g.stack.length then .next (s.takeTrap t e .fault ⟨cSTKOVER, 0xFFFFFFFFFFFFFFFF#64⟩)
      else go (pcAdd g.pc 2 :: g.stack)
    else if (p0Op p0).toNat = 0x15 then
      match g.stack with
      | [] => .next (s.takeTrap t e .fault ⟨cSTKUNDER, 0xFFFFFFFFFFFFFFFF#64⟩)
      | _ :: r => go r
    else go g.stack

/-! ### The spill stack (R106, R107, R121) -/

/-- SPBASE and SPLIM hold an offset in [20:6] (R106). -/
def spillOff (v : Dbl) : Nat := (v.extractLsb' 6 15).toNat * 64

/-- TVAL of SPILLOVER (R110). -/
def spillVal (pop : Bool) (sp : BitVec 21) : Dbl := bit pop 1 ++ 0#42 ++ sp

/-- The queues f to l. -/
def queueRun (f l : BitVec 4) : List (BitVec 4) :=
  (List.range 16).filterMap (fun i => if f.toNat ≤ i && i ≤ l.toNat then some (BitVec.ofNat 4 i) else none)

/-- The line of a spilled queue (R107). -/
def spillLine (ss : List Slot) : List Byte :=
  let vs := ss.map (fun sl => match sl with | .filled v => v | .reserved _ => 0)
  (toBytes (BitVec.ofNat 64 ss.length) 8 ++ vs.flatMap (fun v => toBytes v 8) ++ List.replicate 56 0).take 64

/-- SPUSHM: traps SPILLOVER past SPLIM; waits for reserved slots and, as class 15, for earlier accesses. -/
def execSpushm (f l : BitVec 4) (s : State) : Host.Outcome State Fault Refusal :=
  let c := s.tc s.cur
  let qs := queueRun f l
  s.finishTc .c 2 (
    if spillOff c.splim < c.sp.toNat + 64 * qs.length then trapE cSPILLOVER (spillVal false c.sp)
    else if !(qs.all (fun q => (c.q q).all Slot.isFilled)) then waitE
    else if !s.controlQuiet s.cur then holdE
    else .ok (qs.foldl (fun c q =>
      { c.setQ q [] with scratch := memWrite c.scratch c.sp.toNat (spillLine (c.q q)), sp := c.sp + 64 }) c))

/-- A queue restored from a line: min(count, 4) values (R107). -/
def restoreLine (m : Memory) (a : Nat) : List Slot :=
  let n := min ((ofBytes (memBytes m a 8)).toNat % 8) 4
  (List.range n).map (fun i => .filled (ofBytes (memBytes m (a + 8 + 8 * i) 8)))

/-- SPOPM: SPILLOVER below SPBASE, then QOVER with the lowest queue that holds a slot; an uncorrectable line among those that it
reads raises MCHECK (R387). -/
def execSpopm (f l : BitVec 4) (s : State) : Host.Outcome State Fault Refusal :=
  let c := s.tc s.cur
  let qs := queueRun f l
  let n := 64 * qs.length
  let r : Except Halt TCtx :=
    if c.sp.toNat < spillOff c.spbase + 64 * qs.length then trapE cSPILLOVER (spillVal true c.sp)
    else match qs.find? (fun q => !(c.q q).isEmpty) with
    | some q => trapE cQOVER (q.setWidth 64)
    | none =>
      if !s.controlQuiet s.cur then holdE
      else .ok (qs.reverse.foldl (fun c q =>
        let sp := c.sp - 64
        { c.setQ q (restoreLine c.scratch sp.toNat) with sp := sp }) c)
  (if r.isOk then s.sees s.cur (.scr s.cur (c.sp.toNat - n)) n else s).finishTc .c 2 r

end Sys2Proof.Machine
end

