-- ==== Sys2Proof/Machine/CtlMem.lean ====
section
/-! DEFINITION. Control loads, stores and atomics (R191–R200, 09_memory_class.md). -/

namespace Sys2Proof.Machine

/-- The effective address of a control access with the checks of R200 before translation: PROT for bits [63:56], ALIGN; in
the order ALIGN, then PROT. TVAL is the effective address. -/
def effAddr (base : Dbl) (off : BitVec 16) (n : Nat) : Except Halt Dbl :=
  let a := base + off.signExtend 64
  if a.toNat % n ≠ 0 then trapE cALIGN a
  else if 2 ^ 56 ≤ a.toNat then trapE cPROT a
  else .ok a

/-- The access size of SZ (R40). -/
def szBytes (sz : BitVec 2) : Nat := 2 ^ sz.toNat

/-- LD, LDS, LDA (R194): a slot is reserved and the load is pending; QUEUE_SLOT_FILL performs it. -/
def State.load (s : State) (m : CLoad) (sx acq : Bool) : Host.Outcome State Fault Refusal :=
  s.finishAt .c 3 accR (do
    let c := s.tc s.cur
    let vs ← c.readQ [(m.a, m.ka)]
    c.roomQ [(m.a, m.ka)] [m.d]
    let a ← effAddr (vs.getD 0 0) m.off (szBytes m.sz)
    let (s, at_) ← s.locate s.cur a (szBytes m.sz) accR
    .ok (s.modTc s.cur (fun c => (c.popQ [(m.a, m.ka)]).reserve m.d m.cls.toNat m.scope.toNat
      (.load at_ (szBytes m.sz) sx acq))))

/-- LD. -/
def execLd (m : CLoad) (s : State) : Host.Outcome State Fault Refusal := s.load m false false
/-- LDS. -/
def execLds (m : CLoad) (s : State) : Host.Outcome State Fault Refusal := s.load m true false
/-- LDA: an acquire at its scope. -/
def execLda (m : CLoad) (s : State) : Host.Outcome State Fault Refusal := s.load m false true

/-- The address and the value of a store, its queues read address first (R193), and the place it leads to. -/
def State.storeOperands (s : State) (m : CStore) : Except Halt (State × Loc × Dbl) := do
  let c := s.tc s.cur
  let rs : List Src := [(m.a, m.ka), (m.d, m.kd)]
  let vs ← c.readQ rs
  let a ← effAddr (vs.getD 0 0) m.off (szBytes m.sz)
  let (s, at_) ← s.locate s.cur a (szBytes m.sz) accW
  .ok (s.modTc s.cur (fun c => c.popQ rs), at_, vs.getD 1 0)

/-- ST (R191, R195): the store enters the store buffer; a full buffer of 16 makes it wait, which no rule calls a
stall (log 8, R396). -/
def execSt (m : CStore) (s : State) : Host.Outcome State Fault Refusal :=
  s.finishAt .c 3 accW (do
    let (s', at_, v) ← s.storeOperands m
    if 16 ≤ (s.tile s.cur).sbuf.length then holdE else
    let n := (s'.tc s.cur).seq
    let s' := s'.modTc s.cur (fun c => { c with seq := c.seq + 1 })
    .ok (s'.modTile s.cur (fun x =>
      { x with sbuf := x.sbuf ++ [⟨n, m.cls.toNat, m.scope.toNat, at_, szBytes m.sz, v⟩] })))

/-- STL (R88, R90, R195): it issues when every earlier access of its stream is performed; at PKG scope and wider another
releaser's set is written back first, at a window its own set is; then it writes, and is recorded as the last release with
its own line in the set. Its write comes home after those of the other lines of the set, and of the lines these come after. -/
def execStl (m : CStore) (s : State) : Host.Outcome State Fault Refusal :=
  s.finishAt .c 3 accW (do
    let (s', at_, v) ← s.storeOperands m
    if !s.controlQuiet s.cur then holdE else
    let bs := toBytes v (szBytes m.sz)
    match at_ with
    | .scr _ _ => .ok ((s'.writeBackSet s.cur).writeLoc s.cur at_ bs)
    | .mem pa =>
      let s' := s'.releaseBefore s.cur m.scope.toNat pa
      let d := dieOf s.cur
      let l := lineOf pa
      let before := (((s'.tile s.cur).rset.flatMap (fun q => q :: s'.before d q) ++ s'.before d l).dedup).filter (· ≠ l)
      let s' := ((s'.writeLoc s.cur at_ bs).cacheStore s.cur pa m.scope.toNat bs).recordRelease s.cur m.scope.toNat pa
      .ok (s'.modDie d (fun x => { x with after := aset x.after l before })))

/-- The size of an AMO or CAS (R42). -/
def amoBytes (dbl : Bool) : Nat := if dbl then 8 else 4

/-- An AMO (R196): address, then operand; a slot is reserved and the operation is pending. -/
def State.amo (s : State) (m : CAmo) (aop : Nat) : Host.Outcome State Fault Refusal :=
  s.finishAt .c 3 accRW (do
    let c := s.tc s.cur
    let rs : List Src := [(m.a, m.ka), (m.d, m.kd)]
    let vs ← c.readQ rs
    c.roomQ rs [m.d]
    let a ← effAddr (vs.getD 0 0) 0 (amoBytes m.dbl)
    let (s, at_) ← s.locate s.cur a (amoBytes m.dbl) accRW
    .ok (s.modTc s.cur (fun c => (c.popQ rs).reserve m.d m.cls.toNat m.scope.toNat
      (.amo at_ (amoBytes m.dbl) aop (vs.getD 1 0)))))

/-- AADD. -/
def execAadd (m : CAmo) (s : State) : Host.Outcome State Fault Refusal := s.amo m 0
/-- AAND. -/
def execAand (m : CAmo) (s : State) : Host.Outcome State Fault Refusal := s.amo m 1
/-- AOR. -/
def execAor (m : CAmo) (s : State) : Host.Outcome State Fault Refusal := s.amo m 2
/-- AXOR. -/
def execAxor (m : CAmo) (s : State) : Host.Outcome State Fault Refusal := s.amo m 3
/-- AMIN. -/
def execAmin (m : CAmo) (s : State) : Host.Outcome State Fault Refusal := s.amo m 4
/-- AMAX. -/
def execAmax (m : CAmo) (s : State) : Host.Outcome State Fault Refusal := s.amo m 5
/-- AMINU. -/
def execAminu (m : CAmo) (s : State) : Host.Outcome State Fault Refusal := s.amo m 6
/-- AMAXU. -/
def execAmaxu (m : CAmo) (s : State) : Host.Outcome State Fault Refusal := s.amo m 7
/-- AXCHG. -/
def execAxchg (m : CAmo) (s : State) : Host.Outcome State Fault Refusal := s.amo m 8

/-- CAS (R193, R197): address, then E, then N, each popped. -/
def execCas (m : CCas) (s : State) : Host.Outcome State Fault Refusal :=
  s.finishAt .c 3 accCas (do
    let c := s.tc s.cur
    let rs : List Src := [(m.a, m.ka), (m.e, false), (m.n, false)]
    let vs ← c.readQ rs
    c.roomQ rs [m.d]
    let a ← effAddr (vs.getD 0 0) 0 (amoBytes m.dbl)
    let (s, at_) ← s.locate s.cur a (amoBytes m.dbl) accCas
    .ok (s.modTc s.cur (fun c => (c.popQ rs).reserve m.d m.cls.toNat m.scope.toNat
      (.cas at_ (amoBytes m.dbl) a.toNat (vs.getD 1 0) (vs.getD 2 0)))))

/-- STORE_BUFFER_DRAIN (R191): the i-th buffered store of a tile leaves for its place, in order within its class.
State.turn holds it in a thermal stop (R385). -/
def execStoreBufferDrain (t : PTile) (i : Nat) (s : State) : Host.Outcome State Fault Refusal :=
  match (s.tile t).sbuf[i]? with
  | none => .next s
  | some b => if storeReady (s.tile t) b then .next ((s.drainStore t b).progress t) else .next s

/-- L2_EVICTION (R89, 3): L2 evicts a line, and what it holds of a release set is written back. In the free order the line of an STL
does not go before the lines that its write comes after (R195; `State.allowed`). -/
def execL2Eviction (die : Bool) (line : Nat) (s : State) : Host.Outcome State Fault Refusal :=
  .next ((s.writeBackLine die line).giveUp die line)

end Sys2Proof.Machine
end

