-- ==== Sys2Proof/Machine/Text.lean ====
section
/-! DEFINITION. Fetching text (R38, R39, R51), and the instruction at which a control engine waits (R396). -/

namespace Sys2Proof.Machine

/-- FETCH at a parcel's address with a detail (R51). -/
def fetchCause (detail : BitVec 4) (va : Pc) : Cause := ⟨cFETCH, detail ++ 0#12 ++ va⟩

/-- Fetch one parcel (R38, R39, R51, R387): from the task text cache of 65,536 parcels, which no store snoops; else through the page
tables, which the cache takes. Window addresses are decoded before translation (R76). A fetch that the peer window of a fenced
tile refuses has the detail of PROT, one from an uncorrectable line of a scratchpad has that of POISON, and a parcel in the cache is
fetched without a further check (DESIGN CHOICE, log 42). The cache holds single parcels (DESIGN CHOICE, log 17). -/
def State.fetchParcel (s : State) (t : PTile) (va : Pc) : Except Halt (State × Parcel) :=
  let x := s.tile t
  let c := liveCtx x
  match x.text.find? (fun e => e.ctx = c && e.va = va.toNat) with
  | some e => .ok (s, e.parcel)
  | none =>
    match s.locate t (va.setWidth 64) 2 accX with
    | .error (.trap k) => .error (.trap (fetchCause (if k.code = cPAGE then 2 else 3) va))
    | .error h => .error h
    | .ok (s, at_) =>
      if (s.lostByte t at_ 2).isSome then .error (.trap (fetchCause 4 va)) else
      let p : Parcel := (ofBytes (s.readLoc t at_ 2)).setWidth 16
      match at_ with
      | .scr _ _ => .ok (s, p)
      | .mem _ => .ok ((s.dropCached t at_).modTile t (fun x =>
          { x with text := s.evict 65536 (x.text ++ [⟨c, va.toNat, p⟩]) }), p)

/-- Fetch `n` parcels from an address. -/
def State.fetchParcels (s : State) (t : PTile) : Nat → Pc → Except Halt (State × List Parcel)
  | 0, _ => .ok (s, [])
  | n + 1, va => do
    let (s, p) ← s.fetchParcel t va
    let (s, ps) ← s.fetchParcels t n (pcAdd va 1)
    .ok (s, p :: ps)

/-- The first parcel of the instruction at an address: ALIGN before everything (R51, R52). -/
def State.fetchFirst (s : State) (t : PTile) (pc : Pc) : Except Halt (State × Parcel) :=
  if pc.getLsbD 0 then .error (.trap (fetchCause 1 pc)) else s.fetchParcel t pc

/-- The first parcel of the instruction at which an engine stands, fetched unless the engine waits there and has it (R37). -/
def State.headAt (s : State) (t : PTile) (e : Eng) : Except Halt (State × Parcel) :=
  match ((s.tc t).eng e).fetched with
  | p0 :: _ => .ok (s, p0)
  | [] => s.fetchFirst t ((s.tc t).eng e).pc

/-- The later parcels of an engine's own instruction, whose first is `p0`, as `headAt`. -/
def State.tailAt (s : State) (t : PTile) (e : Eng) (p0 : Parcel) : Except Halt (State × List Parcel) :=
  match ((s.tc t).eng e).fetched with
  | _ :: ps => .ok (s, ps)
  | [] => s.fetchParcels t (p0Len p0).toNat (pcAdd ((s.tc t).eng e).pc 1)

/-- The task text cache takes the parcel at an address ahead of any walk (R39): a later fetch may find the value of before a
store. A parcel that cannot be fetched changes nothing. -/
def State.fillText (s : State) (t : PTile) (va : Pc) : State :=
  if (s.tile t).live.isNone || va.getLsbD 0 then s else
  match s.fetchParcel t va with
  | .ok (s, _) => s
  | .error _ => s

/-! ### Waits (R396) -/

/-- The instruction at which an engine of a tile stands in a wait that counts as a stall. -/
def State.awaitedBy (s : State) (t : PTile) (e : Eng) : Option Instr :=
  let g := (s.tc t).eng e
  if !g.waiting then none else
  match s.headAt t e with
  | .error _ => none
  | .ok (s, p0) =>
    match s.tailAt t e p0 with
    | .error _ => none
    | .ok (_, ps) =>
      match decode (p0 :: ps) with
      | .ok i => some i
      | .error _ => none

/-- That of the control engine. -/
def State.awaited (s : State) (t : PTile) : Option Instr := s.awaitedBy t .c

/-- The counter that a waiting TWAIT awaits (R233, R396). -/
def State.awaitedCtr (s : State) (t : PTile) : Option Nat :=
  match s.awaited t with
  | some (.twait ctr ..) => some ctr.toNat
  | _ => none

/-- The group slot that a waiting GWAIT or GSYNC awaits (R237, R396). -/
def State.awaitedSlot (s : State) (t : PTile) : Option Nat :=
  match s.awaited t with
  | some (.gwait slot _) => some slot.toNat
  | some (.gsync slot _) => some slot.toNat
  | _ => none

/-- The addresses that an EXIT pops. -/
def exitReads (nsucc : BitVec 3) (a : BitVec 4) : List Src := List.replicate nsucc.toNat (a, false)
/-- What an ENQ reads: its handle, then the eight queues of its record (R296). -/
def enqReads (a b : BitVec 4) (ka : Bool) : List Src := (a, ka) :: (List.range 8).map (fun i => (b + BitVec.ofNat 4 i, false))

/-- The control queues that an instruction reads, in field order; none for one that reads none, or whole queues. -/
def queueReads : Instr → List Src
  | .add _ a b ka kb | .sub _ a b ka kb | .mul _ a b ka kb | .mulh _ a b ka kb | .mulhu _ a b ka kb | .divs _ a b ka kb
  | .divu _ a b ka kb | .rems _ a b ka kb | .remu _ a b ka kb | .and _ a b ka kb | .or _ a b ka kb | .xor _ a b ka kb
  | .shl _ a b ka kb | .shr _ a b ka kb | .sha _ a b ka kb | .min _ a b ka kb | .max _ a b ka kb | .minu _ a b ka kb
  | .maxu _ a b ka kb | .cmp a b ka kb _ | .acpt _ a b ka kb _ => [(a, ka), (b, kb)]
  | .mov _ a ka | .neg _ a ka | .not _ a ka | .clz _ a ka | .popc _ a ka | .sextb _ a ka | .sexth _ a ka | .sextw _ a ka
  | .zextb _ a ka | .zexth _ a ka | .zextw _ a ka | .addi _ a ka _ | .andi _ a ka _ | .ori _ a ka _ | .xori _ a ka _
  | .shli _ a ka _ | .shri _ a ka _ | .shai _ a ka _ | .cmpi a ka _ _ | .lcset _ a ka | .twait _ _ a _ ka
  | .tadd _ _ a _ ka | .deq _ a ka _ | .qstat _ a ka | .wpub a ka | .whold _ a ka | .wdrop a ka | .wqry _ a ka
  | .spapp a ka | .csrw _ a ka => [(a, ka)]
  | .drop q => [(q, false)]
  | .ld m | .lds m | .lda m => [(m.a, m.ka)]
  | .st m | .stl m => [(m.a, m.ka), (m.d, m.kd)]
  | .aadd m | .aand m | .aor m | .axor m | .amin m | .amax m | .aminu m | .amaxu m | .axchg m => [(m.a, m.ka), (m.d, m.kd)]
  | .cas m => [(m.a, m.ka), (m.e, false), (m.n, false)]
  | .exit nsucc _ _ a => exitReads nsucc a
  | .enq _ a b ka _ => enqReads a b ka
  | _ => []

/-- Whether an instruction that waits awaits control queue `n`: a slot of it to read or to take away, or room in it. -/
def TCtx.awaitsQueue (c : TCtx) (i : Instr) (n : BitVec 4) : Bool :=
  match i with
  | .qclr q => q = n
  | .spushm f l => (queueRun f l).contains n
  | .vmovq d _ _ => d = n && 4 ≤ (c.q d).length
  | i => (match c.readQ (queueReads i) with | .error .wait => true | _ => false) && (queueReads i).any (fun r => r.1 = n)

/-- Whether a waiting engine of a tile awaits a control queue (R396). -/
def State.awaitsQueue (s : State) (t : PTile) (n : BitVec 4) : Bool :=
  (s.awaitedBy t .c).any (fun i => (s.tc t).awaitsQueue i n) || (s.awaitedBy t .v).any (fun i => (s.tc t).awaitsQueue i n)

/-- Whether a fill is a load or an atomic that a count of R226 holds; PARM's is not. -/
def Fill.counts (f : Fill) (c : TCtx) : Bool :=
  match f.op with
  | .value _ => false
  | .load .. => !c.c.parms.contains f.seq
  | _ => true

/-- Whether the progress count of a tile restarts as a fill is performed (R396): a count of R226 falls, or a waiting engine awaits
the queue whose slot is filled. -/
def State.fillHeard (s : State) (t : PTile) (f : Fill) : Bool :=
  let c := s.tc t
  f.counts c || c.qs.any (fun q => q.2.contains (.reserved f.id) && s.awaitsQueue t (BitVec.ofNat 4 q.1))

/-- An add reaches a counter of a tile's live context: the progress count restarts where an instruction awaits it (R396). -/
def State.ctrHeard (s : State) (t : PTile) (n : Nat) : State := if s.awaitedCtr t = some n then s.progress t else s

/-- An add reaches a counter of a tile's live context (R223). -/
def State.addOwn (s : State) (t : PTile) (n : Nat) (v : Dbl) : State :=
  (s.modTc t (fun c => c.addCtr n v)).ctrHeard t n

end Sys2Proof.Machine
end

