-- ==== Sys2Proof/Machine/Thicket.lean ====
section
/-! DEFINITION. The Thicket (11_task_class.md, R239–R253): launch blocks, admission and matching, readiness, dispatch,
completion, absorption, withdrawal and failure. -/

namespace Sys2Proof.Machine

/-! ### Launch blocks (R239, R240) -/

/-- A range of a launch block: its index 0–3 (D3–D6), whether it is a write, its base and its end in bytes. -/
structure Range where
  idx : Nat
  write : Bool
  base : Nat
  stop : Nat
  deriving DecidableEq, Repr

/-- The range doubles D3–D6. -/
def rangeDoubles (r : Rec) : List Dbl := [r.d3, r.d4, r.d5, r.d6]

/-- The range of a double with KIND 01 or 11 (R239). -/
def rangeOf (i : Nat) (d : Dbl) : Option Range :=
  let lines := (d.extractLsb' 48 16).toNat
  let lines := if lines = 0 then 65536 else lines
  let base := (d.extractLsb' 6 42).toNat * 64
  match (d.extractLsb' 0 2).toNat with
  | 1 => some ⟨i, false, base, base + 64 * lines⟩
  | 3 => some ⟨i, true, base, base + 64 * lines⟩
  | _ => none

/-- The ranges of a launch block. -/
def rangesOf (r : Rec) : List Range :=
  (List.range 4).filterMap (fun i => rangeOf i ((rangeDoubles r).getD i 0))

/-- Two ranges meet when they share a byte (R243). -/
def Range.meets (a b : Range) : Bool := a.base < b.stop && b.base < a.stop

/-- The checks of R240. -/
def blockOk (r : Rec) : Bool :=
  let ds := rangeDoubles r
  r.d0.getLsbD 63 && r.d0.extractLsb' 58 2 ≠ 3#2 &&
  ds.all (fun d => d.extractLsb' 0 2 ≠ 2#2 && (d.extractLsb' 0 2 ≠ 0#2 || d = 0) && d.extractLsb' 2 4 = 0#4) &&
  (rangesOf r).all (fun g => g.stop ≤ 2 ^ 48) && ((rangesOf r).filter (·.write)).length ≤ 2 &&
  (if r.d0.getLsbD 56 then
    (rangesOf r).any (fun g => g.idx = (r.d1.extractLsb' 48 2).toNat && !g.write) &&
    1 ≤ (r.d1.extractLsb' 50 4).toNat && (r.d1.extractLsb' 50 4).toNat ≤ 3 && r.d1.extractLsb' 0 48 ≠ 0#48
   else r.d1.extractLsb' 0 54 = 0#54) &&
  (r.d1.extractLsb' 54 8).toNat ≤ 64 && r.d1.extractLsb' 62 2 = 0#2 &&
  r.d2.extractLsb' 56 8 = 0#8 && r.d2.extractLsb' 0 6 = 0#6 && r.d7.extractLsb' 32 32 = 0#32

/-- FMB of a launch block (R239). -/
def fmbOf (r : Rec) : Nat := (r.d1.extractLsb' 54 8).toNat
/-- TAG of a launch block (R239). -/
def tagOf (r : Rec) : BitVec 32 := r.d7.extractLsb' 0 32
/-- A launch block with another TAG (R265, R288). -/
def withTag (r : Rec) (t : BitVec 32) : Rec := { r with d7 := (0#32 ++ t : BitVec 64) }
/-- ROLE of a launch block: 0 any, 1 actor, 2 learner. -/
def roleField (r : Rec) : Nat := (r.d0.extractLsb' 58 2).toNat
/-- The slip window of a WIN field in parcels (R239, R270). -/
def winOf (n : Nat) : Nat := if n = 0 then 64 else 16 * n

/-! ### Slots -/

/-- The package with a change made to a task in the Thicket. -/
def State.modSlot (s : State) (d : Bool) (n : Nat) (f : TSlot → TSlot) : State :=
  s.modDie d (fun x => match aget x.slots n with
    | some t => { x with slots := aset x.slots n (f t) }
    | none => x)
/-- The package with a change made to every task of a die's Thicket. -/
def State.mapSlots (s : State) (d : Bool) (f : Nat → TSlot → TSlot) : State :=
  s.modDie d (fun x => { x with slots := x.slots.map (fun e => (e.1, f e.1 e.2)) })
/-- The number of free slots of a die (R242). -/
def State.freeSlots (s : State) (d : Bool) : Nat := 2048 - (s.die d).slots.length
/-- The lowest-numbered free slot (R242). -/
def State.lowestFree (s : State) (d : Bool) : Option Nat :=
  (List.range 2048).find? (fun n => (aget (s.die d).slots n).isNone)
/-- The age of the next task to be admitted: above every age in use. -/
def State.nextAge (s : State) (d : Bool) : Nat :=
  (s.die d).slots.foldl (fun m e => max m (e.2.age + 1))
    ((s.tiles.foldl (fun m e => max m ((e.2.lastTask.map (· + 1)).getD 0)) 0))

/-- The dependences of a new block on an older task of its context (R243), by the new range's index. -/
def depsOn (lb old : Rec) (n : Nat) : List (Nat × DepKind × Nat) :=
  (rangesOf lb).flatMap (fun a => (rangesOf old).filterMap (fun b =>
    if a.meets b then
      match a.write, b.write with
      | false, true => some (n, .raw, a.idx)
      | true, false => some (n, .war, a.idx)
      | true, true => some (n, .waw, a.idx)
      | false, false => none
    else none))

/-- The number under which a dependence names slot `n` of the other die: an earlier handler of the same mailbox, which either
die may run (R240). -/
def farSlot (n : Nat) : Nat := 2048 + n

/-- The order a BARRIER adds on an older task, by source (R240). -/
def barrierOn (lb : Rec) (src : Source) (n : Nat) (old : TSlot) : List (Nat × DepKind × Nat) :=
  if !lb.d0.getLsbD 62 then [] else
  let b : List (Nat × DepKind × Nat) := [(n, .barrier, 0)]
  match src, old.src with
  | .queue q g k, .queue q' g' k' => if q = q' && g = g' && k' < k then b else []
  | .mailbox m k, .mailbox m' k' => if m = m' && k' < k then b else []
  | .exit _, _ => b
  | _, _ => []

/-- The single producer of a non-strict task's gate (R249); none where the gate is strict. -/
def gateProducer (lb : Rec) (deps : List (Nat × DepKind × Nat)) : Option Nat :=
  if !lb.d0.getLsbD 56 then none else
  let gate := (lb.d1.extractLsb' 48 2).toNat
  match ((deps.filter (fun e => e.2.1 = .raw && e.2.2 = gate)).map (·.1)).dedup with
  | [p] => some p
  | _ => none

/-- Admission of a launch block that has passed R240 (R242, R243): it takes the lowest free slot and is matched against
every older task of its context on the die. -/
def State.admitTask (s : State) (d : Bool) (c : Ctx) (lb : Rec) (lba : Dbl) (src : Source) (image : Option Image)
    (cycles : Nat) : State :=
  match s.lowestFree d with
  | none => s
  | some n =>
    let older := (s.die d).slots.filter (fun e => e.2.ctx = c)
    let far : AMap TSlot := match src with
      | .mailbox .. => (s.die (!d)).slots.filter (fun e => e.2.ctx = c)
      | _ => []
    let deps := older.flatMap (fun e => depsOn lb e.2.lb e.1 ++ barrierOn lb src e.1 e.2) ++
      far.flatMap (fun e => barrierOn lb src (farSlot e.1) e.2)
    let t : TSlot :=
      { ctx := c, lb := lb, lba := lba, src := src, age := s.nextAge d
        st := if deps.isEmpty then .ready else .waiting
        prio := (lb.d0.extractLsb' 60 2).toNat, readyCk := 0, deps := deps, gateFrom := gateProducer lb deps
        settled := false, dropped := [], ran := image.isSome, wdraw := false, exited := false, absRange := none, image := image
        tile := none, cycles := cycles, rels := [], refused := false, handed := 0, fabric := [] }
    s.modDie d (fun x => { x with slots := aset x.slots n t })

/-! ### Dependences met, withdrawal and failure -/

/-- A task without its dependences on what goes under number `n` (R244); a waiting task with none left is ready. A gate whose
producer that was has no producer left (R249). -/
def TSlot.meets (t : TSlot) (n : Nat) : TSlot :=
  let deps := t.deps.filter (fun e => e.1 ≠ n)
  { t with deps := deps, gateFrom := t.gateFrom.filter (· ≠ n), dropped := t.dropped.filter (· ≠ n), st := if t.st = .waiting && deps.isEmpty then .ready else t.st }

/-- Every dependence on slot n is met (R244), on the other die that of a mailbox's BARRIER (R240). -/
def State.meetDeps (s : State) (d : Bool) (n : Nat) : State :=
  (s.mapSlots (!d) (fun _ t => t.meets (farSlot n))).mapSlots d (fun _ t => t.meets n)

/-- The consumer count of a task (R250): the tasks that hold a dependence on it, less those whose absorption has sent it a
withdrawal. -/
def State.consumers (s : State) (d : Bool) (n : Nat) : Nat :=
  ((s.die d).slots.filter (fun e =>
    e.2.deps.any (fun q => q.1 = n && q.2.1 ≠ .barrier) && !e.2.dropped.contains n)).length

/-- The producers of a task. -/
def producersOf (t : TSlot) : List Nat := ((t.deps.filter (fun e => e.2.1 ≠ .barrier)).map (·.1)).dedup

/-- The charge of a task's tile-cycles to the queue its TAG names (R288), whichever context owns that queue (DESIGN CHOICE, log 35). -/
def State.charge (s : State) (tag : BitVec 32) (cycles : Nat) : State :=
  let d := tag.getLsbD 25
  let n := (tag.extractLsb' 16 9).toNat
  let gen := tag.extractLsb' 0 16
  let q := s.queue d n
  if tag.extractLsb' 26 6 = 0#6 && q.valid && q.gen = gen && gen ≠ 0 then
    s.modQueue d n (fun q => { q with deficit := max (q.deficit - cycles) (-(2 ^ 62)) })
  else s

/-- A task leaves the Thicket (R242): its slot is free, its mailbox's LIVE falls (R254), every dependence on it is met, and
its tile-cycles are charged (R288). -/
def State.freeSlot (s : State) (d : Bool) (n : Nat) : State :=
  match s.slot d n with
  | none => s
  | some t =>
    let s := s.modDie d (fun x => { x with slots := adel x.slots n, lost := x.lost.filter (· ≠ n) })
    let s := match t.src with
      | .mailbox m _ => s.modMbox t.ctx m.toNat (fun b => { b with live := b.live - 1 })
      | _ => s
    let s := s.charge (tagOf t.lb) t.cycles
    s.meetDeps d n

/-- A holder of a WVT entry is dropped (R311, R315). -/
def State.dropHolder (s : State) (c : Ctx) (e : Nat) : State :=
  s.modWvt c e (fun w =>
    let h := w.holders - 1
    { w with holders := h, st := if w.st = .retiring && h = 0 then .free else w.st })

/-- The tile context whose task completes, or is withdrawn and stops: what its queues, feeder queues and stacks hold is discarded
(R108, R131, R158), and the array's fetch waits for no drain of it (R161). -/
def TCtx.discard (c : TCtx) : TCtx :=
  { c with
    task := none, wdraw := false, fills := [], qs := [], cqc := [], cqv := [], feed := [], mstack := [], late := false
    gslots := c.unsync, gsync := none
    c := .reset, v := .reset, m := .reset, x := .reset }

/-- The tile context whose task's image goes (R251): its records go with it, and the version holders of its matrix records
are dropped. -/
def TCtx.dropTask (c : TCtx) : TCtx :=
  { c.discard with mq := [], drain := none, xrecs := c.xrecs.filter (fun r => !r.own) }

/-- The WVT entries that the matrix records of a tile context hold (R164). -/
def TCtx.held (c : TCtx) : List Nat :=
  (c.mq.filter (·.holder)).map (fun r => ((r.ops.getD 1 0).extractLsb' 48 6).toNat)

/-- A tile context loses the image of its task, whose pending vector writes land (R129, R251). -/
def State.dropParked (s : State) (c : Ctx) (q : TCtx) (put : TCtx → Tile → Tile) (p : PTile) : State :=
  (q.held.foldl (fun s e => s.dropHolder c e) s).modTile p (put q.landAll.dropTask)

/-- A discarded image of the task in slot `n` (R251, R316, R351) drops the holders that it counts; an image in a Sett, or on the
tile while the exchange is under way, leaves the context's own handle to that context. -/
def State.dropImage (s : State) (c : Ctx) (n : Nat) (im : Image) : State :=
  match im with
  | .mem _ _ hold recs =>
    let s := recs.foldl (fun s e => s.dropHolder c e) s
    match hold with
    | some (e, v) => if v ≠ 0 && (s.wvt c e).version = v then s.dropHolder c e else s
    | none => s
  | .sett p =>
    let its (k : Ctx) (q : TCtx) : Bool := k = c && q.task.any (fun z => z.slot.toNat = n)
    let x := s.tile p
    match x.live.filter (its · x.tc), x.sett.filter (fun y => its y.1 y.2.1) with
    | some _, _ => s.dropParked c x.tc (fun q x => { x with tc := q }) p
    | none, some (k, q, bad) => s.dropParked c q (fun q x => { x with sett := some (k, q, bad) }) p
    | none, none => s

/-- Withdrawals sent to a list of producers whose consumer counts have just fallen (R250, R251), cascading; `fuel` bounds
the cascade: each dependence sends one at most, and 2,048 tasks have fewer than 2^22. -/
def State.withdraw (s : State) (d : Bool) : Nat → List Nat → State
  | 0, _ => s
  | _, [] => s
  | fuel + 1, n :: rest =>
    match s.slot d n with
    | none => s.withdraw d fuel rest
    | some t =>
      if !t.lb.d0.getLsbD 57 || s.consumers d n ≠ 0 then s.withdraw d fuel rest else
      match t.st, t.image with
      | .running, _ =>
        let s := s.modSlot d n (fun t => { t with wdraw := true })
        let s := match t.tile with
          | some p => s.modTc p (fun c => { c with wdraw := true })
          | none => s
        s.withdraw d fuel rest
      | _, some im =>
        ((s.dropImage t.ctx n im).freeSlot d n).withdraw d fuel rest
      | _, none =>
        let ps := producersOf t
        let s := s.modDie d (fun x => { x with slots := adel x.slots n, lost := x.lost.filter (· ≠ n) })
        let s := match t.src with
          | .mailbox m _ => s.modMbox t.ctx m.toNat (fun b => { b with live := b.live - 1 })
          | _ => s
        (s.meetDeps d n).withdraw d fuel (rest ++ ps)

/-- The consumer counts of producers have fallen, so that their withdrawals are to come in this ck, after its completions and
failures (R246, R250). -/
def State.lose (s : State) (d : Bool) (ps : List Nat) : State := s.modDie d (fun x => { x with lost := (x.lost ++ ps).dedup })

/-- The withdrawals of a die that are still to come are made (R246, R250, R251). -/
def State.withdrawals (s : State) (d : Bool) : State :=
  if (s.die d).lost.isEmpty then s
  else (s.modDie d (fun x => { x with lost := [] })).withdraw d (2 ^ 22) (s.die d).lost

/-- The tasks that fail with those listed (R253): each that holds a dependence on one of them, and so on. Each round but the
last adds a task, so as many rounds as there are tasks suffice. -/
def failClosure (slots : AMap TSlot) : Nat → List Nat → List Nat
  | 0, l => l
  | n + 1, l =>
    let more := slots.filter (fun e => !l.contains e.1 && e.2.deps.any (fun q => l.contains q.1 && q.2.1 ≠ .barrier))
    if more.isEmpty then l else failClosure slots n (l ++ more.map (·.1))

/-- A task becomes FAILED (R253): it yields a report of kind 3 with cause PEERFAIL, its engine field 0 (DESIGN CHOICE, log 27), and
frees its slot; what depends on it through a BARRIER alone goes on. -/
def State.failTask (s : State) (d : Bool) (n : Nat) : State :=
  match s.slot d n with
  | none => s
  | some t => (s.report t.ctx (fmbOf t.lb) ⟨3, 0, cPEERFAIL, t.lba, 0, 0, 0, 0, 0, 0⟩).freeSlot d n

/-- Tasks fail with every task that depends on them (R253), the oldest first; the withdrawals of the producers
whose counts fall come after every completion and failure of the ck (R246, R250). -/
def State.failTasks (s : State) (d : Bool) (ns : List Nat) : State :=
  let slots := (s.die d).slots
  let all := (failClosure slots slots.length ns).filterMap (fun n => (aget slots n).map (fun t => (n, t)))
  let sorted := all.mergeSort (fun a b => a.2.age ≤ b.2.age)
  let lost := (all.flatMap (fun e => (producersOf e.2).filter (fun p => !e.2.dropped.contains p))).dedup
  sorted.foldl (fun s e => s.failTask d e.1) (s.lose d lost)

/-! ### Absorption and completion (R94, R248–R252) -/

/-- Whether the completion of task `p` in slot `n` settles task `t` by absorption (R249): `p` is the one producer of its gate. -/
def settles (n : Nat) (p t : TSlot) : Bool :=
  t.gateFrom = some n && t.ctx = p.ctx && t.deps.any (fun q => q.1 = n && q.2.1 = .raw) && !t.settled && t.st = .waiting &&
  match p.absRange with
  | none => false
  | some w =>
    match rangeOf w.toNat ((rangeDoubles p.lb).getD w.toNat 0),
          rangeOf (t.lb.d1.extractLsb' 48 2).toNat ((rangeDoubles t.lb).getD (t.lb.d1.extractLsb' 48 2).toNat 0) with
    | some a, some g => a.write && a.base = g.base && a.stop = g.stop
    | _, _ => false

/-- Absorption at the completion of slot n (R249, R250): each settled consumer drops its other read-after-write
dependences; the result is also the producers that lose a consumer. A settled task with BARRIER still waits for what its BARRIER
orders before it (DESIGN CHOICE, log 59). -/
def State.absorb (s : State) (d : Bool) (n : Nat) (p : TSlot) : State × List Nat :=
  let hit := (s.die d).slots.filter (fun e => settles n p e.2)
  let lost := hit.flatMap (fun e => ((e.2.deps.filter (fun q => q.2.1 = .raw && q.1 ≠ n)).map (·.1)).dedup)
  let s := s.mapSlots d (fun _ t =>
    if settles n p t then
      let deps := t.deps.filter (fun q => q.2.1 ≠ .raw)
      let dropped := ((t.deps.filter (fun q => q.2.1 = .raw && q.1 ≠ n)).map (·.1)).dedup
      { t with settled := true, deps := deps, dropped := dropped, st := if deps.isEmpty then .ready else .waiting }
    else t)
  (s, lost)

/-- A copy record's destination meets a declared write range of its task (R94). The span of a record is taken from its
operands by `spanOf`, none for a record with no destination in memory or a window. -/
def meetsWrites (lb : Rec) (span : Option (Nat × Nat)) : Bool :=
  match span with
  | none => false
  | some (a, b) => (rangesOf lb).any (fun g => g.write && g.base < b && a < g.stop)

/-- The tile is free from now on (R245), with what its task has left discarded (R108). -/
def State.freeTile (s : State) (t : PTile) (age : Nat) : State :=
  s.modTile t (fun x => { x with
    freed := s.ns9, lastTask := some age, cycles := 0, prog := 0
    tc := { x.tc.discard with xrecs := x.tc.xrecs.map (fun r => { r with own := false }) } })

/-- The completion of a task handled at the Thicket (R94, R95, R246): a release at DIE scope, before which a set above 4,096
lines is written back (R89, 2), and whose lines its consumers' dispatch acquires; then absorption. The withdrawals come after
every completion and failure of the ck. -/
def State.complete (s : State) (d : Bool) (n : Nat) : State :=
  match s.slot d n with
  | none => s
  | some p =>
    let cyc := (p.tile.map (fun t => (s.tile t).cycles)).getD 0
    let s := s.modSlot d n (fun t => { t with cycles := t.cycles + cyc })
    let s := match p.tile with
      | some t => s.capSet t
      | none => s
    let rel : List Release := (p.tile.map (fun t => [Release.mk t false 3 (s.tile t).rset])).getD []
    let s := s.mapSlots d (fun _ t =>
      if t.deps.any (fun q => q.1 = n) || t.src = .exit p.age then { t with rels := t.rels ++ rel } else t)
    let s := match p.tile with
      | some t => s.freeTile t p.age
      | none => s
    let (s, lost) := s.absorb d n p
    (s.lose d lost).freeSlot d n

/-! ### Roles and dispatch (R245, R307) -/

/-- A tile's role in a context (R307): 1 actor, 2 learner, 0 none; by the lowest list position that names it. -/
def State.roleIn (s : State) (c : Ctx) (t : PTile) : Nat :=
  let x := s.ctx c
  match (List.range (min x.tlen 128)).find? (fun i =>
      s.mapTile c ((aget x.tlist i).getD 0).toNat = some t) with
  | none => 0
  | some i => if i < x.tpos then 1 else 2

/-- ROLE of a tile (R307): the old role while a change is pending (R308). -/
def State.roleOf (s : State) (t : PTile) : Nat :=
  match (s.tile t).live with
  | none => 0
  | some c =>
    if (s.tile t).pend then (s.tile t).side else s.roleIn c t

/-- Whether an island's clocks let its tiles issue (R385). -/
def State.clocked (s : State) (t : PTile) : Bool :=
  let i := s.island (t.toNat / 8)
  i.on && !i.busy && !i.tstop

/-- Whether a thermal stop holds the clocks of a tile: all of its state is kept (R385). -/
def State.frozen (s : State) (t : PTile) : Bool := (s.island (t.toNat / 8)).tstop

/-- A tile is free (R245): its live context runs no task on it, it is not stopped, fenced or exchanging, and no role change
is pending (R308). -/
def State.isFree (s : State) (t : PTile) : Bool :=
  let x := s.tile t
  x.live.isSome && x.tc.task.isNone && x.stop = .none && !x.pend && s.clocked t

/-- Whether a migration stream has stopped a context (R389): from its phase 2 on, until it aborts. -/
def State.stopping (s : State) (c : Ctx) : Bool :=
  [s.die0, s.die1].any (fun d => 2 ≤ d.migr.phase && d.migr.phase ≤ 4 && d.migr.mctx.setWidth 5 = c)

/-- Whether a tile may take a ready task (R245, R353); an image in a Sett resumes with the exchange that brings it back. -/
def State.mayTake (s : State) (t : PTile) (e : TSlot) : Bool :=
  let x := s.tile t
  e.st = .ready && !s.stopping e.ctx && x.live = some e.ctx && (roleField e.lb = 0 || roleField e.lb = s.roleOf t) &&
  match e.image with
  | none => true
  | some (.sett _) => false
  | some (.mem _ origin _ _) =>
    (origin = none || origin = some t) && x.tc.xrecs.isEmpty &&
    (s.die (dieOf t)).adds.all (fun a => a.t ≠ t)

/-- The task that rules 1 to 3 of R245 give a tile among those not left out, with whether rule 2 names it. -/
def State.choose (s : State) (t : PTile) (out : List Nat) : Option (Nat × Bool) :=
  let can := (s.die (dieOf t)).slots.filter (fun e => s.mayTake t e.2 && !out.contains e.1)
  let top := can.foldl (fun m e => max m e.2.prio) 0
  let best := can.filter (fun e => e.2.prio = top)
  let succ := best.filter (fun e => match (s.tile t).lastTask with
    | some a => e.2.src = .exit a
    | none => false)
  let oldest (l : AMap TSlot) : Option Nat :=
    (l.foldl (fun (m : Option (Nat × Nat)) e =>
      match m with
      | none => some (e.1, e.2.age)
      | some q => if e.2.age < q.2 then some (e.1, e.2.age) else m) none).map (·.1)
  match oldest succ with
  | some n => some (n, true)
  | none => (oldest best).map (fun n => (n, false))

/-- The tiles of a die. -/
def tilesOf (d : Bool) : List PTile := (List.range 64).map (fun i => BitVec.ofNat 7 (i + if d then 64 else 0))

/-- The free tile served next and its task, none of those left out (R245): first the free tiles that rule 2 serves, in the order in
which they became free, then the others, lowest PTILE first. -/
def State.pick (s : State) (d : Bool) (out : List Nat) : Option (PTile × Nat) :=
  let free := (tilesOf d).filterMap (fun t => if s.isFree t then (s.choose t out).map (fun q => (t, q)) else none)
  let first := free.filter (fun e => e.2.2)
  let pick := first.foldl (fun (m : Option (PTile × Nat × Bool)) e =>
    match m with
    | none => some e
    | some q => if (s.tile e.1).freed < (s.tile q.1).freed then some e else m) none
  match pick with
  | some e => some (e.1, e.2.1)
  | none => (free.head?).map (fun e => (e.1, e.2.1))

/-- The tasks of a die whose latest resumption has been refused (R353, R357). -/
def State.refusedTasks (s : State) (d : Bool) : List Nat :=
  ((s.die d).slots.filter (fun e => e.2.refused)).map (·.1)

/-- The address at which a task starts (R36, R249). -/
def entryOf (e : TSlot) : Pc := if e.settled then e.lb.d1.extractLsb' 0 48 else e.lb.d0.extractLsb' 0 48

/-- A tile context at the dispatch of a task that has not run (R108, R123, R158, R204, R259, R268, R341). -/
def startTask (c : TCtx) (n : Nat) (e : TSlot) : TCtx :=
  { c with
    task := some ⟨BitVec.ofNat 11 n, e.lb, e.lba⟩
    c := { Engine.reset with pc := entryOf e, walking := true }
    v := .reset
    m := .reset
    x := .reset
    qs := [], cqc := [], cqv := [], lcs := [], fills := []
    sp := BitVec.ofNat 21 (c.spbase.toNat % 2 ^ 21 / 64 * 64)
    win := winOf (e.lb.d0.extractLsb' 48 8).toNat
    feed := [], pending := [], vloads := [], vstores := [], tick := 0
    mstack := [], mq := [], heap := .reset, drain := none, late := false
    xstack := [], gslots := c.unsync, gsync := none
    inh := false, dbl := false, resumed := false, wdraw := false, recStop := false }

/-- The acquire at DIE scope of a dispatch (R95, R225, R245). -/
def State.dispatchAcquire (s : State) (t : PTile) (e : TSlot) : State :=
  (e.rels.foldl (fun s r => s.joinRelease t 3 r) s).acquireCache t 3

/-- TASK_AGING (R245): a task READY for 2^20 ck rises one PRIO level, up to 3. -/
def execTaskAging (die : Bool) (slot : BitVec 11) (s : State) : Host.Outcome State Fault Refusal :=
  .next (s.modSlot die slot.toNat (fun t =>
    if t.st = .ready && 2 ^ 20 ≤ t.readyCk then { t with prio := min 3 (t.prio + 1), readyCk := 0 } else t))

end Sys2Proof.Machine
end

