-- ==== Sys2Proof/Machine/Sync.lean ====
section
/-! DEFINITION. Synchronisation instructions (10_sync_class.md, R222–R237): FENCE, timeline counters, WAITC, groups. -/

namespace Sys2Proof.Machine

/-- A change to the state of context `c` that tile `t` keeps, live or in its Sett (R222); none where the context is not
resident there. An image in the Sett whose CRC-64 does not match holds no state to change (DESIGN CHOICE, log 28). -/
def State.onCtx (s : State) (t : PTile) (c : Ctx) (f : TCtx → TCtx) : Option State :=
  let x := s.tile t
  if x.live = some c then some (s.modTc t f)
  else match x.sett with
    | some (c', q, none) => if c' = c then some (s.modTile t (fun x => { x with sett := some (c', f q, none) })) else none
    | _ => none

/-! ### FENCE (R81, R232) -/

/-- Whether CMASK names a class. -/
def namesClass (cmask : BitVec 16) (cls : Nat) : Bool := cmask.getLsbD cls

/-- A fence is done waiting when no earlier access of its KIND and of a class in CMASK is outstanding: `loads` and
`stores` say which kinds it orders; AMO and CAS are of both. -/
def State.fenced (s : State) (t : PTile) (cmask : BitVec 16) (loads stores : Bool) : Bool :=
  (s.tc t).fills.all (fun f => !f.isAccess || !namesClass cmask f.cls || !(loads || (stores && f.releases))) &&
  (s.tile t).sbuf.all (fun b => !stores || !namesClass cmask b.cls)

/-- A FENCE (R81, R232): its wait, then at PKG scope and wider the write-back of R89, 4. -/
def State.fence (s : State) (scope : BitVec 3) (cmask : BitVec 16) (loads stores : Bool) :
    Host.Outcome State Fault Refusal :=
  s.finish .c 2 (
    if !s.fenced s.cur cmask loads stores then holdE
    else .ok (if 4 ≤ scope.toNat then s.writeBackSet s.cur else s))

/-- FENCE.FULL. -/
def execFenceFull (scope : BitVec 3) (cmask : BitVec 16) (s : State) : Host.Outcome State Fault Refusal :=
  s.fence scope cmask true true
/-- FENCE.SS. -/
def execFenceSs (scope : BitVec 3) (cmask : BitVec 16) (s : State) : Host.Outcome State Fault Refusal :=
  s.fence scope cmask false true
/-- FENCE.LL. -/
def execFenceLl (scope : BitVec 3) (cmask : BitVec 16) (s : State) : Host.Outcome State Fault Refusal :=
  s.fence scope cmask true false

/-! ### Counters (R223, R233, R234) -/

/-- A status form pushes OK or ERR into CQC (R101). -/
def TCtx.status (c : TCtx) (st ok : Bool) : TCtx := if st then c.pushC ok (!ok) else c
/-- A status form waits for room in CQC (R101, R233). -/
def TCtx.statusRoom (c : TCtx) (st : Bool) : Except Halt Unit := if st then roomC c.cqc else .ok ()

/-- TWAIT (R225, R233): a met condition wins over a FAIL bit; the acquire needs no routing (R90). -/
def execTwait (ctr : BitVec 5) (st : Bool) (a : BitVec 4) (scope : BitVec 3) (ka : Bool) (s : State) :
    Host.Outcome State Fault Refusal :=
  s.finish .c 2 (do
    let c := s.tc s.cur
    let vs ← c.readQ [(a, ka)]
    c.statusRoom st
    if vs.getD 0 0 ≤ c.ctr ctr.toNat then
      .ok ((s.modTc s.cur (fun c => (c.popQ [(a, ka)]).status st true)).acquireCache s.cur scope.toNat)
    else if c.fails.getLsbD ctr.toNat then
      if st then .ok (s.modTc s.cur (fun c => (c.popQ [(a, ka)]).status true false))
      else trapE cPEERFAIL (ctr.setWidth 64)
    else waitE)

/-- TADD (R90, R223, R233): a release, eager at every scope; it writes back the release set first (R90). -/
def execTadd (ctr : BitVec 5) (st : Bool) (a : BitVec 4) (_scope : BitVec 3) (ka : Bool) (s : State) :
    Host.Outcome State Fault Refusal :=
  s.finish .c 2 (do
    let c := s.tc s.cur
    let vs ← c.readQ [(a, ka)]
    c.statusRoom st
    if !s.controlQuiet s.cur then holdE else
    .ok ((s.writeBackSet s.cur).modTc s.cur (fun c =>
      ((c.popQ [(a, ka)]).addCtr ctr.toNat (vs.getD 0 0)).status st (!c.fails.getLsbD ctr.toNat))))

/-- TREAD (R234): a reserved slot, filled with the counter as it stands now. -/
def execTread (d : BitVec 4) (ctr : BitVec 5) (s : State) : Host.Outcome State Fault Refusal :=
  s.finishTc .c 2 (do
    let c := s.tc s.cur
    c.roomQ [] [d]
    .ok (c.reserve d 0 0 (.value (c.ctr ctr.toNat))))

/-! ### WAITC (R226, R236) -/

/-- The load count of R226: LD, LDS, LDA, AMO, CAS, VLD and VLDX; PARM is not among them. -/
def State.loadCount (s : State) (t : PTile) : Nat :=
  ((s.tc t).fills.filter (fun f => f.isAccess && !(s.tc t).c.parms.contains f.seq)).length + (s.tc t).vloads.length
/-- The store count of R226. -/
def State.storeCount (s : State) (t : PTile) : Nat := (s.tile t).sbuf.length + (s.tc t).vstores.length
/-- The copy count of R226: the records of the running task (R204). -/
def TCtx.copyCount (c : TCtx) : Nat := (c.xrecs.filter (·.own)).length
/-- The tile-operation count of R226: MMA, MMAS, MDRAIN and MTOPK records from issue to completion (R161). -/
def TCtx.matrixCount (c : TCtx) : Nat :=
  (c.mq.filter (fun r => r.op = 6 || r.op = 7 || r.op = 9 || r.op = 11)).length

/-- WAITC: its wait counts as a stall. -/
def execWaitc (nl ns nc nt : BitVec 4) (s : State) : Host.Outcome State Fault Refusal :=
  s.finish .c 2 (
    let c := s.tc s.cur
    if s.loadCount s.cur ≤ nl.toNat && s.storeCount s.cur ≤ ns.toNat && c.copyCount ≤ nc.toNat &&
        c.matrixCount ≤ nt.toNat then .ok s
    else waitE)

/-! ### Groups (R227–R229, R237) -/

/-- A group slot of a tile context. -/
def TCtx.gslot (c : TCtx) (n : Nat) : GSlot := (aget c.gslots n).getD .reset
/-- A tile context with a change to a group slot. -/
def TCtx.modGslot (c : TCtx) (n : Nat) (f : GSlot → GSlot) : TCtx :=
  { c with gslots := aset c.gslots n (f (c.gslot n)) }

/-- The number of set bits among the 128 of a member set. -/
def count128 (b : BitVec 128) : Nat := ((List.range 128).filter (fun i => b.getLsbD i)).length

/-- Whether a group slot names entry g of die d. -/
def GSlot.names (x : GSlot) (d : Bool) (g : Nat) : Bool := x.valid && x.die = d && x.entry.toNat = g

/-- A change to the slots of logical member n that name the entry, which is told of each slot whether the tile's control engine
waits on it. A release does not reach the slots of a member whose image lies in memory: the load takes ARR and HELD as the image
has them (DESIGN CHOICE, log 51). -/
def State.modMember (s : State) (d : Bool) (g n : Nat) (f : Bool → GSlot → GSlot) : State :=
  let c := (s.group d g).ctx
  match s.mapTile c n with
  | none => s
  | some t =>
    let awaited := if (s.tile t).live = some c then s.awaitedSlot t else none
    (s.onCtx t c (fun q => { q with gslots := q.gslots.map (fun (e : Nat × GSlot) =>
      if e.2.names d g then (e.1, f (awaited = some e.1) e.2) else e) })).getD s

/-- Whether logical member n has an arrival held for the next phase. -/
def State.memberHeld (s : State) (d : Bool) (g n : Nat) : Bool :=
  let c := (s.group d g).ctx
  match s.mapTile c n with
  | none => false
  | some t =>
    let x := s.tile t
    let q : Option TCtx := if x.live = some c then some x.tc else
      match x.sett with
      | some (c', q, _) => if c' = c then some q else none
      | none => none
    match q with
    | some q => q.gslots.any (fun e => e.2.names d g && e.2.held)
    | none => false

/-- An arrival or a release reaches an entry: the progress count of each member that waits on it restarts, whether or not its
wait is met (R225, R396). -/
def State.heard (s : State) (d : Bool) (g : Nat) : State :=
  let x := s.group d g
  ((List.range 128).filter (fun n => x.members.getLsbD n)).foldl (fun s n =>
    match s.mapTile x.ctx n with
    | some t =>
      if (s.tile t).live = some x.ctx && (s.awaitedSlot t).any (fun k => ((s.tc t).gslot k).names d g) then s.progress t
      else s
    | none => s) s

/-- A slot of a member at a release (R229, 2): its arrival clears and a held one takes its place; a wait that this ends keeps how
the release ended (R237). -/
def GSlot.released (y : GSlot) (bad awaited : Bool) : GSlot :=
  { y with arr := y.held, held := false, fail := if awaited && y.arr && !y.held then some bad else y.fail }

/-- A release of an entry's phase, failed or not (R229, 2): PHASE flips, ARR of every member clears, and the held arrivals are
counted in the new phase. It is the entry's latest. -/
def State.releasePhase (s : State) (d : Bool) (g : Nat) (bad : Bool) : State :=
  let ms := (List.range 128).filter (fun n => (s.group d g).members.getLsbD n)
  let held := ms.filter (fun n => s.memberHeld d g n)
  let s := ms.foldl (fun s n => s.modMember d g n (fun awaited y => y.released bad awaited)) s
  let arr := held.foldl (fun (m : BitVec 128) n => m ||| (1#128 <<< n)) 0
  (s.modGroup d g (fun x => { x with phase := !x.phase, arr := arr, fail := bad })).heard d g

/-- One test of the release condition (R229, 2, 3, 5): where it is met the phase is released, failed where a member is. The
arrivals that this moves form a new event; `fuel` bounds them: a release leaves no arrival held, so two suffice. -/
def State.testRelease (s : State) (d : Bool) (g : Nat) : Nat → State
  | 0 => s
  | fuel + 1 =>
    let x := s.group d g
    let gone := x.failed &&& x.members
    if count128 x.arr + count128 (gone &&& ~~~x.arr) ≠ count128 x.members then s else
    let s := s.releasePhase d g (gone ≠ 0)
    if (s.group d g).arr = 0 then s else s.testRelease d g fuel

/-- An arrival of a tile through its slot (R229, 1): counted, or held where one is counted already. A member is counted once in a
phase, so an arrival through a second slot of the tile that names the entry sets that slot's ARR alone; and an entry that is not
VALID counts arrivals as one that is (DESIGN CHOICE, log 51). -/
def State.arrive (s : State) (t : PTile) (slot : Nat) : State :=
  let g := (s.tc t).gslot slot
  let s := s.heard g.die g.entry.toNat
  if g.arr then s.modTc t (fun c => c.modGslot slot (fun y => { y with held := true }))
  else
    let n := s.logical (liveCtx (s.tile t)) t
    let s := s.modTc t (fun c => c.modGslot slot (fun y => { y with arr := true }))
    let s := s.modGroup g.die g.entry.toNat (fun x => { x with arr := x.arr ||| (1#128 <<< n) })
    s.testRelease g.die g.entry.toNat 2

/-- The failed members of an entry. -/
def Group.gone (x : Group) : BitVec 128 := x.failed &&& x.members

/-- TVAL of PEERFAIL for a group (R231): bit 8, the entry, and the lowest failed member; 0 in its place where a rewrite has failed
the release and no member has (DESIGN CHOICE, log 51). -/
def groupVal (x : Group) (entry : Byte) : Dbl :=
  let low := ((List.range 128).find? (fun i => x.gone.getLsbD i)).getD 0
  0#41 ++ BitVec.ofNat 7 low ++ 0#7 ++ 1#1 ++ entry

/-- PROT for a slot that names no entry (R231, R237). -/
def State.slotOk (s : State) (slot : Nat) : Except Halt Unit :=
  if !((s.tc s.cur).gslot slot).valid then trapE cPROT (BitVec.ofNat 64 slot) else .ok ()

/-- The first half of GARV and GSYNC (R237): it waits while an arrival is held, which is no stall (R396: of GSYNC the wait for the
release alone is one; DEDUCED, log 47), and until what the release covers is performed; the set is written back first (R90). -/
def State.groupArrive (s : State) (slot : Nat) : Except Halt State :=
  let g := (s.tc s.cur).gslot slot
  if g.held || !s.controlQuiet s.cur then holdE
  else .ok ((s.writeBackSet s.cur).arrive s.cur slot)

/-- The second half of GWAIT and GSYNC (R237): it waits until no arrival of the tile is pending; a failed release pushes
ERR or traps PEERFAIL; otherwise an acquire at the entry's scope. The release is the one that ended its wait, or the entry's
latest where it found none to wait for. -/
def State.groupWait (s : State) (slot : Nat) (st : Bool) : Except Halt State :=
  let c := s.tc s.cur
  let g := c.gslot slot
  let x := s.group g.die g.entry.toNat
  let done (s : State) := s.modTc s.cur (fun c => c.modGslot slot (fun y => { y with fail := none, synced := false }))
  if g.arr || g.held then waitE
  else if g.fail.getD x.fail then
    if st then .ok ((done s).modTc s.cur (fun c => c.status true false))
    else trapE cPEERFAIL (groupVal x g.entry)
  else .ok (((done s).modTc s.cur (fun c => c.status st true)).acquireCache s.cur x.scope.toNat)

/-- GARV. -/
def execGarv (slot : BitVec 2) (st : Bool) (s : State) : Host.Outcome State Fault Refusal :=
  s.finish .c 1 (do
    let g := (s.tc s.cur).gslot slot.toNat
    s.slotOk slot.toNat
    (s.tc s.cur).statusRoom st
    let s' ← s.groupArrive slot.toNat
    .ok (s'.modTc s.cur (fun c => c.status st ((s'.group g.die g.entry.toNat).gone = 0))))

/-- GWAIT. -/
def execGwait (slot : BitVec 2) (st : Bool) (s : State) : Host.Outcome State Fault Refusal :=
  s.finish .c 1 (do
    s.slotOk slot.toNat
    (s.tc s.cur).statusRoom st
    s.groupWait slot.toNat st)

/-- GSYNC: its arrival happens once and stands through a wait or a trap (R237, R346), so a step that arrives and must then
wait keeps the arrival; a step after it performs only the wait. With st it arrives before it waits for room in CQC (DESIGN CHOICE,
log 47). -/
def execGsync (slot : BitVec 2) (st : Bool) (s : State) : Host.Outcome State Fault Refusal :=
  let n := slot.toNat
  let after (s' : State) : Host.Outcome State Fault Refusal :=
    s'.finish .c 1 (do
      (s'.tc s'.cur).statusRoom st
      s'.groupWait n st)
  if ((s.tc s.cur).gslot n).synced then after s
  else match (do s.slotOk n; s.groupArrive n) with
    | .ok s' => after (s'.modTc s.cur (fun c => c.modGslot n (fun y => { y with synced := true })))
    | .error e => s.finish .c 1 (.error e)

end Sys2Proof.Machine
end

