-- ==== Sys2Proof/Machine/TaskOps.lean ====
section
/-! DEFINITION. Task instructions (11_task_class.md, R259–R270): FORK, RDV, EXIT, CHKP, PARM, WINSET. -/

namespace Sys2Proof.Machine

/-- Nothing that the vector engine issued is outstanding. -/
def State.vectorQuiet (s : State) (t : PTile) : Bool := (s.tc t).vloads.isEmpty && (s.tc t).vstores.isEmpty
/-- No matrix record is incomplete (R161). -/
def State.matrixQuiet (s : State) (t : PTile) : Bool := (s.tc t).mq.isEmpty && (s.tc t).drain.isNone
/-- No copy record of the running task is incomplete (R204). -/
def State.copyQuiet (s : State) (t : PTile) : Bool := (s.tc t).copyCount = 0

/-- A tile context in which an engine stands at an RDV or an EXIT. -/
def State.meetAt (s : State) (t : PTile) (e : Eng) (m : Meet) : State :=
  s.modTc t (fun c => c.modEng e (fun g => { g with meet := m }))

/-- Whether every engine of the walking set stands at the same meeting (R260). -/
def TCtx.allMeet (c : TCtx) (m : Meet) : Bool := c.walkers.all (fun e => (c.eng e).meet = m)

/-- The walking engines with a change made to each. -/
def TCtx.eachWalker (c : TCtx) (f : Engine → Engine) : TCtx := c.walkers.foldl (fun c e => c.modEng e f) c

/-- FORK (R259, R261, R263): where it starts an engine, a release, which waits for the control stream's earlier accesses and before
which a set above 4,096 lines is written back (R89, 2); each named engine that does not walk starts at the FORK, and every walk
count returns to 0. ILLEGAL while a handler runs (R347). -/
def execFork (v m x : Bool) (s : State) : Host.Outcome State Fault Refusal :=
  let t := s.cur
  let c := s.tc t
  let named := (([(v, .v), (m, .m), (x, .x)] : List (Bool × Eng)).filter (·.1)).map (·.2)
  let new := named.filter (fun e => !(c.eng e).walking)
  if c.inh then s.finish .c 1 (illegalE (.fork v m x))
  else if !new.isEmpty && !s.controlQuiet t then s.finish .c 1 holdE
  else
    let s := if new.isEmpty then s else s.capSet t
    let start (c : TCtx) : TCtx :=
      new.foldl (fun q e => q.modEng e (fun _ => { Engine.reset with pc := c.c.pc, walking := true })) c
    .next (((s.modTc t start).advance t .c 1 false).modTc t (fun q => q.eachWalker (fun g => { g with count := 0 })))

/-- What an RDV waits for (R82): every access issued before it is performed for the tile. -/
def State.rdvQuiet (s : State) (t : PTile) : Bool :=
  s.controlQuiet t && s.vectorQuiet t && s.matrixQuiet t && s.copyQuiet t

/-- RDV (R82, R260, R261, R264): the control engine stands at it; it completes when every engine of the walking set stands
at one and R82 holds; then each goes on from its own, and every walk count returns to 0. ILLEGAL while a handler runs
(R347). -/
def execRdv (s : State) : Host.Outcome State Fault Refusal :=
  let t := s.cur
  if (s.tc t).inh then s.finish .c 1 (illegalE .rdv) else
  let s := s.meetAt t .c .rdv
  if (s.tc t).allMeet .rdv && s.rdvQuiet t then
    .next ((s.modTc t (fun q => q.eachWalker (fun g =>
      { g with pc := pcAdd g.pc 1, meet := .none, waiting := false, count := 0, fetched := [] }))).progress t)
  else .next s

/-- The launch blocks of an EXIT's successors, with the checks of R265 in order: ALIGN, PAGE, PROT, and R240 as PROT. The
reads are of class 15, so they wait for the control stream's earlier accesses; they go to the die's L2, past the control data
cache (DESIGN CHOICE, log 60), which gives up its copy of the line (R79). -/
def State.successors (s : State) (t : PTile) : List Dbl → Except Halt (State × List (Dbl × Rec))
  | [] => .ok (s, [])
  | a :: rest => do
    if a.extractLsb' 0 6 ≠ 0#6 then trapE cALIGN a else
    if 2 ^ 56 ≤ a.toNat then trapE cPROT a else
    let (s, at_) ← s.locate t a 64 accR
    if !s.controlQuiet t then holdE else
    let b := recOf (s.readLoc t at_ 64)
    let s := (s.sees t at_ 64).dropCached t at_
    if !blockOk b then trapE cPROT a else
    let (s, more) ← s.successors t rest
    .ok (s, (a, b) :: more)

/-- What an EXIT waits for (R248). -/
def State.exitQuiet (s : State) (t : PTile) : Bool :=
  s.controlQuiet t && (s.tc t).fills.isEmpty && s.vectorQuiet t && s.matrixQuiet t

/-- The launch block of the running task. -/
def TCtx.block (c : TCtx) : Rec := (c.task.map (·.lb)).getD ⟨0, 0, 0, 0, 0, 0, 0, 0⟩

/-- An EXIT that has read its successors' blocks: the control engine stands at it until every walking engine stands at an
EXIT, R248 holds and enough slots are free, and keeps the blocks; then the pending vector writes have landed (R129), the
addresses are popped, the successors are admitted with the parent's TAG, and every walk stops. With WDRAW set the successors
and ABS are ignored. -/
def State.exitWith (s : State) (t : PTile) (w : ExitWait) : State :=
  let d := dieOf t
  let c := s.tc t
  let blocks := if c.wdraw then [] else w.read
  let slot := (c.task.map (·.slot.toNat)).getD 0
  let s := s.meetAt t .c .exit
  if !((s.tc t).allMeet .exit && s.exitQuiet t && blocks.length ≤ s.freeSlots d) then
    s.modTc t (fun c => c.modEng .c (fun g => { g with exit := some w }))
  else
    let s := s.modTc t (fun q => (q.landAll).popQ (exitReads w.nsucc w.a))
    let age := ((s.slot d slot).map (·.age)).getD 0
    let s := blocks.foldl (fun s b =>
      s.admitTask d (liveCtx (s.tile t)) (withTag b.2 (tagOf c.block)) b.1 (.exit age) none 0) s
    let s := s.modSlot d slot (fun k =>
      { k with exited := true, absRange := if w.abs && !c.wdraw then some w.wri else none })
    (s.modTc t (fun q => q.eachWalker (fun g => { g.drop with walking := false, waiting := false, meet := .none }))).progress t

/-- The retirement of an EXIT that waits (R265). -/
def State.retireExit (s : State) (t : PTile) : State :=
  match (s.tc t).c.exit with
  | some w => if (s.tile t).stop = .none && s.clocked t then s.exitWith t w else s
  | none => s

/-- EXIT (R248, R260, R265): it reads its successors' addresses, reads and checks their blocks, and goes on with them. ILLEGAL
while a handler runs (R347). -/
def execExit (nsucc : BitVec 3) (abs : Bool) (wri : BitVec 2) (a : BitVec 4) (s : State) :
    Host.Outcome State Fault Refusal :=
  let t := s.cur
  let c := s.tc t
  let badAbs := abs && !((rangesOf c.block).any (fun g => g.idx = wri.toNat && g.write))
  let r : Except Halt (State × List (Dbl × Rec)) :=
    if c.inh || badAbs then illegalE (.exit nsucc abs wri a) else do
      let vs ← c.readQ (exitReads nsucc a)
      if c.wdraw then .ok (s, []) else s.successors t vs
  match r with
  | .error .wait => .next (s.stand t .c)
  | .error .hold => .next (s.meetAt t .c .exit)
  | .error (.trap k) => .next ((s.touch t accR k).takeTrap t .c .fault k)
  | .ok (s, read) => .next (s.exitWith t ⟨nsucc, abs, wri, a, read⟩)

/-- A pre-emption request is pending in PREQ, or the running task has been withdrawn (R267). -/
def State.asked (s : State) (t : PTile) : Bool := !(s.tile t).reqs.isEmpty || (s.tc t).wdraw

/-- CHKP (R267). -/
def execChkp (s : State) : Host.Outcome State Fault Refusal :=
  s.finishTc .c 1 (do
    let c := s.tc s.cur
    roomC c.cqc
    .ok (c.pushC (s.asked s.cur) false))

/-- PARM (R269): a pending load of class 15 at ENG scope of the double at D2 + 8w. -/
def execParm (d : BitVec 4) (w : BitVec 6) (s : State) : Host.Outcome State Fault Refusal :=
  s.finishAt .c 2 accR (do
    let c := s.tc s.cur
    c.roomQ [] [d]
    let lb := (c.task.map (·.lb)).getD ⟨0, 0, 0, 0, 0, 0, 0, 0⟩
    let a := (lb.d2 &&& 0x00FFFFFFFFFFFFC0#64) + 8 * w.setWidth 64
    if 2 ^ 56 ≤ a.toNat then trapE cPROT a else
    let (s', at_) ← s.locate s.cur a 8 accR
    .ok (s'.modTc s.cur (fun c => c.reserve d 15 0 (.load at_ 8 false false))))

/-- WINSET (R270). -/
def execWinset (n : BitVec 8) (s : State) : Host.Outcome State Fault Refusal :=
  s.finishTc .c 2 (.ok { s.tc s.cur with win := winOf n.toNat })

end Sys2Proof.Machine
end

