-- ==== Sys2Proof/Machine/Fetch.lean ====
section
/-! DEFINITION. The walk of an engine (R34–R38, R50–R52, R261), but for running the instruction: what an engine finds at the
address its walk has reached. -/

namespace Sys2Proof.Machine

/-- The bit of FOLLOW that names an engine (R37). -/
def followBit : Eng → Nat | .v => 4 | .m => 3 | .x => 2 | .c => 0

/-- The control instructions whose FOLLOW an engine heeds (R37): B, BT, BF, CALL, RET, LOOP, JFRAG. -/
def isFollowed (op : BitVec 6) : Bool := (0x11 ≤ op.toNat && op.toNat ≤ 0x16) || op.toNat = 0x3A

/-- What an engine does at an instruction, from its first parcel (R37). -/
inductive Meeting where
  | own | rdv | exit | followed | foreign
  deriving DecidableEq, Repr

/-- See `Meeting`. -/
def meetingOf (e : Eng) (p0 : Parcel) : Meeting :=
  if p0Eng p0 = engCode e then .own
  else if p0Eng p0 ≠ 0 then .foreign
  else if (p0Op p0).toNat = 0x2A then .rdv
  else if (p0Op p0).toNat = 0x2B then .exit
  else if isFollowed (p0Op p0) && p0.getLsbD (followBit e) then .followed
  else .foreign

/-- An engine passes a foreign instruction (R37, R261): its walk count rises by the parcels, but for FORK. -/
def State.pass (s : State) (t : PTile) (e : Eng) (p0 : Parcel) : State :=
  let fork : Bool := p0Eng p0 = 0 && (p0Op p0).toNat = 0x29
  s.modTc t (fun c => c.modEng e (fun g =>
    { g with pc := pcAdd g.pc (parcelCount p0), waiting := false
             count := if fork || c.inh then g.count else g.count + parcelCount p0 }))

/-- The slip window (R261): the engine's count exceeds the lowest of the walking set by WIN. -/
def TCtx.slipped (c : TCtx) (e : Eng) : Bool :=
  let low := c.walkers.foldl (fun m g => min m (c.eng g).count) (c.eng e).count
  !c.inh && low + c.win ≤ (c.eng e).count

/-- Whether an engine's task runs (R259, R346–R348, R360, R385): a task runs, nothing has stopped the tile, no MCHECK of its own
access is to come (R387), the island has its clocks, the engine walks; while a handler runs only the control engine does (R347). -/
def State.mayRun (s : State) (t : PTile) (e : Eng) : Bool :=
  let x := s.tile t
  x.live.isSome && x.tc.task.isSome && x.stop = .none && x.bad.isNone && s.clocked t && (x.tc.eng e).walking && (!x.tc.inh || e = .c)

/-- Whether the control engine issues nothing before the next ck: the vector engine has reserved a slot or begun an access
since the ck began or the control engine last issued. In one ck the control engine's push takes the earlier slot (R100). -/
def TCtx.ckDone (c : TCtx) (e : Eng) : Bool := e = .c && c.c.mark < c.seq

/-- Whether an own instruction hands an entry to another engine, a release at TILE scope (R83), by its first parcel: VCMPQ,
VTEST and VMOVQ, and a branch that tells a follower. -/
def handsOff (e : Eng) (p0 : Parcel) : Bool :=
  match e with
  | .c => isFollowed (p0Op p0) && p0.extractLsb' 2 3 ≠ 0#3
  | .v => (p0Op p0).toNat = 0x1B || (p0Op p0).toNat = 0x1C || (p0Op p0).toNat = 0x1D || (p0Op p0).toNat = 0x32
  | _ => false

/-- Whether the instruction at which an engine stands may issue now, by its first parcel: no hand-off while the release set is
above 4,096 lines (R89, 2). -/
def State.inTurn (s : State) (t : PTile) (e : Eng) : Bool :=
  match s.headAt t e with
  | .error _ => true
  | .ok (_, p0) =>
    meetingOf e p0 ≠ .own || !(handsOff e p0 && 4096 < (s.tile t).rset.length)

/-- Whether an engine may take a step now: it runs and is within the slip window (R261); it does not stand at an EXIT that
waits to retire, nor, but for the control engine, at an RDV or EXIT at all (R37); the ck is not past its turn; each set of the die's L2 holds no more than
its 16 ways (R12); and its instruction may issue. -/
def State.mayWalk (s : State) (t : PTile) (e : Eng) : Bool :=
  let c := s.tc t
  s.mayRun t e && !c.slipped e && !c.ckDone e && !(e = .c && c.c.exit.isSome) &&
    (e = .c || (c.eng e).meet = .none) && (s.overfull (dieOf t)).isEmpty && s.inTurn t e

/-- What an engine's step finds before it runs anything: it does nothing, it goes on to `s`, or it has an own instruction's
parcels to decode. -/
inductive Found where
  | stop (s : State)
  | parcels (s : State) (ps : List Parcel)
  deriving DecidableEq, Repr

/-- A halt at a fetch. -/
def State.fetchHalt (s : State) (t : PTile) (e : Eng) : Halt → State
  | .trap k =>
    let va : Dbl := (k.tval.extractLsb' 0 48).setWidth 64
    (if k.code ≠ cFETCH then s
     else if k.tval.extractLsb' 60 4 = 3#4 then s.touch t accX ⟨cPROT, va⟩
     else if k.tval.extractLsb' 60 4 = 2#4 then s.touch t accX ⟨cPAGE, va⟩
     else s).takeTrap t e .fault k
  | _ => s

/-- An engine keeps the parcels of the instruction at which it stands, until it goes on or stops (R37). -/
def State.keepText (s : State) (t : PTile) (e : Eng) (ps : List Parcel) : State :=
  s.modTc t (fun c => c.modEng e (fun g => { g with fetched := ps }))

/-- OUTCOME_POP (R37, R103) of an engine of the acting tile, where its walk has reached a followed branch. -/
def execOutcomePop (e : Eng) (s : State) : Host.Outcome State Fault Refusal :=
  let t := s.cur
  if !s.mayWalk t e then .next s else
  match s.headAt t e with
  | .error h => .next (s.fetchHalt t e h)
  | .ok (s', p0) => if meetingOf e p0 = .followed then (s'.keepText t e [p0]).popOutcome t e p0 else .next s

/-- An engine stands at an EXIT: as the vector engine reaches it every pending write lands (R129); one to a register that a vector
load in flight is to write lands with the load's, in the order of R126, before EXIT retires. -/
def State.reachExit (s : State) (t : PTile) (e : Eng) : State :=
  (if e = .v then s.modTc t (·.landClear) else s).meetAt t e .exit

/-- An engine stands at an RDV of as many parcels as LEN says: another engine than the control engine passes it as written,
whatever its length (R37, R49). Its pc stands before the last parcel. -/
def State.reachRdv (s : State) (t : PTile) (e : Eng) (p0 : Parcel) : State :=
  s.modTc t (fun c => c.modEng e (fun g =>
    { g with meet := .rdv, span := parcelCount p0 - 1, pc := pcAdd g.pc (parcelCount p0 - 1) }))

/-- The walk of one engine up to its own instruction (R37, R38): foreign text is passed, an RDV or EXIT of the control
engine is stood at, a followed branch takes its outcome. -/
def State.walkTo (s : State) (t : PTile) (e : Eng) : Found :=
  let s := { s with cur := t }
  if !s.mayRun t e then .stop s
  else if (s.tc t).slipped e then .stop (s.stand t e)
  else if !s.mayWalk t e then .stop s
  else
    match s.headAt t e with
    | .error h => .stop (s.fetchHalt t e h)
    | .ok (s', p0) =>
      match meetingOf e p0 with
      | .foreign => .stop (s'.pass t e p0)
      | .rdv => .stop (s'.reachRdv t e p0)
      | .exit => .stop (s'.reachExit t e)
      | .followed =>
        match (s'.keepText t e [p0]).popOutcome t e p0 with
        | .next s => .stop s
        | _ => .stop s'
      | .own =>
        match s'.tailAt t e p0 with
        | .error h => .stop (s'.fetchHalt t e h)
        | .ok (s'', ps) => .parcels (s''.keepText t e (p0 :: ps)) (p0 :: ps)

end Sys2Proof.Machine
end

