-- ==== Sys2Proof/Machine/QueueOps.lean ====
section
/-! DEFINITION. Hardware queues (14_queue_class.md, R277–R298): placement, takes, refills, ENQ, DEQ, QSTAT, admission from
work queues, and the Benrek messages NOTIFY and ENQUEUE. -/

namespace Sys2Proof.Machine

/-! ### Handles and rings -/

/-- The handle of queue slot n of a die (R278). -/
def State.handle (s : State) (d : Bool) (n : Nat) : Dbl :=
  0#20 ++ s.node ++ bit d 1 ++ BitVec.ofNat 9 n ++ (s.queue d n).gen

/-- A queue handle's die and slot, where it names a live queue of this package (R278, apart from context). -/
def State.liveQueue (s : State) (h : Dbl) : Option (Bool × Nat) :=
  let d := h.getLsbD 25
  let n := (h.extractLsb' 16 9).toNat
  let q := s.queue d n
  if h.extractLsb' 44 20 = 0#20 && h.extractLsb' 26 18 = s.node && q.valid && q.gen = h.extractLsb' 0 16 then some (d, n)
  else none

/-- RCOUNT (R280). -/
def Queue.rcount (q : Queue) : Nat := (q.tail - q.head).toNat
/-- The records that the ring holds when full. -/
def Queue.rcap (q : Queue) : Nat := 2 ^ q.rlog2.toNat
/-- The address of ring index i (R280). -/
def Queue.ringVa (q : Queue) (i : BitVec 32) : Nat := q.rbase.toNat + 64 * (i.toNat % q.rcap)

/-- A queue engine's access to a ring line, through the owning context's page tables (R280). A line in a window range,
or at 2^56 or more, is not reached, and the access fails with PROT (DESIGN CHOICE, log 35). -/
def State.ringAt (s : State) (d : Bool) (n : Nat) (i : BitVec 32) (acc : Acc) : Except Cause (State × Nat) :=
  let q := s.queue d n
  s.translate d none q.ctx (q.ringVa i) acc (BitVec.ofNat 64 (q.ringVa i))

/-- An arrival or a take restarts the progress count of a tile whose ENQ or DEQ awaits the queue (R293, R396). -/
def State.queueMoved (s : State) (d : Bool) (n : Nat) : State :=
  { s with tiles := s.tiles.map (fun e =>
      if e.2.tc.c.await.map (·.1) = some (512 * d.toNat + n) && e.2.tc.c.waiting then (e.1, { e.2 with prog := 0 }) else e) }

/-- The event of an arrival at a queue that is not resident (R284): a report of kind 5. -/
def State.informAbatal (s : State) (d : Bool) (n : Nat) : State :=
  s.report (s.queue d n).ctx 0 ⟨5, 0, 0, s.handle d n, 0, 0, 0, 0, 0, 0⟩

/-- What the translation of a ring line that fails has set (R395). -/
def State.ringTouch (s : State) (d : Bool) (n : Nat) (acc : Acc) (c : Cause) : State :=
  s.touchAs d none (s.queue d n).ctx acc c

/-- A ring read that faults (R285): FAULTED and a report of kind 4; nothing else changes. -/
def State.ringFault (s : State) (d : Bool) (n : Nat) (c : Cause) : State :=
  ((s.ringTouch d n accR c).modQueue d n (fun q => { q with faulted := true })).report (s.queue d n).ctx 0
    ⟨4, 0, c.code, s.handle d n, 0, c.tval, 0, 0, 0, 0⟩

/-- Where an arriving record goes (R281, R284): on the die, to the ring, or nowhere. -/
inductive Placement where
  | onDie | ring | full
  deriving DecidableEq, Repr

/-- See `Placement`. -/
def Queue.placement (q : Queue) : Placement :=
  if q.res && !q.spill && q.recs.length < 32 then .onDie
  else if q.rcap ≤ q.rcount then .full
  else .ring

/-- Place a record that can be placed (R281). -/
def State.place (s : State) (d : Bool) (n : Nat) (r : Rec) : Except Cause State :=
  match (s.queue d n).placement with
  | .onDie => .ok ((s.modQueue d n (fun q => { q with recs := q.recs ++ [r] })).queueMoved d n)
  | _ =>
    match s.ringAt d n (s.queue d n).tail accW with
    | .error c => .error c
    | .ok (s, pa) =>
      .ok (((s.homeWrite pa (recBytes r)).modQueue d n (fun q =>
        { q with tail := q.tail + 1, spill := q.spill || q.res })).queueMoved d n)

/-- The work-queue event of R284 for a record placed by a tile. -/
def State.afterPlace (s : State) (d : Bool) (n : Nat) : State :=
  let q := s.queue d n
  if !q.res && q.work then s.informAbatal d n else s

/-- What a take finds (R283–R285). -/
inductive Take where
  | got (s : State) (r : Rec)
  | notYet
  | empty
  | faulted (s : State)
  deriving DecidableEq, Repr

/-- A take of the head record (R283–R285): it waits for a refill in flight, whether or not the queue has faulted since (R297). -/
def State.take (s : State) (d : Bool) (n : Nat) : Take :=
  let q := s.queue d n
  if q.res then
    match q.recs with
    | r :: rest => .got ((s.modQueue d n (fun q => { q with recs := rest })).queueMoved d n) r
    | [] => if q.refill.isSome then .notYet else if q.faulted then .faulted s else if q.rcount = 0 then .empty else .notYet
  else if q.faulted then .faulted s
  else if q.rcount = 0 then .empty
  else match s.ringAt d n q.head accR with
    | .error c => .faulted (s.ringFault d n c)
    | .ok (s, pa) =>
      let r := recOf (s.physBytes d pa 64)
      let s := s.unitReads q.ctx pa (BitVec.ofNat 64 (q.ringVa q.head))
      .got ((s.modQueue d n (fun q => { q with head := q.head + 1 })).queueMoved d n) r

/-! ### ENQ, DEQ, QSTAT (R294–R298) -/

/-- The check of a handle for a tile (R278): QHANDLE with the handle. -/
def State.checkHandle (s : State) (h : Dbl) (noWork : Bool) : Except Halt (Bool × Nat) :=
  match s.liveQueue h with
  | none => trapE cQHANDLE h
  | some (d, n) =>
    let q := s.queue d n
    if some q.ctx ≠ (s.tile s.cur).live || (noWork && q.work) then trapE cQHANDLE h else .ok (d, n)

/-- An ENQ or DEQ issues at a hardware queue: it reserves its slots, once, before any wait (R97, R346). -/
def State.issueQueue (s : State) (q : Bool × Nat) (ws : List (BitVec 4)) : State :=
  s.modTc s.cur (fun c =>
    if c.c.await.isSome then c else
    let r := ws.foldl (fun c w => { c.setQ w (c.q w ++ [.reserved c.seq]) with seq := c.seq + 1 }) c
    { r with c := { r.c with await := some (512 * q.1.toNat + q.2, c.seq), mark := r.seq } })

/-- The values of the slots that an ENQ or DEQ has reserved are on their way (R97). -/
def TCtx.fillIssued (c : TCtx) (vs : List Dbl) : TCtx :=
  let id := (c.c.await.map (·.2)).getD 0
  { c with fills := c.fills ++ vs.mapIdx (fun i v => ⟨id + i, id + i, 0, 0, .value v⟩) }

/-- An ENQ or DEQ that has issued already has room for its results (R99). -/
def TCtx.roomIssue (c : TCtx) (rs : List Src) (ws : List (BitVec 4)) : Except Halt Unit :=
  if c.c.await.isSome then .ok () else c.roomQ rs ws

/-- ENQ (R296): status 0 placed, 1 full, 2 faulted. A placed record is a release at PKG scope, eager (R286): it waits for
the control stream's earlier accesses and writes back the set first. Its status slot is reserved while it waits (R97). -/
def execEnq (d a b : BitVec 4) (ka wait : Bool) (s : State) : Host.Outcome State Fault Refusal :=
  let t := s.cur
  let c := s.tc t
  let rs := enqReads a b ka
  let status (s : State) (v : Dbl) : State := s.modTc t (fun c => (c.popQ rs).fillIssued [v])
  match (do
    let vs ← c.readQ rs
    c.roomIssue rs [d]
    let q ← s.checkHandle (vs.getD 0 0) false
    .ok (vs, q)) with
  | .error h => s.finish .c 2 (.error h)
  | .ok (vs, q) =>
    let s := s.issueQueue q [d]
    let x := s.queue q.1 q.2
    if x.faulted then s.finish .c 2 (.ok (status s 2))
    else if x.placement = .full then
      s.finish .c 2 (if wait then waitE else .ok (status s 1))
    else if !s.controlQuiet t then s.finish .c 2 holdE
    else
      let r : Rec := ⟨vs.getD 1 0, vs.getD 2 0, vs.getD 3 0, vs.getD 4 0, vs.getD 5 0, vs.getD 6 0, vs.getD 7 0,
        vs.getD 8 0⟩
      match (s.writeBackSet t).place q.1 q.2 r with
      | .error k => (s.ringTouch q.1 q.2 accW k).finish .c 2 (.error (.trap k))
      | .ok s' => s.finish .c 2 (.ok (status (s'.afterPlace q.1 q.2) 0))

/-- DEQ (R297): a record taken fills the eight slots and is an acquire at PKG scope; an empty or faulted queue fills
zeros. With WAIT every wait counts as a stall, that for a refill among them (R293). Its slots are reserved while it waits (R97). -/
def execDeq (d a : BitVec 4) (ka wait : Bool) (s : State) : Host.Outcome State Fault Refusal :=
  let t := s.cur
  let c := s.tc t
  let ws := (List.range 8).map (fun i => d + BitVec.ofNat 4 i)
  let fill (s : State) (vs : List Dbl) (value err : Bool) : State :=
    s.modTc t (fun c => ((c.popQ [(a, ka)]).fillIssued vs).pushC value err)
  match (do
    let vs ← c.readQ [(a, ka)]
    c.roomIssue [(a, ka)] ws
    let q ← s.checkHandle (vs.getD 0 0) true
    roomC c.cqc
    .ok q) with
  | .error h => s.finish .c 2 (.error h)
  | .ok q =>
    let s := s.issueQueue q ws
    let none_ := List.replicate 8 (0 : Dbl)
    match s.take q.1 q.2 with
    | .got s r => s.finish .c 2 (.ok ((fill s (recDoubles r) true false).acquireCache t 4))
    | .faulted s => s.finish .c 2 (.ok (fill s none_ false true))
    | .notYet => s.finish .c 2 (if wait then waitE else holdE)
    | .empty => s.finish .c 2 (if wait then waitE else .ok (fill s none_ false false))

/-- QSTAT (R298). -/
def execQstat (d a : BitVec 4) (ka : Bool) (s : State) : Host.Outcome State Fault Refusal :=
  s.finish .c 2 (do
    let c := s.tc s.cur
    let vs ← c.readQ [(a, ka)]
    c.roomQ [(a, ka)] [d]
    let q ← s.checkHandle (vs.getD 0 0) false
    let x := s.queue q.1 q.2
    let v : Dbl := 0#23 ++ BitVec.ofNat 25 x.rcount ++ 0#6 ++ bit x.work 1 ++ bit x.res 1 ++ bit x.faulted 1 ++
      bit x.spill 1 ++ BitVec.ofNat 6 x.recs.length
    .ok (s.modTc s.cur (fun c => (c.popQ [(a, ka)]).reserve d 0 0 (.value v))))

/-! ### Refills (R282, R285) -/

/-- Read `n` ring records from index i upward. -/
def State.ringRead (s : State) (d : Bool) (q : Nat) : Nat → BitVec 32 → Except Cause (State × List Rec)
  | 0, _ => .ok (s, [])
  | n + 1, i => do
    let (s, pa) ← s.ringAt d q i accR
    let r := recOf (s.physBytes d pa 64)
    let s := s.unitReads (s.queue d q).ctx pa (BitVec.ofNat 64 ((s.queue d q).ringVa i))
    let (s, rs) ← s.ringRead d q n (i + 1)
    .ok (s, r :: rs)

/-- REFILL_START. -/
def execRefillStart (die : Bool) (slot : BitVec 9) (s : State) : Host.Outcome State Fault Refusal :=
  let n := slot.toNat
  let q := s.queue die n
  if q.valid && q.res && q.spill && !q.faulted && q.refill.isNone && 0 < q.rcount && q.recs.length ≤ 24 then
    match s.ringRead die n (min 8 q.rcount) q.head with
    | .error c => .next (s.ringFault die n c)
    | .ok (s, rs) => .next (s.modQueue die n (fun q => { q with refill := some rs }))
  else .next s

/-- REFILL_COMPLETE; an empty slot has none in flight, whatever its REFILL has stored. -/
def execRefillComplete (die : Bool) (slot : BitVec 9) (s : State) : Host.Outcome State Fault Refusal :=
  let n := slot.toNat
  match (s.queue die n).refill.filter (fun _ => (s.queue die n).valid) with
  | none => .next s
  | some rs => .next ((s.modQueue die n (fun q =>
      let q := { q with recs := q.recs ++ rs, head := q.head + BitVec.ofNat 32 rs.length, refill := none }
      if q.rcount = 0 then { q with spill := false } else q)).queueMoved die n)

/-! ### Admission from work queues (R287–R289) -/

/-- A resident work queue (R287). -/
def Queue.frontEnd (q : Queue) : Bool := q.valid && q.work && q.res
/-- An eligible queue (R287). -/
def Queue.eligible (q : Queue) : Bool := q.frontEnd && !q.faulted && !q.recs.isEmpty && 0 < q.deficit

/-- DEFICIT saturates at ±2^62 (R277). -/
def satDeficit (v : Int) : Int := max (-(2 ^ 62)) (min (2 ^ 62) v)

/-- DEFICIT of a resident work queue after `k` ends of a round, 1 or more (R287): WEIGHT is added at each, and a queue with no
record has a positive DEFICIT set to 0 before. -/
def Queue.afterRounds (q : Queue) (k : Nat) : Int :=
  let w : Int := q.weight.toNat
  if q.recs.isEmpty && q.rcount = 0 && q.refill.isNone then
    let v := min q.deficit 0
    if 0 < v + (k - 1 : Nat) * w then w else satDeficit (v + k * w)
  else satDeficit (q.deficit + k * w)

/-- `k` rounds end, one after another (R287). -/
def State.endRounds (s : State) (d : Bool) (k : Nat) : State :=
  s.modDie d (fun x => { x with feptr := 0, queues := x.queues.map (fun e =>
    if e.2.frontEnd then (e.1, { e.2 with deficit := e.2.afterRounds k }) else e) })

/-- The rounds that end before a queue is eligible (R287): one, and while its DEFICIT stays at or below 0 further ones, which
its WEIGHT must end; none where no round makes it eligible. -/
def Queue.roundsTo (q : Queue) : Option Nat :=
  if !q.frontEnd || q.faulted || q.recs.isEmpty then none
  else if 0 < q.deficit then some 1
  else if q.weight = 0 then none
  else some ((-q.deficit).toNat / q.weight.toNat + 1)

/-- The rounds that end at once because nothing is eligible (R287): until the first queue is. Where no number of rounds makes
one so, one round ends (DESIGN CHOICE, log 35). -/
def State.rounds (s : State) (d : Bool) : Nat :=
  let ks := (s.die d).queues.filterMap (fun e => e.2.roundsTo)
  match ks with
  | [] => 1
  | k :: r => r.foldl min k

/-- Whether a resident work queue of a die holds a record: no round runs otherwise (R287). -/
def State.anyRecord (s : State) (d : Bool) : Bool :=
  (s.die d).queues.any (fun e => e.2.frontEnd && !(e.2.recs.isEmpty && e.2.rcount = 0))

/-- The pointer moves past a slot; past the last it returns to 0 and a round ends, where a queue still holds a record. -/
def State.passSlot (s : State) (d : Bool) (n : Nat) : State :=
  if n + 1 < 512 then s.modDie d (fun x => { x with feptr := n + 1 })
  else if s.anyRecord d then s.endRounds d 1
  else s.modDie d (fun x => { x with feptr := 0 })

/-- The head record of an eligible queue is admitted, or refused and reported (R287, R288). -/
def State.admitHead (s : State) (d : Bool) (n : Nat) : State :=
  let q := s.queue d n
  match q.recs with
  | [] => s
  | r :: rest =>
    let h := s.handle d n
    let s := (s.modQueue d n (fun q => { q with recs := rest, admitted := q.admitted + 1 })).queueMoved d n
    if blockOk r then
      (s.admitTask d q.ctx (withTag r (h.extractLsb' 0 26 |>.setWidth 32)) 0 (.queue (BitVec.ofNat 9 n) q.gen q.admitted) none 0)
        |>.passSlot d n
    else (s.report q.ctx 0 ⟨2, 0, cPROT, 0, 0, h, 0, 0, 0, 0⟩).modDie d (fun x => { x with feptr := n })

/-- The first eligible slot from the pointer on. -/
def State.nextEligible (s : State) (d : Bool) : Option Nat :=
  (List.range 512).find? (fun i => (s.die d).feptr ≤ i && (s.queue d i).eligible)

/-- WORK_QUEUE_ADMISSION (R287): one admission opportunity of a die's front end; rounds that end because nothing is eligible
take no time. -/
def execWorkQueueAdmission (die : Bool) (s : State) : Host.Outcome State Fault Refusal :=
  if s.freeSlots die ≤ 256 || !s.anyRecord die then .next s else
  match s.nextEligible die with
  | some n => .next (s.admitHead die n)
  | none =>
    let s := s.endRounds die (s.rounds die)
    match s.nextEligible die with
    | some n => .next (s.admitHead die n)
    | none => .next s

/-! ### Benrek messages (R290, R291) -/

/-- A message that fails its check of tag or sequence is counted in NACKS (R291). -/
def State.nackAuth (s : State) (die : Bool) (d : Bool) (n : Nat) (h : Dbl) (seq : BitVec 32) : State :=
  (s.modQueue d n (fun q => { q with nacks := if q.nacks = 0xFFFFFFFF#32 then q.nacks else q.nacks + 1 })).send
    (.nack die 1 h seq)

/-- The first three checks of R291; `mac` is the MAC input. A context in its final migration round is answered STALE
(R389). -/
def State.messageCheck (s : State) (die : Bool) (h : Dbl) (seq : BitVec 32) (tag : Dbl) (mac : List Byte) :
    Except State (Bool × Nat) :=
  match s.liveQueue h with
  | none => .error (s.send (.nack die 2 h seq))
  | some (d, n) =>
    let q := s.queue d n
    if (s.ctx q.ctx).migrating then .error (s.send (.nack die 2 h seq))
    else if cmac8 q.key mac ≠ tag || seq.toNat ≤ q.lastseq.toNat then .error (s.nackAuth die d n h seq)
    else .ok (d, n)

/-- LASTSEQ takes an accepted or refused message's sequence (R291). -/
def State.setSeq (s : State) (d : Bool) (n : Nat) (seq : BitVec 32) : State :=
  s.modQueue d n (fun q => { q with lastseq := seq })

/-- NOTIFY. -/
def execNotify (die : Bool) (handle : Dbl) (tail seq : BitVec 32) (tag : Dbl) (s : State) :
    Host.Outcome State Fault Refusal :=
  let mac := toBytes handle 8 ++ natBytes tail.toNat 4 ++ natBytes seq.toNat 4
  match s.messageCheck die handle seq tag mac with
  | .error s => .next s
  | .ok (d, n) =>
    let q := s.queue d n
    let s := s.setSeq d n seq
    let inc := (tail - q.tail).toNat
    if 1 ≤ inc && inc + q.rcount ≤ q.rcap then
      let s := (s.modQueue d n (fun q => { q with tail := tail, spill := q.spill || q.res })).queueMoved d n
      .next (if q.res then s else s.informAbatal d n)
    else .next (s.send (.nack die 3 handle seq))

/-- ENQUEUE (R291); at a FAULTED queue it is placed, for no check of R291 names FAULTED (DESIGN CHOICE, log 35). -/
def execEnqueue (die : Bool) (handle : Dbl) (seq : BitVec 32) (tag : Dbl) (rec : Rec) (s : State) :
    Host.Outcome State Fault Refusal :=
  let mac := toBytes handle 8 ++ List.replicate 4 0#8 ++ natBytes seq.toNat 4 ++ recBytes rec
  match s.messageCheck die handle seq tag mac with
  | .error s => .next s
  | .ok (d, n) =>
    let q := s.queue d n
    let s := s.setSeq d n seq
    if q.placement = .full then .next (s.send (.nack die 4 handle seq)) else
    match s.place d n rec with
    | .error k =>
      .next (((s.ringTouch d n accW k).modQueue d n (fun q => { q with faulted := true })).send (.nack die 5 handle seq))
    | .ok s => .next (if q.res then s else s.informAbatal d n)

end Sys2Proof.Machine
end

