-- ==== Sys2Proof/Machine/Learn.lean ====
section
/-! DEFINITION. Generation and learning instructions (17_rl_class.md, R310–R326): the weight version table, adoption, the
Spoor, the acceptance engine and JFRAG. -/

namespace Sys2Proof.Machine

/-! ### The weight version table (R310–R316) -/

/-- The context's current entry (R310). -/
def State.curEntry (s : State) (c : Ctx) : Option Nat :=
  (List.range 64).find? (fun e => (s.wvt c e).cur && (s.wvt c e).st = .published)

/-- A handle's entry, where the handle is not stale (R312). -/
def State.liveHandle (s : State) (c : Ctx) (h : Dbl) : Option Nat :=
  let e := (h.extractLsb' 0 6).toNat
  let w := s.wvt c e
  if h.extractLsb' 6 26 = 0#26 && w.st ≠ .free && w.version = h.extractLsb' 32 32 then some e else none

/-- The handle of an entry (R312). -/
def handleOfEntry (e : Nat) (w : Wvt) : Dbl := w.version ++ BitVec.ofNat 32 e

/-- STATE as a code (R310). -/
def wstateCode : WState → BitVec 2 | .free => 0 | .building => 1 | .published => 2 | .retiring => 3

/-- D0 of an entry (R310). -/
def wvtD0 (e : Nat) (w : Wvt) : Dbl :=
  w.version ++ BitVec.ofNat 16 w.holders ++ w.fmt ++ w.scope ++ bit w.cur 1 ++ wstateCode w.st ++ BitVec.ofNat 6 e

/-- Publication of an entry (R311, R317): the previous current entry loses CUR in the same step. -/
def State.publish (s : State) (c : Ctx) (e : Nat) : State :=
  let s := match s.curEntry c with
    | none => s
    | some p => s.modWvt c p (fun w => { w with cur := false, st := if 0 < w.holders then .retiring else .free })
  s.modWvt c e (fun w => { w with st := .published, cur := true })

/-- A change of the handle in a tile's ADOPT (R314): the new entry gains a holder, unless VERSION is 0, and the old entry
loses one. -/
def State.changeHandle (s : State) (t : PTile) (version : BitVec 32) (e : BitVec 6) : State :=
  let c := liveCtx (s.tile t)
  let old := s.tc t
  let s := if version = 0 then s else s.modWvt c e.toNat (fun w => { w with holders := w.holders + 1 })
  let s := if old.adVer = 0 then s else s.dropHolder c old.adIdx.toNat
  s.modTc t (fun q => { q with adVer := version, adIdx := e })

/-- Whether the current entry differs from the tile's handle (R319, R326). -/
def State.newCurrent (s : State) (t : PTile) : Option Nat :=
  match s.curEntry (liveCtx (s.tile t)) with
  | none => none
  | some e =>
    let q := s.tc t
    if e = q.adIdx.toNat && (s.wvt (liveCtx (s.tile t)) e).version = q.adVer then none else some e

/-- The adoption of a new current entry, which HOLDERS 65,535 prevents (R315); with whether the handle changed. -/
def State.adopt (s : State) (t : PTile) : State × Bool :=
  let c := liveCtx (s.tile t)
  match s.newCurrent t with
  | none => (s, false)
  | some e =>
    if 65535 ≤ (s.wvt c e).holders then (s, false)
    else (s.changeHandle t (s.wvt c e).version (BitVec.ofNat 6 e), true)

/-- A release at an entry's scope, eager (R90, R313): it waits for the control stream's earlier accesses and writes back
the set. -/
def State.eagerRelease (s : State) (t : PTile) : Except Halt State :=
  if !s.controlQuiet t then holdE else .ok (s.writeBackSet t)

/-- WPUB (R317). -/
def execWpub (a : BitVec 4) (ka : Bool) (s : State) : Host.Outcome State Fault Refusal :=
  s.finish .c 2 (do
    let vs ← (s.tc s.cur).readQ [(a, ka)]
    let h := vs.getD 0 0
    let c := liveCtx (s.tile s.cur)
    match s.liveHandle c h with
    | none => trapE cSTALEVER h
    | some e =>
      if (s.wvt c e).st ≠ .building then trapE cPROT h else
      let s' ← s.eagerRelease s.cur
      .ok ((s'.publish c e).modTc s.cur (fun q => q.popQ [(a, ka)])))

/-- WADOPT (R319): `seq` for a sequence boundary; a token step adopts unless POLICY is 00. -/
def State.wadopt (s : State) (d : BitVec 4) (seq : Bool) : Host.Outcome State Fault Refusal :=
  s.finish .c 2 (do
    let t := s.cur
    let q := s.tc t
    let c := liveCtx (s.tile t)
    q.roomQ [] [d]
    roomC q.cqc
    let r := if seq || q.adPol ≠ 0 then s.adopt t else (s, false)
    let s' := match s.curEntry c with
      | some e => r.1.acquireCache t (s.wvt c e).scope.toNat
      | none => r.1
    .ok (s'.modTc t (fun y =>
      ({ y with adChg := false }.reserve d 0 0 (.value (y.adVer ++ (0#26 ++ y.adIdx)))).pushC (q.adChg || r.2) false)))

/-- WADOPT token. -/
def execWadoptToken (d : BitVec 4) (s : State) : Host.Outcome State Fault Refusal := s.wadopt d false
/-- WADOPT seq. -/
def execWadoptSeq (d : BitVec 4) (s : State) : Host.Outcome State Fault Refusal := s.wadopt d true

/-- The entry a selector names (R312, R318): PROT for a selector above 63 other than −1; none for −1 with no current
entry. -/
def State.selector (s : State) (c : Ctx) (v : Dbl) : Except Halt (Option Nat) :=
  if v = 0xFFFFFFFFFFFFFFFF#64 then .ok (s.curEntry c)
  else if 63 < v.toNat then trapE cPROT v
  else .ok (some v.toNat)

/-- WHOLD (R318). The spec gives no TVAL for a selector whose entry cannot be held (log 20). -/
def execWhold (d a : BitVec 4) (ka : Bool) (s : State) : Host.Outcome State Fault Refusal :=
  s.finish .c 2 (do
    let q := s.tc s.cur
    let vs ← q.readQ [(a, ka)]
    q.roomQ [(a, ka)] [d]
    let v := vs.getD 0 0
    let c := liveCtx (s.tile s.cur)
    match ← s.selector c v with
    | none => trapE cSTALEVER (Config.freeTval cSTALEVER v)
    | some e =>
      let w := s.wvt c e
      if w.st = .free then trapE cSTALEVER (Config.freeTval cSTALEVER v)
      else if w.st = .building || 65535 ≤ w.holders then trapE cPROT (Config.freeTval cPROT v)
      else .ok ((s.modWvt c e (fun w => { w with holders := w.holders + 1 })).modTc s.cur (fun q =>
        (q.popQ [(a, ka)]).reserve d 0 0 (.value (handleOfEntry e w)))))

/-- WDROP (R318): a release, eager, before HOLDERS falls. The value of its PROT is free (log 20). -/
def execWdrop (a : BitVec 4) (ka : Bool) (s : State) : Host.Outcome State Fault Refusal :=
  s.finish .c 2 (do
    let vs ← (s.tc s.cur).readQ [(a, ka)]
    let h := vs.getD 0 0
    let c := liveCtx (s.tile s.cur)
    match s.liveHandle c h with
    | none => trapE cSTALEVER h
    | some e =>
      if (s.wvt c e).holders = 0 then trapE cPROT (Config.freeTval cPROT h) else
      let s' ← s.eagerRelease s.cur
      .ok ((s'.dropHolder c e).modTc s.cur (fun q => q.popQ [(a, ka)])))

/-- WQRY (R318): D0 of the selected entry; 0 for −1 with no current entry. -/
def execWqry (d a : BitVec 4) (ka : Bool) (s : State) : Host.Outcome State Fault Refusal :=
  s.finish .c 2 (do
    let q := s.tc s.cur
    let vs ← q.readQ [(a, ka)]
    q.roomQ [(a, ka)] [d]
    let c := liveCtx (s.tile s.cur)
    let e ← s.selector c (vs.getD 0 0)
    let v := match e with
      | none => 0
      | some e => wvtD0 e (s.wvt c e)
    .ok (s.modTc s.cur (fun q => (q.popQ [(a, ka)]).reserve d 0 0 (.value v))))

/-! ### CRC-64 (R321) -/

/-- One bit of the CRC-64, most significant bit first. -/
def crcBit (c : Dbl) : Dbl := if c.getLsbD 63 then (c <<< 1) ^^^ 0x42F0E1EBA9EA3693#64 else c <<< 1

/-- One byte of the CRC-64. -/
def crcByte (c : Dbl) (b : Byte) : Dbl :=
  crcBit (crcBit (crcBit (crcBit (crcBit (crcBit (crcBit (crcBit (c ^^^ (b.setWidth 64 <<< 56)))))))))

/-- The CRC-64 of bytes in address order: ECMA polynomial, initial value 0, no final inversion. -/
def crc64 (bs : List Byte) : Dbl := bs.foldl crcByte 0

/-! ### The Spoor (R320–R323) -/

/-- The log of a context on a die. -/
def State.log (s : State) (d : Bool) (c : Ctx) : Log := (aget (s.die d).logs c.toNat).getD .reset
/-- The package with a change made to a log. -/
def State.modLog (s : State) (d : Bool) (c : Ctx) (f : Log → Log) : State :=
  s.modDie d (fun x => { x with logs := aset x.logs c.toNat (f ((aget x.logs c.toNat).getD .reset)) })

/-- An offset of `n` bytes in the own scratchpad for a self-window address. -/
def selfOff (a : Dbl) (n : Nat) : Option Nat :=
  if 0x00FF00000000 ≤ a.toNat && a.toNat + n ≤ 0x00FF00200000 then some (a.toNat - 0x00FF00000000) else none

/-- SPAPP (R323): ALIGN, PROT for an address outside the own scratchpad, PROT with 0 for a log without EN; a class-15 read;
a full input queue makes it wait. An uncorrectable line that it reads raises MCHECK (R387). The Spoor adds the CRC when it writes. The task's slot notes its place among the records of
the log (R94, R337). -/
def execSpapp (a : BitVec 4) (ka : Bool) (s : State) : Host.Outcome State Fault Refusal :=
  s.finish .c 2 (do
    let t := s.cur
    let q := s.tc t
    let vs ← q.readQ [(a, ka)]
    let v := vs.getD 0 0
    let c := liveCtx (s.tile t)
    if v.toNat % 8 ≠ 0 then trapE cALIGN v else
    match selfOff v 56 with
    | none => trapE cPROT v
    | some off =>
      let g := s.log (dieOf t) c
      if !g.d0.getLsbD 5 then trapE cPROT 0 else
      if !s.controlQuiet t then holdE else
      if 64 ≤ g.inq.length then waitE else
      let r := recOf (memBytes q.scratch off 56)
      let r := { r with d1 := q.adVer ++ r.d1.setWidth 32, d7 := 0 }
      let s := (s.sees t (.scr t off) 56).modLog (dieOf t) c (fun g => { g with inq := g.inq ++ [r] })
      let s := s.modSlot (dieOf t) ((q.task.map (·.slot.toNat)).getD 2048) (fun e =>
        { e with handed := g.gone + g.inq.length + 1 })
      .ok (s.modTc t (fun q => q.popQ [(a, ka)])))

/-- A log access that faults stops the context's appends on the die and is reported (R322). -/
def State.logFault (s : State) (d : Bool) (c : Ctx) (k : Cause) : State :=
  (s.modLog d c (fun g => { g with stopped := true })).report c 0 ⟨0, 0, k.code, 0, 0, k.tval, 0, 0, 0, 0⟩

/-- Bytes that a die unit writes into its L2 (R88). -/
def State.unitWrite (s : State) (d : Bool) (pa : Nat) (bs : List Byte) : State :=
  s.modDie d (fun x => { x with l2 := (bs.zipIdx).foldl (fun m p => aset m (pa + p.2) p.1) x.l2 })

/-- Whether a release was made by a unit of a die. -/
def Release.ofUnit (r : Release) (d : Bool) : Bool := r.unit && dieOf r.t = d

/-- The lines that the units of a die have released at a location. -/
def State.unitLines (s : State) (d : Bool) (pa : Nat) : List Nat :=
  ((s.releases pa).filter (·.ofUnit d)).foldl (fun ls r => r.lines.foldl joinLine ls) []

/-- Whether the Spoor can append the next record of a context's queue now (R322): the log goes on, and the reader has made
room. -/
def State.spoorCan (s : State) (d : Bool) (c : Ctx) : Bool :=
  let g := s.log d c
  let cap := 2 ^ (g.d0.extractLsb' 0 5).toNat
  !g.inq.isEmpty && !g.stopped &&
  match s.translate d none c g.rcnt.toNat accR 0, s.translate d none c g.acnt.toNat accW 0 with
  | .ok (_, ra), .ok (_, na) => (ofBytes (s.physBytes d na 8) - ofBytes (s.physBytes d ra 8)).toNat < cap
  | _, _ => false

/-- Whether the control engine of a tile awaits room in the Spoor's input queue (R396). -/
def State.awaitsSpoor (s : State) (t : PTile) : Bool :=
  match s.awaited t with
  | some (.spapp ..) => true
  | _ => false

/-- SPOOR_APPEND (R322): the acquire of the reader count at PKG scope, the room check, the record with its CRC-64, and the
lazy release of the append count. Where a translation fails, those that it and the ones before it have completed stand (R395).
In the final round of its context's migration it appends nothing (R389). -/
def execSpoorAppend (die : Bool) (ctx : Ctx) (s : State) : Host.Outcome State Fault Refusal :=
  let g := s.log die ctx
  let cap := 2 ^ (g.d0.extractLsb' 0 5).toNat
  match g.inq with
  | [] => .next s
  | r :: rest =>
    if g.stopped || (s.ctx ctx).migrating then .next s else
    match s.translate die none ctx g.rcnt.toNat accR g.rcnt with
    | .error k => .next ((s.touchAs die none ctx accR k).logFault die ctx k)
    | .ok (s1, ra) =>
    let read := s.touchAll die ctx accR [g.rcnt.toNat]
    match s1.translate die none ctx g.acnt.toNat accW g.acnt with
    | .error k => .next ((read.touchAs die none ctx accW k).logFault die ctx k)
    | .ok (s2, na) =>
    let s2 := s2.writeBackLazy (s2.lastLazy ra)
    let rc := ofBytes (s2.physBytes die ra 8)
    let n := ofBytes (s2.physBytes die na 8)
    if cap ≤ (n - rc).toNat then .next s2 else
    let va := (g.d0.extractLsb' 6 50).toNat * 64 + 64 * (n.toNat % cap)
    match s2.translate die none ctx va accW (BitVec.ofNat 64 va) with
    | .error k => .next (((read.touchAll die ctx accW [g.acnt.toNat]).touchAs die none ctx accW k).logFault die ctx k)
    | .ok (s, pa) =>
      let body := (recBytes r).take 56
      let mine := s.unitLines die na
      let s := s.writeBackLazy ((s.lastLazy na).filter (fun q => !q.ofUnit die))
      let s := s.unitWrite die pa (body ++ toBytes (crc64 body) 8)
      let s := s.unitWrite die na (toBytes (n + 1) 8)
      let lines := joinLine (joinLine mine (lineOf pa)) (lineOf na)
      let s := s.putRelease na ⟨if die then 64 else 0, true, 4, lines⟩
      let s := s.modLog die ctx (fun g => { g with inq := rest, gone := g.gone + 1 })
      let s := if 64 ≤ g.inq.length then { s with tiles := s.tiles.map (fun (e : Nat × Tile) =>
          let t : PTile := BitVec.ofNat 7 e.1
          if dieOf t = die && e.2.live = some ctx && s.awaitsSpoor t then (e.1, { e.2 with prog := 0 }) else e) } else s
      .next ((s.unitReads ctx ra g.rcnt).unitReads ctx na g.acnt)

/-! ### The acceptance engine and JFRAG (R324–R326) -/

/-- A self-window operand of ACPT: ALIGN, then PROT (R325). -/
def acptOff (v : Dbl) (n : Nat) : Except Halt Nat :=
  if v.toNat % 4 ≠ 0 then trapE cALIGN v else
  match selfOff v (4 * n) with
  | none => trapE cPROT v
  | some off => .ok off

/-- The number of leading U32 words in which two runs of `n` agree, from word `i` on. -/
def agree (m : Memory) (a b : Nat) : Nat → Nat → Nat
  | 0, c => c
  | n + 1, c =>
    if ofBytes (memBytes m (a + 4 * c) 4) = ofBytes (memBytes m (b + 4 * c) 4) then agree m a b n (c + 1) else c

/-- ACPT (R325): a class-15 comparison, NEXTF, and the count into a reserved slot; its pending fill carries class 15, for
which JFRAG waits. An uncorrectable line that it reads raises MCHECK (R387). -/
def execAcpt (d a b : BitVec 4) (ka kb : Bool) (n : BitVec 8) (s : State) : Host.Outcome State Fault Refusal :=
  s.finish .c 2 (do
    let q := s.tc s.cur
    let rs : List Src := [(a, ka), (b, kb)]
    let vs ← q.readQ rs
    q.roomQ rs [d]
    let da ← acptOff (vs.getD 0 0) n.toNat
    let ta ← acptOff (vs.getD 1 0) n.toNat
    if !s.controlQuiet s.cur then holdE else
    let c := agree q.scratch da ta n.toNat 0
    let next := if c = n.toNat then q.acptmap.extractLsb' 12 6
      else if c = 0 then q.acptmap.extractLsb' 0 6 else q.acptmap.extractLsb' 6 6
    let s := (s.sees s.cur (.scr s.cur da) (4 * n.toNat)).sees s.cur (.scr s.cur ta) (4 * n.toNat)
    .ok (s.modTc s.cur (fun q => ({ q.popQ rs with nextf := next }).reserve d 15 0 (.value (BitVec.ofNat 64 c)))))

/-- Whether a pending fill is an ACPT's. -/
def Fill.ofAcpt (f : Fill) : Bool := match f.op with | .value _ => f.cls = 15 | _ => false

/-- JFRAG (R326): its table word is a load of class 15 at ENG scope, with the stream's earlier accesses performed. -/
def execJfrag (follow : BitVec 3) (s : State) : Host.Outcome State Fault Refusal :=
  s.finishJumpAt .c 1 accR (do
    let t := s.cur
    let q := s.tc t
    let a : Dbl := (0#8 ++ q.ftbase.extractLsb' 6 50 ++ 0#6 : BitVec 64) + 8 * q.nextf.setWidth 64
    if 2 ^ 56 ≤ a.toNat then trapE cPROT a else
    let (s', at_) ← s.locate t a 8 accR
    if q.fills.any (·.ofAcpt) || !s.controlQuiet t then holdE else
    let (s', bs) := s'.loadBytes t q.seq 15 0 at_ 8
    let dest := (ofBytes bs).extractLsb' 0 48
    let r := if q.adPol = 2 then s'.adopt t else (s', false)
    let s' := if r.2 then r.1.modTc t (fun q => { q with adChg := true }) else r.1
    s'.branch (s'.tc t) follow dest)

end Sys2Proof.Machine
end

