-- ==== Sys2Proof/Machine/System.lean ====
section
/-! DEFINITION. System instructions (19_system_class.md, R340–R350, R363–R365): the CSRs, TRAP, SCALL, TRET, CSRR, CSRW. -/

namespace Sys2Proof.Machine

/-- GSLOTn (R228). -/
def gslotVal (g : GSlot) : Dbl :=
  0#48 ++ bit g.valid 1 ++ 0#4 ++ bit g.held 1 ++ bit g.arr 1 ++ bit g.die 1 ++ g.entry

/-- LEFT of PREQ (R350): ck to the earliest deadline, saturating. -/
def leftOf (reqs : List PReq) : Nat :=
  match reqs with
  | [] => 0
  | r :: rest => min (rest.foldl (fun m q => min m q.left) r.left) (2 ^ 32 - 1)

/-- PREQ (R350). -/
def preqVal (reqs : List PReq) : Dbl :=
  let has (k : Nat) := bit (reqs.any (fun r => r.cause = k)) 1
  let cause := (reqs.head?.map (·.cause)).getD 0
  BitVec.ofNat 32 (leftOf reqs) ++ 0#25 ++ has 3 ++ has 2 ++ has 1 ++ BitVec.ofNat 3 cause ++ bit (!reqs.isEmpty) 1

/-- FRAME (R343). -/
def frameVal (x : Tile) : Dbl :=
  x.frameSeq ++ 0#20 ++ bit x.sett.isSome 1 ++ (x.sett.map (·.1)).getD 0 ++ bit x.live.isSome 1 ++ liveCtx x

/-- ADOPT (R314). -/
def adoptVal (c : TCtx) : Dbl := c.adVer ++ 0#22 ++ bit c.adChg 1 ++ 0#1 ++ c.adPol ++ c.adIdx

/-- The CSRs that a tile context holds (R340: those an image carries, and WDRAW and GSLOTn). -/
def TCtx.csr (c : TCtx) (n : Nat) : Dbl :=
  if n = 0x000 then c.tstat
  else if n = 0x001 then c.tcause.setWidth 64
  else if n = 0x002 then c.tepc.setWidth 64
  else if n = 0x003 then c.teng.setWidth 64
  else if n = 0x004 then c.tval
  else if n = 0x005 then c.tvec.setWidth 64
  else if n = 0x006 then c.tcpc.setWidth 64
  else if n = 0x00A then bit c.wdraw 64
  else if n = 0x010 then adoptVal c
  else if n = 0x011 then c.ftbase
  else if n = 0x012 then c.nextf.setWidth 64
  else if n = 0x013 then c.acptmap.setWidth 64
  else if n = 0x018 then c.vflags.setWidth 64
  else if n = 0x019 then bit c.dbgpend 64
  else if 0x020 ≤ n && n ≤ 0x023 then gslotVal (c.gslot (n - 0x020))
  else if n = 0x030 then c.spbase
  else if n = 0x031 then c.splim
  else if 0x040 ≤ n && n ≤ 0x05F then ((aget c.bfmt (n - 0x040)).getD 0).setWidth 64
  else 0

/-- The value of a CSR as a tile reads it (R340–R350); RSET reads as 4,096 where the set is larger (DEDUCED, log 53). -/
def State.csr (s : State) (t : PTile) (n : Nat) : Dbl :=
  let x := s.tile t
  let c := liveCtx x
  let k := s.ctx c
  if n = 0x007 then k.tdeleg
  else if n = 0x008 then preqVal x.reqs
  else if n = 0x009 then k.pdead.setWidth 64
  else if n = 0x00C then (if dieOf t then k.quota1 else k.quota0).setWidth 64
  else if n = 0x060 then frameVal x
  else if n = 0x061 then s.ptime
  else if n = 0x070 then BitVec.ofNat 64 (min x.rset.length 4096)
  else if n = 0x080 then BitVec.ofNat 64 (if x.live.isSome then s.logical c t else 0)
  else if n = 0x081 then t.setWidth 64
  else if n = 0x082 then 0#61 ++ bit x.pend 1 ++ BitVec.ofNat 2 (s.roleOf t)
  else x.tc.csr n

/-- A write of the plain RW fields of a CSR (R4, R106, R124, R125, R201, R324, R342); ADOPT apart. -/
def TCtx.setCsr (c : TCtx) (n : Nat) (v : Dbl) : TCtx :=
  if n = 0x001 then { c with tcause := v.setWidth 8 }
  else if n = 0x002 then { c with tepc := v.setWidth 48 }
  else if n = 0x004 then { c with tval := v }
  else if n = 0x005 then { c with tvec := v.setWidth 48 }
  else if n = 0x006 then { c with tcpc := v.setWidth 48 }
  else if n = 0x011 then { c with ftbase := v &&& 0x00FFFFFFFFFFFFC0#64 }
  else if n = 0x012 then { c with nextf := v.setWidth 6 }
  else if n = 0x013 then { c with acptmap := v.setWidth 18 }
  else if n = 0x018 then { c with vflags := v.setWidth 5 }
  else if n = 0x019 then { c with dbgpend := v.getLsbD 0 }
  else if n = 0x030 then { c with spbase := v &&& 0x1FFFC0#64, sp := (v &&& 0x1FFFC0#64).setWidth 21 }
  else if n = 0x031 then { c with splim := v &&& 0x1FFFC0#64 }
  else if 0x040 ≤ n && n ≤ 0x05F then { c with bfmt := aset c.bfmt (n - 0x040) (v.setWidth 25) }
  else c

/-- A CSRW to ADOPT (R314, R315): POLICY, and the handle where it differs from the one in use. The value of the PROT for a
BUILDING entry is free (log 20). -/
def State.writeAdopt (s : State) (i : Instr) (v : Dbl) : Except Halt State :=
  let t := s.cur
  let c := liveCtx (s.tile t)
  let q := s.tc t
  let pol : BitVec 2 := v.extractLsb' 6 2
  let ver : BitVec 32 := v.extractLsb' 32 32
  let idx : BitVec 6 := v.extractLsb' 0 6
  let h : Dbl := ver ++ (0#26 ++ idx)
  let setPol (s : State) := s.modTc t (fun q => { q with adPol := pol })
  if pol = 3 then illegalE i
  else if ver = q.adVer && idx = q.adIdx then .ok (setPol s)
  else match s.liveHandle c h with
    | none => trapE cSTALEVER h
    | some e =>
      if (s.wvt c e).st = .building then trapE cPROT (Config.freeTval cPROT v)
      else if 65535 ≤ (s.wvt c e).holders then trapE cPROT v
      else .ok (setPol (s.changeHandle t ver idx))

/-- CSRR (R365): class 15 at ENG scope in the control stream's order; a reserved slot takes the value read at issue. -/
def execCsrr (d : BitVec 4) (csr : BitVec 12) (s : State) : Host.Outcome State Fault Refusal :=
  s.finish .c 2 (do
    (s.tc s.cur).roomQ [] [d]
    if !s.controlQuiet s.cur then holdE else
    .ok (s.modTc s.cur (fun c => c.reserve d 0 0 (.value (s.csr s.cur csr.toNat)))))

/-- CSRW (R365). -/
def execCsrw (csr : BitVec 12) (a : BitVec 4) (ka : Bool) (s : State) : Host.Outcome State Fault Refusal :=
  s.finish .c 2 (do
    let vs ← (s.tc s.cur).readQ [(a, ka)]
    let v := vs.getD 0 0
    if !s.controlQuiet s.cur then holdE else
    let s' ← if csr.toNat = 0x010 then s.writeAdopt (.csrw csr a ka) v
      else .ok (s.modTc s.cur (fun c => c.setCsr csr.toNat v))
    .ok (s'.modTc s.cur (fun c => c.popQ [(a, ka)])))

/-- TRAP (R363): it retires, then TRAPI is raised as a completed cause (R344). -/
def execTrap (code : BitVec 6) (s : State) : Host.Outcome State Fault Refusal :=
  .next ((s.advance s.cur .c 1 true).takeTrap s.cur .c .completed ⟨cTRAPI, code.setWidth 64⟩)

/-- SCALL (R363). -/
def execScall (s : State) : Host.Outcome State Fault Refusal :=
  .next ((s.advance s.cur .c 1 true).takeTrap s.cur .c .completed ⟨cSCALL, 0⟩)

/-- TRET (R349, R364): ILLEGAL outside a handler. -/
def execTret (s : State) : Host.Outcome State Fault Refusal :=
  if !(s.tc s.cur).inh then s.finish .c 1 (illegalE .tret) else .next (s.trapReturn s.cur)

end Sys2Proof.Machine
end

