-- ==== Sys2Proof/Machine/Vector.lean ====
section
/-! DEFINITION. The vector instructions (07_vector_class.md, R126–R156). Each acts on the vector engine of the tile
State.cur. -/

namespace Sys2Proof.Machine

/-! ### Shared shapes -/

/-- A vector instruction that issues: its effect stands and one tick passes (R126). -/
def State.finishV (s : State) (n : Nat) (r : Except Halt TCtx) : Host.Outcome State Fault Refusal :=
  s.finishTc .v n (r.map (fun c => { c with tick := c.tick + 1 }))

/-- An exposed write (R126, R127): a write of no lane is none. -/
def TCtx.expose (c : TCtx) (vd : Nat) (mask : Mask) (vals : List Lane) (l : Nat) : TCtx :=
  if mask = 0 then c else { c with pending := c.pending ++ [⟨vd, mask, vals, c.tick, c.tick + l⟩] }

/-- A value for each active lane, 0 for the others, which are not written. -/
def eachActive (act : Mask) (f : Nat → Lane) : List Lane :=
  (List.range 512).map (fun i => if act.getLsbD i then f i else 0)

/-- Every lane. -/
def allLanes : Mask := BitVec.allOnes 512

/-- An elementwise instruction (R132): `f` on the lanes of its sources for each active lane, exposure `l`. -/
def State.elementwise (s : State) (n : Nat) (vd : BitVec 6) (m : Msk) (codes : List (BitVec 6)) (l : Nat)
    (f : List Lane → FR) : Host.Outcome State Fault Refusal :=
  s.finishV n (do
    let c := s.tc s.cur
    let act := c.active m
    c.exposeCheck (codes.map (fun k => (k, act)))
    let vs ← c.vsrcs codes
    let rs := (List.range 512).map (fun i =>
      if act.getLsbD i then f (vs.map (fun v => v.getD i 0)) else ⟨0, 0⟩)
    let fl := rs.foldl (fun (a : Fl) r => a ||| r.fl) 0
    .ok { (c.vpops codes).expose vd.toNat act (rs.map (·.bits)) l with vflags := c.vflags ||| fl })

/-- A whole-vector instruction (R132): `f` on the active mask and the sources gives every lane; `reads` gives the lanes
that it reads of each source. -/
def State.wholeVector (s : State) (vd : BitVec 6) (m : Msk) (codes : List (BitVec 6)) (l : Nat)
    (reads : Mask → List Mask) (f : Mask → List (List Lane) → List Lane × Fl) : Host.Outcome State Fault Refusal :=
  s.finishV 3 (do
    let c := s.tc s.cur
    let act := c.active m
    c.exposeCheck (codes.zip (reads act))
    let vs ← c.vsrcs codes
    let (vals, fl) := f act vs
    .ok { (c.vpops codes).expose vd.toNat allLanes vals l with vflags := c.vflags ||| fl })

/-- The first three lanes of a list of operands. -/
def op1 (f : Lane → FR) (xs : List Lane) : FR := f (xs.getD 0 0)
/-- See `op1`. -/
def op2 (f : Lane → Lane → FR) (xs : List Lane) : FR := f (xs.getD 0 0) (xs.getD 1 0)
/-- See `op1`. -/
def op3 (f : Lane → Lane → Lane → FR) (xs : List Lane) : FR := f (xs.getD 0 0) (xs.getD 1 0) (xs.getD 2 0)

/-- A lane result without flags. -/
def plain (x : Lane) : FR := ⟨x, 0⟩

/-- The lower and the upper half of a lane as F32 patterns: each BF16 is the upper half of its F32 (R55). -/
def loF (x : Lane) : Lane := x <<< 16
/-- See `loF`. -/
def hiF (x : Lane) : Lane := x &&& 0xFFFF0000#32

/-- Two BF16 results, right-aligned, in one lane (R54). -/
def joinB (lo hi : FR) : FR := ⟨(hi.bits <<< 16) ||| (lo.bits &&& 0xFFFF#32), lo.fl ||| hi.fl⟩
/-- Two results that stand as F32 patterns with zero lower halves, in one lane of BF16. -/
def joinHi (lo hi : FR) : FR := ⟨(hi.bits &&& 0xFFFF0000#32) ||| (lo.bits >>> 16), lo.fl ||| hi.fl⟩

/-! ### Arithmetic (R136, R137) -/

/-- A rounded operation of two operands by TY: `f` at a precision for F32 and BF16, `g` for integers. -/
def arith2 (ty : BitVec 3) (r : Rnd) (f : Nat → FV → FV → FR) (g : Lane → Lane → Lane) (a b : Lane) : FR :=
  match ty.toNat with
  | 0 => f 24 (unpack r.fzi a) (unpack r.fzi b)
  | 1 => joinB (f 8 (unpack r.fzi (loF a)) (unpack r.fzi (loF b))) (f 8 (unpack r.fzi (hiF a)) (unpack r.fzi (hiF b)))
  | _ => plain (g a b)

/-- An operation of three operands by TY. -/
def arith3 (ty : BitVec 3) (r : Rnd) (f : Nat → FV → FV → FV → FR) (g : Lane → Lane → Lane → Lane)
    (a b c : Lane) : FR :=
  match ty.toNat with
  | 0 => f 24 (unpack r.fzi a) (unpack r.fzi b) (unpack r.fzi c)
  | 1 => joinB (f 8 (unpack r.fzi (loF a)) (unpack r.fzi (loF b)) (unpack r.fzi (loF c)))
      (f 8 (unpack r.fzi (hiF a)) (unpack r.fzi (hiF b)) (unpack r.fzi (hiF c)))
  | _ => plain (g a b c)

/-- An operation on F32 patterns that never rounds (R136): FZI, the operation, FZO; for BF16 on each half. -/
def pattern (ty : BitVec 3) (r : Rnd) (f : List Lane → Lane) (g : List Lane → Lane) (xs : List Lane) : FR :=
  let go (ys : List Lane) : FR := flushOut r.fzo (f (ys.map (flushIn r.fzi)))
  match ty.toNat with
  | 0 => go xs
  | 1 => joinHi (go (xs.map loF)) (go (xs.map hiF))
  | _ => plain (g xs)

/-- VADD. -/
def execVadd (vd va vb : BitVec 6) (m : Msk) (ty : BitVec 3) (r : Rnd) (s : State) :
    Host.Outcome State Fault Refusal :=
  s.elementwise 3 vd m [va, vb] 4 (op2 (arith2 ty r (fun p => fadd p r.rm r.fzo) (fun a b => a + b)))

/-- VSUB. -/
def execVsub (vd va vb : BitVec 6) (m : Msk) (ty : BitVec 3) (r : Rnd) (s : State) :
    Host.Outcome State Fault Refusal :=
  s.elementwise 3 vd m [va, vb] 4
    (op2 (arith2 ty r (fun p a b => fadd p r.rm r.fzo a b.neg) (fun a b => a - b)))

/-- VMUL. -/
def execVmul (vd va vb : BitVec 6) (m : Msk) (ty : BitVec 3) (r : Rnd) (s : State) :
    Host.Outcome State Fault Refusal :=
  s.elementwise 3 vd m [va, vb] 5 (op2 (arith2 ty r (fun p => fmul p r.rm r.fzo) (fun a b => a * b)))

/-- The integer minimum or maximum by TY: I32 signed, U32 unsigned. -/
def ipick (larger : Bool) (ty : BitVec 3) (a b : Lane) : Lane :=
  let less : Bool := if ty.toNat = 2 then a.slt b else a.ult b
  if less != larger then a else b

/-- VMIN. -/
def execVmin (vd va vb : BitVec 6) (m : Msk) (ty : BitVec 3) (r : Rnd) (s : State) :
    Host.Outcome State Fault Refusal :=
  s.elementwise 3 vd m [va, vb] 4 (pattern ty r (fun xs => fpick false (xs.getD 0 0) (xs.getD 1 0))
    (fun xs => ipick false ty (xs.getD 0 0) (xs.getD 1 0)))

/-- VMAX. -/
def execVmax (vd va vb : BitVec 6) (m : Msk) (ty : BitVec 3) (r : Rnd) (s : State) :
    Host.Outcome State Fault Refusal :=
  s.elementwise 3 vd m [va, vb] 4 (pattern ty r (fun xs => fpick true (xs.getD 0 0) (xs.getD 1 0))
    (fun xs => ipick true ty (xs.getD 0 0) (xs.getD 1 0)))

/-- A NaN becomes canonical; anything else passes `f`. -/
def notNan (f : Lane → Lane) (x : Lane) : Lane := if isNanL x then nanBits 24 else f x

/-- VABS. -/
def execVabs (vd va : BitVec 6) (m : Msk) (ty : BitVec 3) (r : Rnd) (s : State) : Host.Outcome State Fault Refusal :=
  s.elementwise 3 vd m [va] 2 (pattern ty r (fun xs => notNan (· &&& 0x7FFFFFFF#32) (xs.getD 0 0))
    (fun xs => let a := xs.getD 0 0; if a.slt 0 then -a else a))

/-- VNEG. -/
def execVneg (vd va : BitVec 6) (m : Msk) (ty : BitVec 3) (r : Rnd) (s : State) : Host.Outcome State Fault Refusal :=
  s.elementwise 3 vd m [va] 2 (pattern ty r (fun xs => notNan (· ^^^ 0x80000000#32) (xs.getD 0 0))
    (fun xs => -(xs.getD 0 0)))

/-- VSCALE (R61, R136). -/
def execVscale (vd va vb : BitVec 6) (m : Msk) (r : Rnd) (s : State) : Host.Outcome State Fault Refusal :=
  s.elementwise 3 vd m [va, vb] 4 (op2 (fun a b => scaleBy r.rm r.fzo (unpack r.fzi a) (b.setWidth 8)))

/-- VFMA: a × b + c. -/
def execVfma (vd va vb vc : BitVec 6) (m : Msk) (ty : BitVec 3) (r : Rnd) (s : State) :
    Host.Outcome State Fault Refusal :=
  s.elementwise 3 vd m [va, vb, vc] 6 (op3 (arith3 ty r (fun p => ffma p r.rm r.fzo) (fun a b c => a * b + c)))

/-- VFMS: a × b − c. -/
def execVfms (vd va vb vc : BitVec 6) (m : Msk) (ty : BitVec 3) (r : Rnd) (s : State) :
    Host.Outcome State Fault Refusal :=
  s.elementwise 3 vd m [va, vb, vc] 6
    (op3 (arith3 ty r (fun p a b c => ffma p r.rm r.fzo a b c.neg) (fun a b c => a * b - c)))

/-- VFNMA: c − a × b. -/
def execVfnma (vd va vb vc : BitVec 6) (m : Msk) (ty : BitVec 3) (r : Rnd) (s : State) :
    Host.Outcome State Fault Refusal :=
  s.elementwise 3 vd m [va, vb, vc] 6
    (op3 (arith3 ty r (fun p a b c => ffma p r.rm r.fzo a.neg b c) (fun a b c => c - a * b)))

/-! ### Functions (R138) -/

/-- A function of one F32. -/
def State.function (s : State) (vd va : BitVec 6) (m : Msk) (r : Rnd) (l : Nat) (f : BitVec 2 → Bool → FV → FR) :
    Host.Outcome State Fault Refusal :=
  s.elementwise 3 vd m [va] l (op1 (fun a => f r.rm r.fzo (unpack r.fzi a)))

/-- VRCP. -/
def execVrcp (vd va : BitVec 6) (m : Msk) (r : Rnd) (s : State) : Host.Outcome State Fault Refusal :=
  s.function vd va m r 10 frcp
/-- VRSQ. -/
def execVrsq (vd va : BitVec 6) (m : Msk) (r : Rnd) (s : State) : Host.Outcome State Fault Refusal :=
  s.function vd va m r 10 frsq
/-- VSQRT. -/
def execVsqrt (vd va : BitVec 6) (m : Msk) (r : Rnd) (s : State) : Host.Outcome State Fault Refusal :=
  s.function vd va m r 14 fsqrt
/-- VEXP2. -/
def execVexp2 (vd va : BitVec 6) (m : Msk) (r : Rnd) (s : State) : Host.Outcome State Fault Refusal :=
  s.function vd va m r 12 fexp2
/-- VLOG2. -/
def execVlog2 (vd va : BitVec 6) (m : Msk) (r : Rnd) (s : State) : Host.Outcome State Fault Refusal :=
  s.function vd va m r 12 flog2

/-! ### Conversions (R139, R140) -/

/-- The lane result of a VCVT form but .L6.F32 (R139). That FZO sets UF and NX in .F32.BF16 too, where it flushes a subnormal,
is the model's reading of R58 beside R139 (DEDUCED, log 34). -/
def cvtLane (ty sub : BitVec 3) (r : Rnd) (a b : Lane) : FR :=
  match ty.toNat, sub.toNat with
  | 0, 1 => deliver 24 r.rm r.fzo (unpack r.fzi (loF a))
  | 0, 4 => deliver 24 0 r.fzo (l6Val (a.setWidth 6))
  | 0, 5 => plain (ofE8 (a.setWidth 8))
  | 0, 2 => ofInt32 r.rm r.fzo a.toInt
  | 0, _ => ofInt32 r.rm r.fzo (a.toNat : Int)
  | 1, _ => joinB (deliver 8 r.rm r.fzo (unpack r.fzi a)) (deliver 8 r.rm r.fzo (unpack r.fzi b))
  | 2, 0 => toInt32 true r.rm (unpack r.fzi a)
  | 3, 0 => toInt32 false r.rm (unpack r.fzi a)
  | 2, _ => if a.getLsbD 31 then ⟨0x7FFFFFFF#32, flNV⟩ else plain a
  | 3, _ => if a.getLsbD 31 then ⟨0, flNV⟩ else plain a
  | _, _ => toE8 a

/-- VCVT. VB is read only by .BF16.F32. -/
def execVcvt (vd va vb : BitVec 6) (m : Msk) (ty sub : BitVec 3) (r : Rnd) (s : State) :
    Host.Outcome State Fault Refusal :=
  s.elementwise 3 vd m (if ty.toNat = 1 then [va, vb] else [va]) 5 (op2 (cvtLane ty sub r))

/-- One block of VCVT.L6.F32: the lanes with the block's scale, and the flags (R140). -/
def cvtBlock (fzi computed : Bool) (act : Mask) (a b : List Lane) (base : Nat) : List Lane × Fl :=
  let ls := (List.range 128).map (fun i => base + i)
  let xs := ls.map (fun l => unpack fzi (a.getD l 0))
  let mine := ls.filter (fun l => act.getLsbD l)
  let e : Byte := if computed then l6Scale (mine.map (fun l => unpack fzi (a.getD l 0)))
    else (let v : Byte := (b.getD base 0).setWidth 8; if v = 255 then 254 else v)
  let rs := (ls.zip xs).map (fun p => if act.getLsbD p.1 then
      (let q := l6code p.2 e; ((0#16 ++ e ++ 0#2 ++ q.1 : Lane), q.2)) else (0, 0))
  (rs.map (·.1), rs.foldl (fun (f : Fl) q => f ||| q.2) 0)

/-- VCVT.L6.F32: VB 56 computes each block's scale. -/
def execVcvtL6 (vd va vb : BitVec 6) (m : Msk) (fzi : Bool) (s : State) : Host.Outcome State Fault Refusal :=
  s.finishV 3 (do
    let c := s.tc s.cur
    let act := c.active m
    let firsts := (List.range 4).foldl (fun (k : Mask) b =>
      if (List.range 128).any (fun i => act.getLsbD (128 * b + i)) then k ||| (1#512 <<< (128 * b)) else k) 0
    c.exposeCheck [(va, act), (vb, firsts)]
    let vs ← c.vsrcs [va, vb]
    let blocks := (List.range 4).map (fun b => cvtBlock fzi (vb = 56) act (vs.getD 0 []) (vs.getD 1 []) (128 * b))
    let fl := blocks.foldl (fun (f : Fl) q => f ||| q.2) 0
    .ok { (c.vpops [va, vb]).expose vd.toNat act (blocks.flatMap (·.1)) 5 with vflags := c.vflags ||| fl })

/-! ### Logic, shifts, selection, moves (R141, R142, R151) -/

/-- VAND. -/
def execVand (vd va vb : BitVec 6) (m : Msk) (s : State) : Host.Outcome State Fault Refusal :=
  s.elementwise 3 vd m [va, vb] 2 (op2 (fun a b => plain (a &&& b)))
/-- VOR. -/
def execVor (vd va vb : BitVec 6) (m : Msk) (s : State) : Host.Outcome State Fault Refusal :=
  s.elementwise 3 vd m [va, vb] 2 (op2 (fun a b => plain (a ||| b)))
/-- VXOR. -/
def execVxor (vd va vb : BitVec 6) (m : Msk) (s : State) : Host.Outcome State Fault Refusal :=
  s.elementwise 3 vd m [va, vb] 2 (op2 (fun a b => plain (a ^^^ b)))
/-- VNOT. -/
def execVnot (vd va : BitVec 6) (m : Msk) (s : State) : Host.Outcome State Fault Refusal :=
  s.elementwise 3 vd m [va] 2 (op1 (fun a => plain (~~~a)))
/-- VSHL. -/
def execVshl (vd va vb : BitVec 6) (m : Msk) (s : State) : Host.Outcome State Fault Refusal :=
  s.elementwise 3 vd m [va, vb] 2 (op2 (fun a b => plain (a <<< (b.toNat % 32))))
/-- VSHR. -/
def execVshr (vd va vb : BitVec 6) (m : Msk) (s : State) : Host.Outcome State Fault Refusal :=
  s.elementwise 3 vd m [va, vb] 2 (op2 (fun a b => plain (a >>> (b.toNat % 32))))
/-- VSHA. -/
def execVsha (vd va vb : BitVec 6) (m : Msk) (s : State) : Host.Outcome State Fault Refusal :=
  s.elementwise 3 vd m [va, vb] 2 (op2 (fun a b => plain (a.sshiftRight (b.toNat % 32))))
/-- VSEL: a where the lane is active, b elsewhere; every lane is written. -/
def execVsel (vd va vb : BitVec 6) (m : Msk) (s : State) : Host.Outcome State Fault Refusal :=
  s.wholeVector vd m [va, vb] 2 (fun act => [act, ~~~act]) (fun act vs =>
    ((List.range 512).map (fun i => (vs.getD (if act.getLsbD i then 0 else 1) []).getD i 0), 0))
/-- VMOV. -/
def execVmov (vd va : BitVec 6) (m : Msk) (s : State) : Host.Outcome State Fault Refusal :=
  s.elementwise 3 vd m [va] 2 (op1 plain)
/-- VLI (R151). -/
def execVli (vd : BitVec 6) (m : Msk) (imm : BitVec 16) (s : State) : Host.Outcome State Fault Refusal :=
  s.elementwise 3 vd m [] 2 (fun _ => plain (imm.signExtend 32))
/-- VNOP (R135). -/
def execVnop (s : State) : Host.Outcome State Fault Refusal := s.finishV 1 (.ok (s.tc s.cur))

/-! ### Compares, tests, masks (R143–R145) -/

/-- cond(a, b) of R143 by TY and SUB. -/
def vcond (ty cc : BitVec 3) (fzi : Bool) (a b : Lane) : Bool :=
  let nan : Bool := ty = 0 && (isNanL a || isNanL b)
  let (x, y) : Int × Int :=
    match ty.toNat with
    | 0 => (fkey (flushIn fzi a), fkey (flushIn fzi b))
    | 2 => (a.toInt, b.toInt)
    | _ => ((a.toNat : Int), (b.toNat : Int))
  match cc.toNat with
  | 0 => !nan && x = y
  | 1 => nan || x ≠ y
  | 2 => !nan && x < y
  | 3 => !nan && x ≤ y
  | 4 => !nan && y < x
  | 5 => !nan && y ≤ x
  | 6 => nan
  | _ => !nan

/-- The mask of the active lanes where the condition holds. -/
def condMask (act : Mask) (f : Nat → Bool) : Mask :=
  (List.range 512).foldl (fun (m : Mask) i => if act.getLsbD i && f i then m ||| (1#512 <<< i) else m) 0

/-- VCMP: inactive lanes receive 0; the mask is interlocked. -/
def execVcmp (md : BitVec 3) (va vb : BitVec 6) (m : Msk) (ty cc : BitVec 3) (fzi : Bool) (s : State) :
    Host.Outcome State Fault Refusal :=
  s.finishV 3 (do
    let c := s.tc s.cur
    let act := c.active m
    c.exposeCheck [(va, act), (vb, act)]
    let vs ← c.vsrcs [va, vb]
    .ok ((c.vpops [va, vb]).setMask md (condMask act (fun i =>
      vcond ty cc fzi ((vs.getD 0 []).getD i 0) ((vs.getD 1 []).getD i 0)))))

/-- A push into CQV (R101, R144): a full CQV makes the engine wait; a hand-off is a release at TILE scope (R83), so it
waits until the earlier vector accesses are performed. -/
def State.pushCqv (s : State) (codes : List (BitVec 6)) (m : Msk) (f : Mask → List (List Lane) → Bool) :
    Host.Outcome State Fault Refusal :=
  s.finishV 3 (do
    let c := s.tc s.cur
    let act := c.active m
    c.exposeCheck (codes.map (fun k => (k, act)))
    let vs ← c.vsrcs codes
    roomC c.cqv
    if !s.vectorQuiet s.cur then holdE else
    .ok ((c.vpops codes).pushV (f act vs)))

/-- The active lanes as a list. -/
def lanesOf (act : Mask) : List Nat := (List.range 512).filter (fun i => act.getLsbD i)

/-- VCMPQ. -/
def execVcmpq (all : Bool) (va vb : BitVec 6) (m : Msk) (ty cc : BitVec 3) (fzi : Bool) (s : State) :
    Host.Outcome State Fault Refusal :=
  s.pushCqv [va, vb] m (fun act vs =>
    let f (i : Nat) := vcond ty cc fzi ((vs.getD 0 []).getD i 0) ((vs.getD 1 []).getD i 0)
    if all then (lanesOf act).all f else (lanesOf act).any f)

/-- Whether a lane is zero by TY (R144). -/
def laneZero (ty : BitVec 3) (fzi : Bool) (x : Lane) : Bool :=
  let z (y : Lane) : Bool := flushIn fzi y &&& 0x7FFFFFFF#32 = 0
  match ty.toNat with
  | 0 => z x
  | 1 => z (loF x) && z (hiF x)
  | _ => x = 0

/-- VTESTZ. -/
def execVtestz (va : BitVec 6) (m : Msk) (ty : BitVec 3) (fzi : Bool) (s : State) :
    Host.Outcome State Fault Refusal :=
  s.pushCqv [va] m (fun act vs => (lanesOf act).all (fun i => laneZero ty fzi ((vs.getD 0 []).getD i 0)))

/-- VTESTN: −∞, for BF16 in both halves. FZI changes no infinity. -/
def execVtestn (va : BitVec 6) (m : Msk) (ty : BitVec 3) (_fzi : Bool) (s : State) :
    Host.Outcome State Fault Refusal :=
  s.pushCqv [va] m (fun act vs => (lanesOf act).all (fun i =>
    (vs.getD 0 []).getD i 0 = if ty = 1 then 0xFF80FF80#32 else 0xFF800000#32))

/-- A mask operation (R145). -/
def State.maskOp (s : State) (d a b : BitVec 3) (f : Mask → Mask → Mask) : Host.Outcome State Fault Refusal :=
  let c := s.tc s.cur
  s.finishV 3 (.ok (c.setMask d (f (c.maskReg a) (c.maskReg b))))

/-- VMAND. -/
def execVmand (d a b : BitVec 3) (s : State) : Host.Outcome State Fault Refusal := s.maskOp d a b (fun a b => a &&& b)
/-- VMOR. -/
def execVmor (d a b : BitVec 3) (s : State) : Host.Outcome State Fault Refusal := s.maskOp d a b (fun a b => a ||| b)
/-- VMXOR. -/
def execVmxor (d a b : BitVec 3) (s : State) : Host.Outcome State Fault Refusal := s.maskOp d a b (fun a b => a ^^^ b)
/-- VMANDN. -/
def execVmandn (d a b : BitVec 3) (s : State) : Host.Outcome State Fault Refusal :=
  s.maskOp d a b (fun a b => a &&& ~~~b)
/-- VMNOT. -/
def execVmnot (d a : BitVec 3) (s : State) : Host.Outcome State Fault Refusal := s.maskOp d a 0 (fun a _ => ~~~a)
/-- VMSET. -/
def execVmset (d : BitVec 3) (s : State) : Host.Outcome State Fault Refusal := s.maskOp d 0 0 (fun _ _ => allLanes)
/-- VMCLR. -/
def execVmclr (d : BitVec 3) (s : State) : Host.Outcome State Fault Refusal := s.maskOp d 0 0 (fun _ _ => 0)

/-! ### Reductions and scan (R71, R72, R146, R147) -/

/-- The lanes of each segment: one of 512 or eight of 64. -/
def segments (seg : Bool) : List (List Nat) :=
  if seg then (List.range 8).map (fun k => (List.range 64).map (fun i => 64 * k + i)) else [List.range 512]

/-- A result for each segment, in every lane of it. -/
def perSegment (seg : Bool) (f : List Nat → Lane × Fl) : List Lane × Fl :=
  let rs := (segments seg).map (fun ls => (ls.length, f ls))
  (rs.flatMap (fun r => List.replicate r.1 r.2.1), rs.foldl (fun (a : Fl) r => a ||| r.2.2) 0)

/-- The identity of R71 for an inactive F32 lane. -/
def fIdentity (rm : BitVec 2) : Lane := if rm = 2 then 0 else 0x80000000#32

/-- One F32 add of a tree or a scan; FZO flushes each sum (R58, R71; DESIGN CHOICE, log 34). -/
def treeAdd (r : Rnd) (a b : Lane) : FR := fadd 24 r.rm r.fzo (unpack false a) (unpack false b)

/-- One level of the pairwise tree: adjacent results, the lower one on the left. -/
def treeLevel (f : Lane → Lane → FR) : List Lane → List Lane × Fl
  | a :: b :: rest =>
    let r := f a b
    let q := treeLevel f rest
    (r.bits :: q.1, r.fl ||| q.2)
  | xs => (xs, 0)

/-- The tree of R71, by levels. -/
def treeSum (f : Lane → Lane → FR) : Nat → List Lane → Lane × Fl
  | 0, xs => (xs.headD 0, 0)
  | n + 1, xs =>
    let q := treeLevel f xs
    let r := treeSum f n q.1
    (r.1, q.2 ||| r.2)

/-- The operand of a lane in a tree or scan: flushed under FZI, or the identity where inactive; a NaN is canonical. -/
def sumOperand (ty : BitVec 3) (r : Rnd) (act : Mask) (v : List Lane) (i : Nat) : Lane :=
  let x := v.getD i 0
  if ty = 0 then (if act.getLsbD i then notNan (flushIn r.fzi) x else fIdentity r.rm)
  else if act.getLsbD i then x else 0

/-- The add of a tree or scan by TY. -/
def sumOp (ty : BitVec 3) (r : Rnd) (a b : Lane) : FR := if ty = 0 then treeAdd r a b else plain (a + b)

/-- VRSUM. -/
def execVrsum (vd va : BitVec 6) (m : Msk) (ty : BitVec 3) (seg : Bool) (r : Rnd) (s : State) :
    Host.Outcome State Fault Refusal :=
  s.wholeVector vd m [va] 9 (fun act => [act]) (fun act vs =>
    perSegment seg (fun ls => treeSum (sumOp ty r) 9 (ls.map (sumOperand ty r act (vs.getD 0 [])))))

/-- The extreme of a segment by TY (R72, R146). -/
def extreme (larger : Bool) (ty : BitVec 3) (act : Mask) (v : List Lane) (ls : List Nat) : Lane :=
  let mine := (ls.filter (fun i => act.getLsbD i)).map (fun i => v.getD i 0)
  if ty = 0 then
    let nums := mine.filter (fun x => !isNanL x)
    match nums with
    | [] => if mine.isEmpty then infBits 24 larger else nanBits 24
    | x :: rest => rest.foldl (fpick larger) x
  else
    let none_ : Lane := if ty = 2 then (if larger then 0x80000000#32 else 0x7FFFFFFF#32)
      else (if larger then 0 else 0xFFFFFFFF#32)
    mine.foldl (ipick larger ty) none_

/-- VRMAX. -/
def execVrmax (vd va : BitVec 6) (m : Msk) (ty : BitVec 3) (seg : Bool) (s : State) :
    Host.Outcome State Fault Refusal :=
  s.wholeVector vd m [va] 9 (fun act => [act]) (fun act vs =>
    perSegment seg (fun ls => (extreme true ty act (vs.getD 0 []) ls, 0)))

/-- VRMIN. -/
def execVrmin (vd va : BitVec 6) (m : Msk) (ty : BitVec 3) (seg : Bool) (s : State) :
    Host.Outcome State Fault Refusal :=
  s.wholeVector vd m [va] 9 (fun act => [act]) (fun act vs =>
    perSegment seg (fun ls => (extreme false ty act (vs.getD 0 []) ls, 0)))

/-- The lane of the largest |x| (R72): the lowest on ties; all ones with none. -/
def argMax (act : Mask) (v : List Lane) (ls : List Nat) : Lane :=
  let mine := ls.filter (fun i => act.getLsbD i && !isNanL (v.getD i 0))
  match mine.foldl (fun (m : Option (Nat × Nat)) i =>
      let k := ((v.getD i 0).extractLsb' 0 31).toNat
      match m with
      | none => some (i, k)
      | some q => if q.2 < k then some (i, k) else m) none with
  | none => 0xFFFFFFFF#32
  | some q => BitVec.ofNat 32 q.1

/-- VRAMAX. -/
def execVramax (vd va : BitVec 6) (m : Msk) (seg : Bool) (s : State) : Host.Outcome State Fault Refusal :=
  s.wholeVector vd m [va] 9 (fun act => [act]) (fun act vs =>
    perSegment seg (fun ls => (argMax act (vs.getD 0 []) ls, 0)))

/-- One step of the scan of R71: each lane takes the value `d` below it, as it stood before the step. A lane that takes no
addition is delivered as it is, unflushed and without flags (DEDUCED, log 34). -/
def scanStep (f : Lane → Lane → FR) (d : Nat) (xs : List Lane) : List Lane × Fl :=
  let rs := (xs.drop d).zipWith (fun x y => f y x) xs
  (xs.take d ++ rs.map (·.bits), rs.foldl (fun (a : Fl) r => a ||| r.fl) 0)

/-- The scan of a segment: steps 1, 2, 4 … to half of it. -/
def scanGo (f : Lane → Lane → FR) (len : Nat) : Nat → Nat → List Lane → List Lane × Fl
  | 0, _, xs => (xs, 0)
  | n + 1, d, xs =>
    if d < len then
      let q := scanStep f d xs
      let r := scanGo f len n (2 * d) q.1
      (r.1, q.2 ||| r.2)
    else (xs, 0)

/-- VSCAN. -/
def execVscan (vd va : BitVec 6) (m : Msk) (ty : BitVec 3) (seg : Bool) (r : Rnd) (s : State) :
    Host.Outcome State Fault Refusal :=
  s.wholeVector vd m [va] 11 (fun act => [act]) (fun act vs =>
    let rs := (segments seg).map (fun ls =>
      scanGo (sumOp ty r) ls.length 9 1 (ls.map (sumOperand ty r act (vs.getD 0 []))))
    (rs.flatMap (·.1), rs.foldl (fun (a : Fl) q => a ||| q.2) 0))

/-! ### Permutes, sort, draws (R148–R150) -/

/-- The mask of the lanes that a function of the active lanes names. -/
def readLanes (act : Mask) (f : Nat → Nat) : Mask := lanesMask ((lanesOf act).map f)

/-- An elementwise permute: lane l of VD takes lane f l of VA. -/
def State.permute (s : State) (vd va : BitVec 6) (m : Msk) (l : Nat) (f : Nat → Nat) (only : Option Nat) :
    Host.Outcome State Fault Refusal :=
  s.finishV 3 (do
    let c := s.tc s.cur
    let act := c.active m
    c.exposeCheck [(va, match only with | some k => 1#512 <<< k | none => readLanes act f)]
    let vs ← c.vsrcs [va]
    .ok ((c.vpops [va]).expose vd.toNat act (eachActive act (fun i => (vs.getD 0 []).getD (f i) 0)) l))

/-- VPERM. The lanes of VA that it reads stand in VB, so the wait for its sources comes before EXPOSE here, and after it elsewhere
(R130; DESIGN CHOICE, log 48). -/
def execVperm (vd va vb : BitVec 6) (m : Msk) (s : State) : Host.Outcome State Fault Refusal :=
  s.finishV 3 (do
    let c := s.tc s.cur
    let act := c.active m
    let vs ← c.vsrcs [va, vb]
    let idx (i : Nat) : Nat := ((vs.getD 1 []).getD i 0).toNat % 512
    c.exposeCheck [(va, readLanes act idx), (vb, act)]
    .ok ((c.vpops [va, vb]).expose vd.toNat act (eachActive act (fun i => (vs.getD 0 []).getD (idx i) 0)) 5))

/-- VROT. -/
def execVrot (vd va : BitVec 6) (m : Msk) (n : BitVec 9) (s : State) : Host.Outcome State Fault Refusal :=
  s.permute vd va m 5 (fun i => (i + n.toNat) % 512) none

/-- VBCAST. -/
def execVbcast (vd va : BitVec 6) (m : Msk) (k : BitVec 9) (s : State) : Host.Outcome State Fault Refusal :=
  s.permute vd va m 3 (fun _ => k.toNat) (some k.toNat)

/-- Whether pair p stays before pair q in VSORT (R73): by descending key, equal keys in lane order. -/
def sortsBefore (p q : Lane × Lane) : Bool := fkey q.1 ≤ fkey p.1

/-- A pair into its place, after the pairs that stay before it. -/
def sortInsert (p : Lane × Lane) : List (Lane × Lane) → List (Lane × Lane)
  | [] => [p]
  | q :: rest => if sortsBefore q p then q :: sortInsert p rest else p :: q :: rest

/-- The pairs of a segment in the order of R73 and R149. A key that is a NaN keeps its bits (DEDUCED, log 34). -/
def sortSegment (act : Mask) (a b : List Lane) (ls : List Nat) : List (Lane × Lane) :=
  let pair (i : Nat) : Lane × Lane := (a.getD i 0, b.getD i 0)
  let on := ls.filter (fun i => act.getLsbD i)
  let nums := (on.map pair).filter (fun p => !isNanL p.1)
  let nans := (on.map pair).filter (fun p => isNanL p.1)
  nums.foldl (fun l p => sortInsert p l) [] ++ nans ++ (ls.filter (fun i => !act.getLsbD i)).map pair

/-- VSORT: keys into VD, indices into V(VD + 1), both exposed 16 ticks. -/
def execVsort (vd va vb : BitVec 6) (m : Msk) (s : State) : Host.Outcome State Fault Refusal :=
  s.finishV 3 (do
    let c := s.tc s.cur
    let act := c.active m
    c.exposeCheck [(va, allLanes), (vb, allLanes)]
    let vs ← c.vsrcs [va, vb]
    let ps := (segments true).flatMap (sortSegment act (vs.getD 0 []) (vs.getD 1 []))
    .ok (((c.vpops [va, vb]).expose vd.toNat allLanes (ps.map (·.1)) 16).expose (vd.toNat + 1) allLanes
      (ps.map (·.2)) 16))

/-- VRAND. -/
def execVrand (vd va vb : BitVec 6) (m : Msk) (f32 : Bool) (s : State) : Host.Outcome State Fault Refusal :=
  s.finishV 3 (do
    let c := s.tc s.cur
    let act := c.active m
    c.exposeCheck [(va, 3), (vb, 3)]
    let vs ← c.vsrcs [va, vb]
    let wide (v : List Lane) : BitVec 64 := v.getD 1 0 ++ v.getD 0 0
    let key := wide (vs.getD 0 [])
    let ctr := wide (vs.getD 1 [])
    let vals := eachActive act (fun i =>
      let u : Lane := (fmix64 (key ^^^ (ctr + BitVec.ofNat 64 i))).extractLsb' 32 32
      if f32 then drawF32 u else u)
    .ok ((c.vpops [va, vb]).expose vd.toNat act vals 8))

/-! ### Address registers (R152) -/

/-- An address register (R123). -/
def TCtx.va (c : TCtx) (n : BitVec 3) : Dbl := (aget c.vas n.toNat).getD 0
/-- A tile context with an address register written. -/
def TCtx.setVa (c : TCtx) (n : BitVec 3) (v : Dbl) : TCtx := { c with vas := aset c.vas n.toNat v }

/-- VAI. -/
def execVai (n : BitVec 3) (imm : BitVec 32) (s : State) : Host.Outcome State Fault Refusal :=
  s.finishV 3 (.ok ((s.tc s.cur).setVa n (imm.signExtend 64)))
/-- VAADD. -/
def execVaadd (n : BitVec 3) (imm : BitVec 16) (s : State) : Host.Outcome State Fault Refusal :=
  let c := s.tc s.cur
  s.finishV 2 (.ok (c.setVa n (c.va n + imm.signExtend 64 * 64)))
/-- VAPARM: a load of class 15 of the vector stream, which follows every earlier access of that stream. -/
def execVaparm (n : BitVec 3) (w : BitVec 6) (s : State) : Host.Outcome State Fault Refusal :=
  s.finishAt .v 2 accR (do
    let (s', v) ← s.paramWord s.cur w
    if !s.vectorQuiet s.cur then holdE else
    .ok (s'.modTc s.cur (fun c => { c.setVa n v with tick := c.tick + 1 })))

/-! ### Loads and stores (R153–R155) -/

/-- The format code of the bank that holds an address (R153); RAW outside every window. -/
def State.fmtAt (s : State) (t : PTile) (a : Dbl) : Nat :=
  let code (p : PTile) (o : Nat) : Nat := (((aget (s.tc p).bfmt (o / 65536)).getD 0).extractLsb' 0 4).toNat
  let v := a.toNat
  if 0x00FF00000000 ≤ v && v < 0x00FF00200000 then code t (v - 0x00FF00000000)
  else if 0x00FE00000000 ≤ v && v < 0x00FE10000000 then
    match s.mapTile (liveCtx (s.tile t)) ((v - 0x00FE00000000) / 0x200000) with
    | some p => code p ((v - 0x00FE00000000) % 0x200000)
    | none => 0
  else 0

/-- The element kind of an access (R153): PROT for a code that is refused (R201). -/
def elemOf (sz : BitVec 2) (code : Nat) (a : Dbl) : Except Halt VElem :=
  match sz.toNat with
  | 0 => .ok .w32
  | 1 => .ok .h16
  | 2 => .ok .s8
  | _ =>
    match code with
    | 0 => .ok .w32
    | 1 => .ok .w32
    | 2 => .ok .h16
    | 3 => .ok .w32
    | 4 => .ok .s8
    | 5 => .ok .l6
    | 6 => .ok .u8
    | _ => trapE cPROT a

/-- Bytes by which an access of an element must be aligned (R154). -/
def elemAlign : VElem → Nat | .w32 => 4 | .h16 => 2 | .s8 => 1 | .u8 => 1 | .l6 => 64

/-- Where the lanes of an access lead, and which lanes fail, with their addresses. -/
def State.locateLanes (s : State) (t : PTile) (acc : Acc) :
    List (Nat × Dbl × Nat) → State × List (Nat × Loc) × List (Dbl × Halt)
  | [] => (s, [], [])
  | (l, a, n) :: rest =>
    match (if 2 ^ 56 ≤ a.toNat then trapE cPROT a else s.locate t a n acc) with
    | .error h =>
      let q := s.locateLanes t acc rest
      (q.1, q.2.1, (a, h) :: q.2.2)
    | .ok (s', at_) =>
      let q := s'.locateLanes t acc rest
      (q.1, (l, at_) :: q.2.1, q.2.2)

/-- The lowest of the failing addresses with a given cause. -/
def lowestFail (code : Byte) (fails : List (Dbl × Halt)) : Option Dbl :=
  let mine := fails.filter (fun f => match f.2 with | .trap k => k.code = code | _ => false)
  match mine with
  | [] => none
  | f :: rest => some (rest.foldl (fun m g => if g.1 < m then g.1 else m) f.1)

/-- The trap of an access whose lanes fail (R134): PROT before PAGE, each with the lowest failing address; a gather or
scatter reports the lowest failing lane. PEERFAIL and the wait for an exchanging tile, which is no stall (R77, R396), come last. -/
def laneFail (byLane : Bool) (fails : List (Dbl × Halt)) : Except Halt Unit :=
  let first (code : Byte) : Option Dbl :=
    if byLane then (fails.find? (fun f => match f.2 with | .trap k => k.code = code | _ => false)).map (·.1)
    else lowestFail code fails
  match fails with
  | [] => .ok ()
  | _ =>
    match first cPROT, first cPAGE, first cPEERFAIL with
    | some a, _, _ => trapE cPROT a
    | none, some a, _ => trapE cPAGE a
    | none, none, some a => trapE cPEERFAIL a
    | none, none, none => holdE

/-- The lowest byte of a lane that is past the 2 MiB window of `ea`: the first byte past its end, for an element that straddles
it (R134). -/
def pastWindow (ea a : Dbl) : Dbl :=
  let stop : Dbl := BitVec.ofNat 64 ((ea.toNat / 0x200000 + 1) * 0x200000)
  if a < stop then stop else a

/-- The bytes past the 2 MiB window in which a contiguous access starts trap PROT (R76): whether lane address `a` of `n`
bytes stays in the window of `ea`. -/
def sameWindow (ea a : Dbl) (n : Nat) : Bool :=
  if 0x00FE00000000 ≤ ea.toNat && ea.toNat < 0x010000000000 then
    (a.toNat + n - 1) / 0x200000 = ea.toNat / 0x200000
  else true

/-- The lanes of a contiguous access with their addresses and bytes (R154). -/
def lineLanes (e : VElem) (act : Mask) (ea : Dbl) : List (Nat × Dbl × Nat) :=
  (lanesOf act).map (fun l =>
    (l, ea + BitVec.ofNat 64 (match e with | .l6 => 6 * l / 8 | _ => l * elemAlign e), elemBytes e l))

/-- The effective address of VLD and VST. -/
def TCtx.vea (c : TCtx) (m : VMem) : Dbl := c.va m.areg + m.off.signExtend 64 * 64

/-- A contiguous access checked and translated (R134, R153, R154). -/
def State.lineAccess (s : State) (m : VMem) (acc : Acc) : Except Halt (State × VElem × List (Nat × Loc)) := do
  let c := s.tc s.cur
  let ea := c.vea m
  let e ← elemOf m.sz (s.fmtAt s.cur ea) ea
  if ea.toNat % elemAlign e ≠ 0 then trapE cALIGN ea else
  let ls := lineLanes e (c.active m.m) ea
  let out := ls.filter (fun p => !sameWindow ea p.2.1 p.2.2)
  let q := s.locateLanes s.cur acc (ls.filter (fun p => sameWindow ea p.2.1 p.2.2))
  laneFail false (q.2.2 ++ out.map (fun p => (pastWindow ea p.2.1, Halt.trap ⟨cPROT, pastWindow ea p.2.1⟩)))
  .ok (q.1, e, q.2.1)

/-- The lane addresses of a gather or scatter (R155). -/
def gatherLanes (e : VElem) (act : Mask) (base : Dbl) (idx : List Lane) : List (Nat × Dbl × Nat) :=
  (lanesOf act).map (fun l =>
    (l, base + (idx.getD l 0).signExtend 64 * BitVec.ofNat 64 (elemAlign e), elemAlign e))

/-- A gather or scatter checked and translated (R155): BK on an L6 bank traps PROT, with TVAL the address in VAn and whatever
the mask, for its elements have no size in bytes to give a lane an address (DESIGN CHOICE, log 34). -/
def State.gatherAccess (s : State) (m : VMemX) (idx : List Lane) (acc : Acc) :
    Except Halt (State × VElem × List (Nat × Loc)) := do
  let c := s.tc s.cur
  let base := c.va m.areg
  let e ← elemOf m.sz (s.fmtAt s.cur base) base
  if e = .l6 then trapE cPROT base else
  let ls := gatherLanes e (c.active m.m) base idx
  match ls.find? (fun p => p.2.1.toNat % elemAlign e ≠ 0) with
  | some p => trapE cALIGN p.2.1
  | none =>
    let q := s.locateLanes s.cur acc ls
    laneFail true q.2.2
    .ok (q.1, e, q.2.1)

/-- A load in flight (R133): the 17th waits; a load of no lane is none. -/
def TCtx.issueLoad (c : TCtx) (cls scope vd : Nat) (e : VElem) (lanes : List (Nat × Loc)) : TCtx :=
  let c := { c with seq := c.seq + 1, tick := c.tick + 1 }
  if lanes.isEmpty then c
  else { c with vloads := c.vloads ++ [⟨c.seq - 1, cls, scope, vd, e, lanes, c.tick - 1⟩] }

/-- VLD. -/
def execVld (m : VMem) (s : State) : Host.Outcome State Fault Refusal :=
  s.finishAt .v 3 accR (do
    let (s', e, lanes) ← s.lineAccess m accR
    if 16 ≤ (s.tc s.cur).vloads.length then holdE else
    .ok (s'.modTc s.cur (fun c => c.issueLoad m.cls.toNat m.scope.toNat m.v.toNat e lanes)))

/-- VLDX. -/
def execVldx (m : VMemX) (s : State) : Host.Outcome State Fault Refusal :=
  s.finishAt .v 3 accR (do
    let c := s.tc s.cur
    c.exposeCheck [(m.vi, c.active m.m)]
    let vs ← c.vsrcs [m.vi]
    let (s', e, lanes) ← s.gatherAccess m (vs.getD 0 []) accR
    if 16 ≤ c.vloads.length then holdE else
    .ok (s'.modTc s.cur (fun c => c.issueLoad m.cls.toNat m.scope.toNat m.v.toNat e lanes)))

/-- The bytes with their written bits of one stored element (R153). -/
def storeBytes (e : VElem) (l : Nat) (at_ : Loc) (x : Lane) : List (Loc × Byte × Byte) :=
  let step (k : Nat) : Loc := match at_ with | .mem pa => .mem (pa + k) | .scr t o => .scr t (o + k)
  let byte (k : Nat) : Byte := x.extractLsb' (8 * k) 8
  match e with
  | .w32 => (List.range 4).map (fun k => (step k, 0xFF, byte k))
  | .h16 => (List.range 2).map (fun k => (step k, 0xFF, byte (k + 2)))
  | .s8 => [(at_, 0xFF, byte 0)]
  | .u8 => [(at_, 0xFF, byte 0)]
  | .l6 =>
    let sh := 6 * l % 8
    let v := (x.toNat % 64) * 2 ^ sh
    let k := 63 * 2 ^ sh
    (List.range (elemBytes .l6 l)).map (fun i =>
      (step i, BitVec.ofNat 8 (k / 256 ^ i), BitVec.ofNat 8 (v / 256 ^ i)))

/-- A vector store that issues: its bytes are performed later (R80, R154). -/
def TCtx.issueStore (c : TCtx) (cls scope : Nat) (bytes : List (Loc × Byte × Byte)) : TCtx :=
  let c := { c with seq := c.seq + 1, tick := c.tick + 1 }
  if bytes.isEmpty then c else { c with vstores := c.vstores ++ [⟨c.seq - 1, cls, scope, bytes⟩] }

/-- VST; a source that it must wait for comes before the traps of its access (R134; DESIGN CHOICE, log 63). -/
def execVst (m : VMem) (s : State) : Host.Outcome State Fault Refusal :=
  s.finishAt .v 3 accW (do
    let c := s.tc s.cur
    c.exposeCheck [(m.v, c.active m.m)]
    let vs ← c.vsrcs [m.v]
    let (s', e, lanes) ← s.lineAccess m accW
    .ok (s'.modTc s.cur (fun c => (c.vpops [m.v]).issueStore m.cls.toNat m.scope.toNat
      (lanes.flatMap (fun p => storeBytes e p.1 p.2 ((vs.getD 0 []).getD p.1 0))))))

/-- VSTX: the index register, then VS (R131); active lanes in ascending order. Its waits come before its traps as those of VST do. -/
def execVstx (m : VMemX) (s : State) : Host.Outcome State Fault Refusal :=
  s.finishAt .v 3 accW (do
    let c := s.tc s.cur
    c.exposeCheck [(m.vi, c.active m.m), (m.v, c.active m.m)]
    let vs ← c.vsrcs [m.vi, m.v]
    let (s', e, lanes) ← s.gatherAccess m (vs.getD 0 []) accW
    .ok (s'.modTc s.cur (fun c => (c.vpops [m.vi, m.v]).issueStore m.cls.toNat m.scope.toNat
      (lanes.flatMap (fun p => storeBytes e p.1 p.2 ((vs.getD 1 []).getD p.1 0))))))

/-- VMOVQ (R99, R156): a full queue makes the engine wait; the push is a release at TILE scope (R83), so it waits until the
earlier vector accesses are performed. -/
def execVmovq (d : BitVec 4) (va : BitVec 6) (lane : BitVec 9) (s : State) : Host.Outcome State Fault Refusal :=
  s.finishV 2 (do
    let c := s.tc s.cur
    c.exposeCheck [(va, 1#512 <<< lane.toNat)]
    let vs ← c.vsrcs [va]
    if 4 ≤ (c.q d).length then waitE else
    if !s.vectorQuiet s.cur then holdE else
    .ok ((c.vpops [va]).reserve d 0 0 (.value (((vs.getD 0 []).getD lane.toNat 0).setWidth 64))))

/-! ### Events of the vector engine -/

/-- PENDING_WRITE_LAND (R126): the i-th pending write of the acting tile lands when it is visible to the next issue and
no write that readers see before it is still to land. -/
def execPendingWriteLand (i : Nat) (s : State) : Host.Outcome State Fault Refusal :=
  let c := s.tc s.cur
  match c.pending[i]? with
  | none => .next s
  | some w =>
    let others := (c.pending.take i).all (fun x => x.reg ≠ w.reg || !x.before w) &&
      (c.pending.drop (i + 1)).all (fun x => x.reg ≠ w.reg || w.before x)
    if w.vis ≤ c.tick && others && c.vloads.all (fun l => l.reg ≠ w.reg) then
      .next (s.modTc s.cur (fun c => { c.land w with pending := c.pending.eraseIdx i }))
    else .next s

end Sys2Proof.Machine
end

