-- ==== Sys2Proof/Machine/Contain.lean ====
section
/-! DEFINITION. Containment (R224, R360, R361, R387): fencing a tile, MCHECK, and the pending accesses of a tile, which may find an
uncorrectable line. -/

namespace Sys2Proof.Machine

/-- Whether the records of a tile run (R346, R358, R360, R385): not fenced, not in an exchange, its island clocked. -/
def State.recordsRun (s : State) (t : PTile) : Bool :=
  let x := s.tile t
  x.live.isSome && s.clocked t && (match x.stop with | .none => true | .abatal _ => true | _ => false)

/-- ZSPEC of a matrix record that has one (R177, R182). -/
def MRec.zspec (r : MRec) : Dbl := if r.op = 9 then r.ops.getD 0 0 else r.ops.getD 3 0

/-- The counter that a matrix record names (R169). -/
def MRec.counter (r : MRec) : Option Nat :=
  if (r.op = 6 || r.op = 7 || r.op = 9) && r.zspec.getLsbD 61 then some (r.zspec.extractLsb' 56 5).toNat else none

/-- The kind codes of copy records (R205). -/
def kFEED : Nat := 5
/-- See `kFEED`. -/
def kXTADD : Nat := 11

/-- An XTADD's KIND, logical tile and mailbox (R235); the record's CSPEC field holds its SCOPE and its counter. -/
def XRec.target (r : XRec) : Nat × Nat × Nat :=
  let w := r.ops.getD 1 0
  ((w.extractLsb' 16 2).toNat, (w.extractLsb' 24 7).toNat, (w.extractLsb' 32 6).toNat)

/-- CTR of a record's CSPEC. -/
def XRec.ctr (r : XRec) : BitVec 5 := r.cspec.extractLsb' 0 5
/-- CLS of a record's CSPEC; a feed's reads are class 13 (R215). -/
def XRec.cls (r : XRec) : Nat := if r.kind = kFEED then 13 else (r.cspec.extractLsb' 6 4).toNat
/-- SCOPE of a record's CSPEC. -/
def XRec.scope (r : XRec) : Nat := if r.kind = kFEED then 1 else (r.cspec.extractLsb' 10 3).toNat
/-- MODE of a record's CSPEC. -/
def XRec.mode (r : XRec) : Bool := r.kind ≠ kXTADD && r.cspec.getLsbD 5

/-- The FAIL bit of the counter that a discarded copy record names (R224, R235): an XTADD's target is told. -/
def State.failRecord (s : State) (t : PTile) (r : XRec) : State :=
  let c := liveCtx (s.tile t)
  if r.kind = kFEED then s
  else if r.kind = kXTADD then
    let (k, tile, _) := r.target
    if k = 0 then s.modTc t (fun q => q.setFail r.ctr.toNat)
    else if k = 1 then
      match s.mapTile c tile with
      | some p => { s with flying := s.flying ++ [⟨p, c, r.ctr, 0, true⟩] }
      | none => s
    else s
  else s.modTc t (fun q => q.setFail r.ctr.toNat)

/-- The FAIL bit of the counter that a discarded matrix record names, and its version holder dropped (R164, R224). -/
def State.failMatrix (s : State) (t : PTile) (r : MRec) : State :=
  let s := match r.counter with
    | some n => s.modTc t (fun q => q.setFail n)
    | none => s
  if r.holder then s.dropHolder (liveCtx (s.tile t)) ((r.ops.getD 1 0).extractLsb' 48 6).toNat else s

/-- A tile becomes FAILED in the entry that a slot of it names, and where it is a member that was not, the entry is tested
(R229, 5; R361). -/
def State.failMember (s : State) (t : PTile) (g : GSlot) : State :=
  if !g.valid then s else
  let n := s.logical (liveCtx (s.tile t)) t
  let x := s.group g.die g.entry.toNat
  let s := s.modGroup g.die g.entry.toNat (fun x => { x with failed := x.failed ||| (1#128 <<< n) })
  if x.members.getLsbD n && !x.failed.getLsbD n then s.testRelease g.die g.entry.toNat 2 else s

/-- A role change that was pending is made (R308), and the ADOPT handle is dropped (R309). -/
def State.flipRole (s : State) (t : PTile) : State :=
  if !(s.tile t).pend then s else
  (s.changeHandle t 0 (s.tc t).adIdx).modTile t (fun x => { x with pend := false })

/-- Fencing a tile (R361): the set is written back (R89), records are discarded, stores that have not left are discarded,
the task fails with its cascade, and the groups learn of it. No task runs on the tile any more, so a pending role change is
made (R308); the failed task is the last that the tile ran (R245), and it is charged what it ran (R288). -/
def State.fenceTile (s : State) (t : PTile) : State :=
  let q := s.tc t
  let last := q.task.bind (fun k => (s.slot (dieOf t) k.slot.toNat).map (·.age))
  let ran := (s.tile t).cycles
  let s := s.writeBackSet t
  let s := q.xrecs.foldl (fun s r => s.failRecord t r) s
  let s := q.mq.foldl (fun s r => s.failMatrix t r) s
  let s := q.gslots.foldl (fun s e => s.failMember t e.2) s
  let s := s.modTc t (fun q => { q with
    task := none, c := .reset, v := .reset, m := .reset, x := .reset
    fills := [], vloads := [], vstores := [], mq := [], drain := none, xrecs := [], gslots := q.unsync, gsync := none })
  let s := s.modTile t (fun x => { x with
    stop := .fenced, sbuf := [], seen := [], reqs := [], prog := 0, bad := none, freed := s.ns9, cycles := 0, lastTask := last <|> x.lastTask })
  let s := s.flipRole t
  match q.task with
  | some k => (s.modSlot (dieOf t) k.slot.toNat (fun e => { e with cycles := e.cycles + ran })).failTasks
      (dieOf t) [k.slot.toNat]
  | none => s

/-- MCHECK (R344, R360): the stores that have not left are discarded, the trap record goes to Abatal M, and the tile is
fenced. A SETTX that awaits the exchange of the tile completes REFUSED (DESIGN CHOICE, log 29). -/
def State.machineCheck (s : State) (t : PTile) (tval : Dbl) : State :=
  let s := s.modTile t (fun x => { x with sbuf := [], seen := [], tc := { x.tc with fills := [], vloads := [], vstores := [] } })
  ((s.takeTrap t .c .fault ⟨cMCHECK, tval⟩).fenceTile t).endSettx t 2

/-- The MCHECK of a tile whose access has read an uncorrectable line (R360, R387); TVAL is the address of the first byte
it reads there (DESIGN CHOICE, log 37). -/
def State.checkRead (s : State) (t : PTile) : State :=
  match (s.tile t).bad with
  | some pa => s.machineCheck t (BitVec.ofNat 64 pa)
  | none => s

/-- MCHECK as an event (R360): an uncorrectable error in the tile's own data, with its address or unit. -/
def execMcheck (t : PTile) (tval : Dbl) (s : State) : Host.Outcome State Fault Refusal := .next (s.machineCheck t tval)

/-- QUEUE_SLOT_FILL (R97): the i-th pending fill of a tile is performed, where the order of its stream lets it (R80). The progress
count restarts where R396 says; a line that its access finds uncorrectable raises MCHECK (R387). State.turn holds it in a thermal
stop (R385). -/
def execQueueSlotFill (t : PTile) (i : Nat) (s : State) : Host.Outcome State Fault Refusal :=
  match (s.tc t).fills[i]? with
  | none => .next s
  | some f =>
    if !fillReady (s.tile t) f then .next s else
    let s' := s.performFill t f
    .next ((if s.fillHeard t f then s'.progress t else s').checkRead t)

/-- VECTOR_LOAD_COMPLETE (R133): the i-th load in flight of the acting tile delivers all its lanes, where the order of
its stream lets it; an uncorrectable line among what it reads raises MCHECK (R387). -/
def execVectorLoadComplete (i : Nat) (s : State) : Host.Outcome State Fault Refusal :=
  let c := s.tc s.cur
  match c.vloads[i]? with
  | none => .next s
  | some l => if vloadReady c l then .next (((s.completeVLoad s.cur l).progress s.cur).checkRead s.cur) else .next s

end Sys2Proof.Machine
end

