-- ==== Sys2Proof/Machine/Matrix.lean ====
section
/-! DEFINITION. The matrix instructions and the operation records of the array (08_matrix_class.md, R158–R184). Each acts
on the matrix engine of the tile State.cur. -/

namespace Sys2Proof.Machine

/-! ### Literals and the stack family (R175, R176); the copy engine's are the same (R209, R210) -/

/-- A literal pushed. -/
def State.mlit (s : State) (n : Nat) (v : Dbl) : Host.Outcome State Fault Refusal :=
  s.finishTc .m n (do
    let c := s.tc s.cur
    stackCheck c.mstack 0 0 1
    .ok { c with mstack := v :: c.mstack })

/-- MNOP (R48). -/
def execMnop (s : State) : Host.Outcome State Fault Refusal := s.finish .m 1 (.ok s)
/-- MLIT6. -/
def execMlit6 (n : BitVec 6) (s : State) : Host.Outcome State Fault Refusal := s.mlit 1 (n.setWidth 64)
/-- MLIT16. -/
def execMlit16 (n : BitVec 16) (s : State) : Host.Outcome State Fault Refusal := s.mlit 2 (n.signExtend 64)
/-- MLIT32. -/
def execMlit32 (n : BitVec 32) (s : State) : Host.Outcome State Fault Refusal := s.mlit 3 (n.signExtend 64)

/-- MPARM. -/
def execMparm (w : BitVec 6) (s : State) : Host.Outcome State Fault Refusal :=
  s.finishAt .m 1 accR (do
    stackCheck (s.tc s.cur).mstack 0 0 1
    let (s', v) ← s.paramWord s.cur w
    .ok (s'.modTc s.cur (fun c => { c with mstack := v :: c.mstack })))

/-- A stack operation: how many entries it needs, pops and pushes, and its effect on the stack, top first (R176). -/
def stackOp (st : List Dbl) (needs pops pushes : Nat) (f : List Dbl → List Dbl) : Except Halt (List Dbl) := do
  stackCheck st needs pops pushes
  .ok (f st)

/-- A stack operation of the matrix engine. -/
def State.mstackOp (s : State) (needs pops pushes : Nat) (f : List Dbl → List Dbl) :
    Host.Outcome State Fault Refusal :=
  s.finishTc .m 1 (do
    let c := s.tc s.cur
    let st ← stackOp c.mstack needs pops pushes f
    .ok { c with mstack := st })

/-- The effects of R176: b is the top and a the entry below it. -/
def stDup : List Dbl → List Dbl | b :: r => b :: b :: r | [] => []
/-- See `stDup`. -/
def stDrop : List Dbl → List Dbl | _ :: r => r | [] => []
/-- See `stDup`. -/
def stSwap : List Dbl → List Dbl | b :: a :: r => a :: b :: r | r => r
/-- See `stDup`. -/
def stOver : List Dbl → List Dbl | b :: a :: r => a :: b :: a :: r | r => r
/-- See `stDup`. -/
def stBin (f : Dbl → Dbl → Dbl) : List Dbl → List Dbl | b :: a :: r => f a b :: r | r => r

/-- MDUP. -/
def execMdup (s : State) : Host.Outcome State Fault Refusal := s.mstackOp 1 0 1 stDup
/-- MDROP. -/
def execMdrop (s : State) : Host.Outcome State Fault Refusal := s.mstackOp 1 1 0 stDrop
/-- MSWAP. -/
def execMswap (s : State) : Host.Outcome State Fault Refusal := s.mstackOp 2 2 2 stSwap
/-- MOVER. -/
def execMover (s : State) : Host.Outcome State Fault Refusal := s.mstackOp 2 0 1 stOver
/-- MADD. -/
def execMadd (s : State) : Host.Outcome State Fault Refusal := s.mstackOp 2 2 1 (stBin (fun a b => a + b))
/-- MSUB. -/
def execMsub (s : State) : Host.Outcome State Fault Refusal := s.mstackOp 2 2 1 (stBin (fun a b => a - b))
/-- MSHL. -/
def execMshl (s : State) : Host.Outcome State Fault Refusal := s.mstackOp 2 2 1 (stBin (fun a b => a <<< (b.toNat % 64)))
/-- MMUL. -/
def execMmul (s : State) : Host.Outcome State Fault Refusal := s.mstackOp 2 2 1 (stBin (fun a b => a * b))

/-! ### Descriptors (R162, R163, R177–R180) -/

/-- The opcodes of the records (R160). -/
def opMMA : Nat := 6
/-- See `opMMA`. -/
def opMMAS : Nat := 7
/-- See `opMMA`. -/
def opMZERO : Nat := 8
/-- See `opMMA`. -/
def opMDRAIN : Nat := 9
/-- See `opMMA`. -/
def opMEPI : Nat := 10
/-- See `opMMA`. -/
def opMTOPK : Nat := 11

/-- What an MMA or MMAS computes, from its operands. -/
structure MShape where
  bf16 : Bool
  sparse : Bool
  fzi : Bool
  fzo : Bool
  bver : Bool
  acc : Bool
  m : Nat
  n : Nat
  k : Nat
  side : Nat
  bdesc : Dbl
  adesc : Dbl
  zspec : Dbl
  deriving DecidableEq, Repr

/-- The shape of an operation from OP, the low bits of p0 and the popped operands (R177, R180). -/
def mshape (op : Nat) (flags : BitVec 6) (ops : List Dbl) : MShape :=
  let sh := ops.getD 0 0
  { bf16 := flags.getLsbD 4
    sparse := op = opMMAS
    fzi := flags.getLsbD 3
    fzo := flags.getLsbD 2
    bver := flags.getLsbD 1
    acc := flags.getLsbD 0
    m := (sh.extractLsb' 0 8).toNat + 1
    n := (sh.extractLsb' 8 8).toNat + 1
    k := (sh.extractLsb' 16 16).toNat * 32
    side := (sh.extractLsb' 32 12).toNat * 16
    bdesc := ops.getD 1 0
    adesc := ops.getD 2 0
    zspec := ops.getD 3 0 }

/-- The shape of a record. -/
def MRec.shape (r : MRec) : MShape := mshape r.op r.flags r.ops

/-- Bits of B per k-step in a column (R163). -/
def MShape.bBits (x : MShape) : Nat := if x.bf16 then 16 else if x.sparse then 3 else 6
/-- Bytes of one column of B. -/
def MShape.cb (x : MShape) : Nat := x.bBits * x.k / 8
/-- Bytes of one row of A. -/
def MShape.rowBytes (x : MShape) : Nat := (if x.bf16 then 16 else 6) * x.k / 8
/-- k-steps of one window (R167). -/
def MShape.blk (x : MShape) : Nat := if x.bf16 then 32 else 128
/-- k-steps computed together. -/
def MShape.stride (x : MShape) : Nat := if x.sparse then 4 else 1

/-- DMODE of a ZSPEC. -/
def dmode (z : Dbl) : Nat := (z.extractLsb' 2 2).toNat
/-- DQ of a ZSPEC. -/
def dqOf (z : Dbl) : Nat := (z.extractLsb' 4 2).toNat
/-- Z of a ZSPEC. -/
def zOf (z : Dbl) : Nat := (z.extractLsb' 0 2).toNat
/-- The drain offset of a ZSPEC. -/
def drainOff (z : Dbl) : Nat := (z.extractLsb' 32 21).toNat

/-- The checks of R178 on a ZSPEC. -/
def zspecOk (z : Dbl) : Bool :=
  z.extractLsb' 62 2 = 0#2 && z.extractLsb' 53 3 = 0#3 && z.extractLsb' 6 26 = 0#26 && drainOff z % 64 = 0 &&
  (dmode z = 1 || dqOf z = 0) && (z.getLsbD 61 || z.extractLsb' 56 5 = 0#5)

/-- The checks of R178 on an ADESC, or a BDESC of BVER 0. -/
def descOk (d : Dbl) : Bool :=
  d.extractLsb' 40 24 = 0#24 && d.extractLsb' 21 3 = 0#3 && d.extractLsb' 0 4 = 0#4 && d.extractLsb' 24 4 = 0#4

/-- OFF of a descriptor. -/
def descOff (d : Dbl) : Nat := (d.extractLsb' 0 21).toNat
/-- STRIDE of a descriptor. -/
def descStride (d : Dbl) : Nat := (d.extractLsb' 24 16).toNat

/-- OFFSET of a BDESC of BVER 1. -/
def verOff (d : Dbl) : Nat := (d.extractLsb' 0 48).toNat
/-- The WVT index of a BDESC of BVER 1. -/
def verIdx (d : Dbl) : Nat := (d.extractLsb' 48 8).toNat

/-- The checks of R178 and R180 on the operands of an MMA or MMAS; M and N above 128 are refused (DEDUCED, log 22). -/
def MShape.ok (x : MShape) (sh : Dbl) : Bool :=
  (if x.sparse then sh.extractLsb' 44 20 = 0#20 else sh.extractLsb' 32 32 = 0#32) &&
  x.m ≤ 128 && x.n ≤ 128 && x.k ≠ 0 && (x.bf16 || x.k % 128 = 0) && descOk x.adesc &&
  (if x.bver then x.bdesc.extractLsb' 56 8 = 0#8 && verIdx x.bdesc ≤ 63 && verOff x.bdesc % 16 = 0
   else descOk x.bdesc) &&
  zspecOk x.zspec && (x.bf16 || !x.acc) && (x.bf16 || dmode x.zspec ≠ 0 || (x.k = 128 && !x.sparse)) &&
  (!x.sparse || x.side + x.n * (x.k / 8) ≤ 65536)

/-- The lowest byte beyond the scratchpad that `count` runs of `len` bytes touch, each `stride` after the last. -/
def firstBeyond (off stride len count : Nat) : Option Nat :=
  (List.range count).foldl (fun (m : Option Nat) i =>
    let a := off + i * stride
    if 0x200000 < a + len then
      let f := max a 0x200000
      some (match m with | some q => min q f | none => f)
    else m) none

/-- The lower of two addresses that may be absent. -/
def lower (a b : Option Nat) : Option Nat :=
  match a, b with
  | some x, some y => some (min x y)
  | some x, none => some x
  | none, y => y

/-- A scratchpad offset as a self-window address. -/
def selfVa (off : Nat) : Dbl := BitVec.ofNat 64 (0x00FF00000000 + off)

/-- PROT for operands and a drain area outside the own scratchpad (R172, R178). -/
def MShape.inside (x : MShape) : Except Halt Unit :=
  let a := firstBeyond (descOff x.adesc) (descStride x.adesc) x.rowBytes x.m
  let b := if x.bver then none else firstBeyond (descOff x.bdesc) (descStride x.bdesc) x.cb x.n
  let z := if dmode x.zspec = 2 then firstBeyond (drainOff x.zspec) 512 (4 * x.n) x.m else none
  match lower (lower a b) z with
  | some f => trapE cPROT (selfVa f)
  | none => .ok ()

/-! ### B through a version (R163, R164, R167) -/

/-- The address of B's first byte. -/
def State.verBase (s : State) (c : Ctx) (x : MShape) : Nat := (s.wvt c (verIdx x.bdesc)).base.toNat + verOff x.bdesc

/-- The 64-byte lines, by address, of the bytes that k-steps `lo` to `hi` − 1 read, in every column. -/
def MShape.windowVas (x : MShape) (base lo hi : Nat) : List Nat :=
  ((List.range x.n).flatMap (fun j =>
    let a := base + j * x.cb + x.bBits * lo / 8
    let b := base + j * x.cb + (x.bBits * hi + 7) / 8
    (List.range ((b - 1) / 64 + 1 - a / 64)).map (fun i => 64 * (a / 64 + i)))).dedup

/-- Where a byte of B that is read through a version leads (R76, R164): the window ranges are decoded before translation, and each
fetch is an access of its own (DESIGN CHOICE, log 62). -/
def State.fetchLine (s : State) (t : PTile) (va : Nat) : Except Halt (State × Loc) :=
  if 2 ^ 56 ≤ va then trapE cPROT (BitVec.ofNat 64 va) else s.locate t (BitVec.ofNat 64 va) 1 accR

/-- The lines of the die's L2 that virtual lines reach; a scratchpad has none there, and nothing of it is pinned (R77, R167). -/
def State.linesOf (s : State) (t : PTile) : List Nat → Except Halt (State × List Nat)
  | [] => .ok (s, [])
  | a :: rest => do
    let (s, at_) ← s.fetchLine t a
    let (s, ls) ← s.linesOf t rest
    match at_ with
    | .mem pa => .ok (s, if ls.contains (lineOf pa) then ls else lineOf pa :: ls)
    | .scr _ _ => .ok (s, ls)

/-- The lines of a window from k-step `lo` to its end. -/
def State.windowLines (s : State) (t : PTile) (x : MShape) (w lo : Nat) : Except Halt (State × List Nat) :=
  s.linesOf t (x.windowVas (s.verBase (liveCtx (s.tile t)) x) lo (min (x.blk * (w + 1)) x.k))

/-- The ways that a list of distinct lines takes in the fullest set that one of `of` names. -/
def waysMax (all of_ : List Nat) : Nat :=
  of_.foldl (fun m l => max m ((all.filter (fun q => setOf q = setOf l)).length)) 0

/-- The number of the operation's windows. -/
def MShape.windows (x : MShape) : Nat := x.k / x.blk

/-- QUOTA.LINES of a context on a die (R166). -/
def State.quota (s : State) (d : Bool) (c : Ctx) : Nat :=
  (if d then (s.ctx c).quota1 else (s.ctx c).quota0).toNat

/-- The largest window's lines and ways from window w on, at most `n` windows (R167, 1). -/
def State.windowSizes (s : State) (t : PTile) (x : MShape) : Nat → Nat → Except Halt (State × Nat × Nat)
  | 0, _ => .ok (s, 0, 0)
  | n + 1, w => do
    let (s, ls) ← s.windowLines t x w (x.blk * w)
    let (s, l, k) ← s.windowSizes t x n (w + 1)
    .ok (s, max l ls.length, max k (waysMax ls ls))

/-- Every page of B is translated (R173), or its window decoded (R76): PROT before PAGE, each with the lowest failing address;
PEERFAIL comes with PAGE, and the wait for a tile that exchanges last (DESIGN CHOICE, log 62). -/
def State.pagesOk (s : State) (t : PTile) (base len : Nat) : Except Halt State :=
  let first := base / 0x8000
  let as := (List.range ((base + len - 1) / 0x8000 + 1 - first)).map (fun i => max base (0x8000 * (first + i)))
  let go := as.foldl (fun (q : State × List Halt) a =>
    match q.1.fetchLine t a with
    | .ok (s, _) => (s, q.2)
    | .error h => (q.1, q.2 ++ [h])) (s, [])
  let traps := go.2.filterMap (fun h => match h with | .trap k => some k | _ => none)
  match traps.find? (fun k => k.code = cPROT), traps, go.2 with
  | some k, _, _ => .error (.trap k)
  | none, k :: _, _ => .error (.trap k)
  | none, [], h :: _ => .error h
  | none, [], [] => .ok go.1

/-- The checks of R172 on the operands of an operation with B through a version, before any page of B is translated, in their
order. Of the conditions that raise PROT the spec gives no order where several hold: the ends in the scratchpad come first, then
the version's length, its format code, the limit of holders, and a page without R (DESIGN CHOICE, log 40). -/
def State.versionEntry (s : State) (t : PTile) (x : MShape) : Except Halt Unit := do
  let w := s.wvt (liveCtx (s.tile t)) (verIdx x.bdesc)
  if w.st = .free then trapE cSTALEVER x.bdesc else
  x.inside
  if w.length.toNat < verOff x.bdesc + x.n * x.cb then trapE cPROT (w.base.setWidth 64 + w.length.setWidth 64)
  else if w.fmt ≠ (if x.bf16 then 2#4 else 5#4) then trapE cPROT x.bdesc
  else if 65535 ≤ w.holders then trapE cPROT x.bdesc
  else .ok ()

/-- The checks of R172 on B through a version, in their order: the entry, every page of B, then its windows (R167, 1). -/
def State.versionCheck (s : State) (t : PTile) (x : MShape) : Except Halt State := do
  let c := liveCtx (s.tile t)
  s.versionEntry t x
  let s ← s.pagesOk t (s.verBase c x) (x.n * x.cb)
  match s.windowSizes t x x.windows 0 with
  | .error h => .error h
  | .ok (s, lines, ways) =>
    if s.quota (dieOf t) c < lines then trapE cPINOVER (BitVec.ofNat 64 lines)
    else if 14 < ways then trapE cPINOVER (BitVec.ofNat 64 (lines % 2 ^ 32 + 2 ^ 32))
    else .ok s

/-! ### Issue (R160, R172) -/

/-- A record enters the operation queue of four; a full queue makes the instruction wait (R160). -/
def State.queueRecord (s : State) (t : PTile) (op : Nat) (flags : BitVec 6) (pops : Nat) (holder : Bool) :
    Except Halt State :=
  let c := s.tc t
  if 4 ≤ c.mq.length then waitE else
  .ok (s.modTc t (fun c =>
    { c with
      mq := c.mq ++ [⟨op, flags, c.m.pc, c.mstack.take pops, 0, 0, holder, false, [], none, none⟩]
      mstack := c.mstack.drop pops }))

/-- The effect of MMA and MMAS: four operands popped, SHAPE first. ACC 1 with L6 is one of the refused values that R178 lists, and so
comes after STKUNDER (R172; DEDUCED, log 65). Of PROT's conditions with BVER 0, those of A, B and the
drain area are found together, with the lowest address. -/
def State.mmaRecord (s : State) (i : Instr) (op : Nat) (flags : BitVec 6) : Except Halt State := do
  let t := s.cur
  let st := (s.tc t).mstack
  stackCheck st 4 4 0
  let x := mshape op flags (st.take 4)
  if !x.ok (st.getD 0 0) then illegalE i
  else if x.bver then
    let s' ← s.versionCheck t x
    let s' ← s'.queueRecord t op flags 4 true
    .ok (s'.modWvt (liveCtx (s.tile t)) (verIdx x.bdesc) (fun w => { w with holders := w.holders + 1 }))
  else
    x.inside
    s.queueRecord t op flags 4 false

/-- Whether an operation comes to translate the pages of B, read through a version (R172, R173). -/
def State.readsB (s : State) (t : PTile) (x : MShape) : Bool :=
  x.bver && (match s.versionEntry t x with | .ok _ => true | .error _ => false)

/-- MMA and MMAS; a page of B whose translation reaches nothing has been translated (R395). -/
def State.issueMma (s : State) (i : Instr) (op : Nat) (flags : BitVec 6) : Host.Outcome State Fault Refusal :=
  let r := s.mmaRecord i op flags
  if s.readsB s.cur (mshape op flags ((s.tc s.cur).mstack.take 4)) then s.finishAt .m 1 accR r else s.finish .m 1 r

/-- The low bits of p0 of MMA and MMAS (R177, R180). -/
def mmaFlags (bf16 fzi fzo bver acc : Bool) : BitVec 6 :=
  0#1 ++ bit bf16 1 ++ bit fzi 1 ++ bit fzo 1 ++ bit bver 1 ++ bit acc 1

/-- MMA (R177). -/
def execMma (bf16 fzi fzo bver acc : Bool) (s : State) : Host.Outcome State Fault Refusal :=
  s.issueMma (.mma bf16 fzi fzo bver acc) opMMA (mmaFlags bf16 fzi fzo bver acc)
/-- MMAS (R180). -/
def execMmas (fzi fzo bver : Bool) (s : State) : Host.Outcome State Fault Refusal :=
  s.issueMma (.mmas fzi fzo bver) opMMAS (mmaFlags false fzi fzo bver false)
/-- MZERO (R181). -/
def execMzero (z : BitVec 2) (s : State) : Host.Outcome State Fault Refusal :=
  s.finish .m 1 (s.queueRecord s.cur opMZERO (z.setWidth 6) 0 false)

/-- M and N that an accumulator tile will hold when the queue's records have completed: those of the last that writes
it (R159, R179, R181). -/
def TCtx.zShape (c : TCtx) (n : Nat) : Nat × Nat :=
  c.mq.foldl (fun q r =>
    if (r.op = opMMA || r.op = opMMAS) && zOf (r.ops.getD 3 0) = n then (r.shape.m, r.shape.n)
    else if r.op = opMZERO && r.flags.toNat % 4 = n then (128, 128)
    else q) (let z := (aget c.zs n).getD .reset; (z.m, z.n))

/-- MDRAIN (R182). The drain area is that of the M and N which its Z will hold when it starts, as R184 gives for MTOPK
(DEDUCED, log 24). -/
def execMdrain (s : State) : Host.Outcome State Fault Refusal :=
  s.finish .m 1 (do
    let c := s.tc s.cur
    stackCheck c.mstack 1 1 0
    let z := c.mstack.getD 0 0
    if !zspecOk z || dmode z = 0 then illegalE .mdrain else
    let q := c.zShape (zOf z)
    match if dmode z = 2 then firstBeyond (drainOff z) 512 (4 * q.2) q.1 else none with
    | some f => trapE cPROT (selfVa f)
    | none => s.queueRecord s.cur opMDRAIN 0 1 false)

/-- MEPI (R183). -/
def execMepi (s : State) : Host.Outcome State Fault Refusal :=
  s.finish .m 1 (do
    let c := s.tc s.cur
    stackCheck c.mstack 1 1 0
    let v := c.mstack.getD 0 0
    if v.extractLsb' 48 16 ≠ 0#16 || v.getLsbD 7 || 127 < (v.extractLsb' 8 8).toNat then illegalE .mepi
    else s.queueRecord s.cur opMEPI 0 1 false)

/-- k of a CFG (R183). -/
def cfgK (v : Dbl) : Nat := (v.extractLsb' 0 6).toNat + 1
/-- ROWS of a CFG. -/
def cfgRows (v : Dbl) : Nat := (v.extractLsb' 8 8).toNat + 1

/-- MTOPK (R184): PROT with the ROWS and k that the heap will hold when it starts. -/
def execMtopk (s : State) : Host.Outcome State Fault Refusal :=
  s.finish .m 1 (do
    let c := s.tc s.cur
    stackCheck c.mstack 1 1 0
    let v := c.mstack.getD 0 0
    if v.extractLsb' 21 43 ≠ 0#43 || v.extractLsb' 0 6 ≠ 0#6 then illegalE .mtopk else
    let (rows, k) := match (c.mq.filter (fun r => r.op = opMEPI)).getLast? with
      | some r => (cfgRows (r.ops.getD 0 0), cfgK (r.ops.getD 0 0))
      | none => (c.heap.rows, c.heap.k)
    if 0x200000 < v.toNat + 8 * rows * k then trapE cPROT (selfVa (max v.toNat 0x200000))
    else s.queueRecord s.cur opMTOPK 0 1 false)

/-! ### Accumulator tiles (R159) -/

/-- An accumulator tile of a context. -/
def TCtx.ztile (c : TCtx) (n : Nat) : ZTile := (aget c.zs n).getD .reset
/-- A context with an accumulator tile changed. -/
def TCtx.setZ (c : TCtx) (n : Nat) (z : ZTile) : TCtx := { c with zs := aset c.zs n z }
/-- A cell (R159). -/
def ZTile.cell (z : ZTile) (i j : Nat) : BitVec 40 := (aget z.cells (128 * i + j)).getD 0
/-- Cells with one written; a zero cell is not listed. -/
def setCell (cells : AMap (BitVec 40)) (i j : Nat) (v : BitVec 40) : AMap (BitVec 40) :=
  if v = 0 then adel cells (128 * i + j) else aset cells (128 * i + j) v
/-- The value of a cell as F32 (R159). -/
def ZTile.f32 (z : ZTile) (i j : Nat) : Lane :=
  match z.tag with
  | .empty => 0
  | .l6 => l6Drain (z.cell i j)
  | .bf16 => (z.cell i j).setWidth 32
/-- The cells (i, j) with i < M and j < N set by a function; the others are unchanged. -/
def ZTile.setRegion (z : ZTile) (m n : Nat) (f : Nat → Nat → BitVec 40) : AMap (BitVec 40) :=
  (List.range m).foldl (fun cs i => (List.range n).foldl (fun cs j => setCell cs i j (f i j)) cs) z.cells

/-- The F32 values that a drain of M × N cells delivers, row by row (R168). -/
def ZTile.values (z : ZTile) (m n : Nat) : List (List Lane) :=
  (List.range m).map (fun i => (List.range n).map (fun j => z.f32 i j))

/-! ### The heap (R170) -/

/-- Whether pair p ranks before pair q: the larger value, −0 equal to +0; then the lower index. -/
def ranksBefore (p q : BitVec 32 × Lane) : Bool :=
  fkey q.2 < fkey p.2 || (fkey q.2 = fkey p.2 && p.1.toNat ≤ q.1.toNat)

/-- A pair into its place. -/
def heapInsert (p : BitVec 32 × Lane) : List (BitVec 32 × Lane) → List (BitVec 32 × Lane)
  | [] => [p]
  | q :: rest => if ranksBefore q p then q :: heapInsert p rest else p :: q :: rest

/-- A row of the heap after one offer: a NaN is never taken, and k pairs are kept. -/
def offer (k : Nat) (row : List (BitVec 32 × Lane)) (p : BitVec 32 × Lane) : List (BitVec 32 × Lane) :=
  if isNanL p.2 then row else (heapInsert p row).take k

/-- The heap after a drained row i passes it. -/
def Heap.feed (h : Heap) (i : Nat) (row : List Lane) : Heap :=
  if !h.en || h.rows ≤ i then h else
  let entries := (List.range h.rows).map (fun r => h.entries.getD r [])
  let mine := row.zipIdx.foldl (fun q p => offer h.k q (h.base + BitVec.ofNat 32 p.2, p.1)) (entries.getD i [])
  { h with entries := entries.set i mine }

/-- The bytes that MTOPK writes (R184): each row's pairs, completed with the filler pair. -/
def Heap.bytes (h : Heap) : List Byte :=
  (List.range h.rows).flatMap (fun i =>
    let row := h.entries.getD i []
    (List.range h.k).flatMap (fun r =>
      let p := row.getD r (0xFFFFFFFF#32, 0xFF800000#32)
      natBytes p.1.toNat 4 ++ natBytes p.2.toNat 4))

/-! ### Records (R161, R179–R184) -/

/-- Whether a record is an MMA or MMAS. -/
def MRec.isMma (r : MRec) : Bool := r.op = opMMA || r.op = opMMAS
/-- Whether the k-steps of a record are done. -/
def MRec.stepsDone (r : MRec) : Bool := r.isMma && r.shape.k ≤ r.kstep

/-- A change to record i of the queue. -/
def TCtx.modRec (c : TCtx) (i : Nat) (f : MRec → MRec) : TCtx := { c with mq := c.mq.modify i f }

/-- Record i completes (R161): it leaves the queue, and its version holder is dropped (R164). -/
def State.completeRec (s : State) (t : PTile) (i : Nat) : State :=
  match (s.tc t).mq[i]? with
  | none => s
  | some r =>
    let s := if r.holder then s.dropHolder (liveCtx (s.tile t)) (verIdx (r.ops.getD 1 0)) else s
    (s.modTc t (fun c => { c with mq := c.mq.eraseIdx i })).progress t

/-- The next order number for a window request on a die (R167, 2). -/
def State.nextAsk (s : State) (d : Bool) : Nat :=
  s.tiles.foldl (fun m e =>
    if dieOf (BitVec.ofNat 7 e.1) = d then
      e.2.tc.mq.foldl (fun m r => max m ((r.ask.map (· + 1)).getD 0)) m
    else m) 0

/-- Record i requests a window, where it reads a version and the window exists. -/
def State.askWindow (s : State) (t : PTile) (i w : Nat) : State :=
  let n := s.nextAsk (dieOf t)
  s.modTc t (fun c => c.modRec i (fun r => if r.holder && w < r.shape.windows then { r with ask := some n } else r))

/-- The first record that may start (R161): an MMA or MMAS behind others of its kind whose k-steps are done; any other
record only at the head of the queue. -/
def startable (c : TCtx) : Option Nat :=
  (List.range c.mq.length).find? (fun i =>
    match c.mq[i]? with
    | none => false
    | some r => !r.started && (if r.isMma then (c.mq.take i).all (fun q => q.stepsDone) else i = 0))

/-- MATRIX_RECORD_START (R161): the next record of the acting tile starts. -/
def execMatrixRecordStart (s : State) : Host.Outcome State Fault Refusal :=
  let t := s.cur
  let c := s.tc t
  if !s.recordsRun t then .next s else
  match startable c with
  | none => .next s
  | some i =>
    match c.mq[i]? with
    | none => .next s
    | some r =>
      let v := r.ops.getD 0 0
      if r.isMma then
        let x := r.shape
        let z := c.ztile (zOf x.zspec)
        let cells := z.setRegion x.m x.n (fun a b =>
          if x.bf16 && x.acc then (z.f32 a b).setWidth 40 else 0)
        let z := ⟨if x.bf16 then .bf16 else .l6, x.m, x.n, cells⟩
        .next ((s.modTc t (fun c => (c.setZ (zOf x.zspec) z).modRec i (fun r => { r with started := true }))).askWindow t i 0)
      else if r.op = opMZERO then
        .next ((s.modTc t (fun c => c.setZ (r.flags.toNat % 4) .reset)).completeRec t i)
      else if r.op = opMDRAIN then
        if c.drain.isSome then .next s else
        let z := c.ztile (zOf v)
        let d : Drain := ⟨v, z.tag = .bf16, z.m, z.n, z.values z.m z.n, 0⟩
        let z' := { z with tag := .empty, cells := z.setRegion z.m z.n (fun _ _ => 0) }
        .next (s.modTc t (fun c => { (c.setZ (zOf v) z').modRec i (fun r => { r with started := true }) with drain := some d }))
      else if r.op = opMEPI then
        let keep := c.heap.k = cfgK v && c.heap.rows = cfgRows v
        let h : Heap := ⟨cfgK v, cfgRows v, v.extractLsb' 16 32, v.getLsbD 6, if keep then c.heap.entries else []⟩
        .next ((s.modTc t (fun c => { c with heap := h })).completeRec t i)
      else
        .next ((s.modTc t (fun c => { c with
          scratch := memWrite c.scratch v.toNat c.heap.bytes, heap := { c.heap with entries := [] } })).completeRec t i)

/-- The window that record r has requested: the one after those it holds. -/
def MRec.asked (r : MRec) : Nat := max (r.kstep / r.shape.blk) ((r.pins.map (fun p => p.1 + 1)).foldl max 0)

/-- PINNED_WINDOW_GRANT (R167): the acting tile's oldest request on its die is granted whole, where it stays within LINES
and within 14 ways of each set; with the current window granted, the next one is requested. A line that two windows of one
operation share counts once for each window that holds it, and each window releases its own pin of it (DESIGN CHOICE, log 40:
R167 says only how two operations count a shared line). -/
def execPinnedWindowGrant (s : State) : Host.Outcome State Fault Refusal :=
  let t := s.cur
  let d := dieOf t
  let c := liveCtx (s.tile t)
  if !s.recordsRun t then .next s else
  match (List.range (s.tc t).mq.length).find? (fun i => (((s.tc t).mq[i]?).bind (·.ask)).isSome) with
  | none => .next s
  | some i =>
    match (s.tc t).mq[i]? with
    | none => .next s
    | some r =>
      let asks := s.tiles.flatMap (fun e =>
        if dieOf (BitVec.ofNat 7 e.1) = d then e.2.tc.mq.filterMap (·.ask) else [])
      if r.fault.isSome || asks.any (fun a => a < r.ask.getD 0) then .next s else
      let x := r.shape
      let w := r.asked
      match s.windowLines t x w (max r.kstep (x.blk * w)) with
      | .error (.trap k) => .next ((s.touch t accR k).modTc t (fun q => q.modRec i (fun r => { r with fault := some k })))
      | .error _ => .next s
      | .ok (s, ls) =>
        let pins := s.diePins d
        let mine := ((pins.filter (fun p => p.1 = c)).map (fun p => p.2.length)).foldl (· + ·) 0
        let all := (ls ++ pins.flatMap (·.2)).dedup
        if s.quota d c < mine + ls.length || 14 < waysMax all ls then .next s else
        let s := (s.modTc t (fun q => q.modRec i (fun r => { r with pins := r.pins ++ [(w, ls)], ask := none }))).progress t
        .next (if w = r.kstep / x.blk then s.askWindow t i (w + 1) else s)

/-! ### k-steps (R179, R180) -/

/-- `n` bits from bit `b` of the byte that `base` names. -/
def readBits (rd : Nat → Byte) (base b n : Nat) : Nat :=
  let o := b % 8
  let bytes := (List.range ((o + n + 7) / 8)).map (fun i => rd (base + b / 8 + i))
  bytesNat bytes / 2 ^ o % 2 ^ n

/-- The first address, in an uncorrectable line of the own scratchpad, of the `n` bits from bit `b` of the byte at `base` (R173,
R387). -/
def State.lostBits (s : State) (t : PTile) (base b n : Nat) : Option Nat :=
  if (s.tile t).spoiled.isEmpty then none else s.lostByte t (.scr t (base + b / 8)) ((b % 8 + n + 7) / 8)

/-- The bits of one column's k-step: its element, or in MMAS the two codes of a group. What comes through a version is read in the
die's L2 (R165), or in the scratchpad that a window names (R76). -/
def State.fetchB (s : State) (t : PTile) (x : MShape) (k j : Nat) : Except Halt (State × Nat) :=
  let bits := x.bBits * x.stride
  if !x.bver then
    match s.lostBits t (descOff x.bdesc + j * descStride x.bdesc) (x.bBits * k) bits with
    | some a => trapE cMCHECK (BitVec.ofNat 64 a)
    | none => .ok (s, readBits (memGet (s.tc t).scratch) (descOff x.bdesc + j * descStride x.bdesc) (x.bBits * k) bits)
  else
    let a := s.verBase (liveCtx (s.tile t)) x + j * x.cb
    let first := a + x.bBits * k / 8
    let len := (x.bBits * k % 8 + bits + 7) / 8
    let go := (List.range len).foldl (fun (q : Except Halt (State × List Byte)) i =>
      match q with
      | .error e => .error e
      | .ok (s, bs) =>
        match s.fetchLine t (first + i) with
        | .error e => .error e
        | .ok (s, at_) =>
          match s.lostByte t at_ 1 with
          | some a => trapE cMCHECK (BitVec.ofNat 64 a)
          | none => .ok (s.dropCached t at_, bs ++ s.readLoc t at_ 1))
      (.ok (s, []))
    match go with
    | .error e => .error e
    | .ok (s, bs) => .ok (s, bytesNat bs / 2 ^ (x.bBits * k % 8) % 2 ^ bits)

/-- The same for columns j on, `n` of them. -/
def State.fetchCols (s : State) (t : PTile) (x : MShape) (k : Nat) : Nat → Nat → Except Halt (State × List Nat)
  | 0, _ => .ok (s, [])
  | n + 1, j => do
    let (s, b) ← s.fetchB t x k j
    let (s, bs) ← s.fetchCols t x k n (j + 1)
    .ok (s, b :: bs)

/-- Element (i, k) of A (R162). -/
def TCtx.elemA (c : TCtx) (x : MShape) (i k : Nat) : Nat :=
  let w := if x.bf16 then 16 else 6
  readBits (memGet c.scratch) (descOff x.adesc + i * descStride x.adesc) (w * k) w

/-- The first address, in an uncorrectable line, of the elements of A that a k-step reads (R173, R387). -/
def State.lostA (s : State) (t : PTile) (x : MShape) (k : Nat) : Option Nat :=
  let w := if x.bf16 then 16 else 6
  (List.range x.m).findSome? (fun i =>
    s.lostBits t (descOff x.adesc + i * descStride x.adesc) (w * k) (w * x.stride))

/-- A cell after one k-step, from the column's bits and its metadata nibble (R64, R66, R179, R180). -/
def TCtx.stepCell (c : TCtx) (x : MShape) (k i : Nat) (b nib : Nat) (old : BitVec 40) : BitVec 40 :=
  if x.bf16 then
    let a := unpackB x.fzi (BitVec.ofNat 16 (c.elemA x i k))
    ((ffma 24 0 x.fzo a (unpackB x.fzi (BitVec.ofNat 16 b)) (unpack false (old.setWidth 32))).bits).setWidth 40
  else if x.sparse then
    let p0 := l6Prod (BitVec.ofNat 6 (c.elemA x i (k + nib % 4))) (BitVec.ofNat 6 b)
    let p1 := l6Prod (BitVec.ofNat 6 (c.elemA x i (k + nib / 4 % 4))) (BitVec.ofNat 6 (b / 64))
    old + BitVec.ofInt 40 (p0 + p1)
  else old + BitVec.ofInt 40 (l6Prod (BitVec.ofNat 6 (c.elemA x i k)) (BitVec.ofNat 6 b))

/-- The metadata nibble of a column at a group (R180). -/
def TCtx.nibble (c : TCtx) (x : MShape) (k j : Nat) : Nat :=
  let g := k / 4
  (memGet c.side (x.side + j * (x.k / 8) + g / 2)).toNat / (if g % 2 = 1 then 16 else 1) % 16

/-- The windows of record r that stay pinned with its k-steps before `k` consumed (R167, 4): a window's pin of a line that a
later window reads too is released with the window's own last use of it (DESIGN CHOICE, log 40). -/
def State.unpin (s : State) (t : PTile) (x : MShape) (k : Nat) : List (Nat × List Nat) → List (Nat × List Nat)
  | [] => []
  | p :: rest =>
    let rest := s.unpin t x k rest
    if x.blk * (p.1 + 1) ≤ k then rest
    else if k ≤ x.blk * p.1 then p :: rest
    else match s.windowLines t x p.1 k with
      | .ok (_, ls) => (p.1, p.2.filter (fun l => ls.contains l)) :: rest
      | .error _ => p :: rest

/-- The running record: started, its k-steps not done. -/
def running (c : TCtx) : Option Nat :=
  (List.range c.mq.length).find? (fun i =>
    match c.mq[i]? with
    | none => false
    | some r => r.started && r.isMma && !r.stepsDone)

/-- The k-step `k` of record i, with the columns' bits. -/
def State.applyStep (s : State) (t : PTile) (i : Nat) (r : MRec) (bs : List Nat) : State :=
  let x := r.shape
  let k := r.kstep
  let c := s.tc t
  let zn := zOf x.zspec
  let z := c.ztile zn
  let cells := z.setRegion x.m x.n (fun a b => c.stepCell x k a (bs.getD b 0) (if x.sparse then c.nibble x k b else 0) (z.cell a b))
  let z := { z with cells := cells }
  let k' := k + x.stride
  let w := k / x.blk
  let ends := if x.bf16 then k' = x.k else k' % 128 = 0
  let drains := ends && dmode x.zspec ≠ 0
  let d : Drain := ⟨x.zspec, x.bf16, x.m, x.n, z.values x.m x.n, 0⟩
  let z' := if drains then { z with cells := z.setRegion x.m x.n (fun _ _ => 0) } else z
  let z' := if drains && k' = x.k then { z' with tag := .empty } else z'
  let pins := s.unpin t x k' r.pins
  let s := s.modTc t (fun c => { (c.setZ zn z').modRec i (fun r =>
      { r with kstep := k', drains := r.drains + (if drains then 1 else 0), pins := pins }) with
    drain := if drains then some d else c.drain })
  let s := if x.blk * (w + 1) = k' && pins.any (fun p => p.1 = w + 1) then s.askWindow t i (w + 2) else s
  if k' = x.k && !drains then s.completeRec t i else s

/-- Whether the operands of record i are not fetched yet: the array waits for the vectors that a save has kept (R174), and for
an earlier record's drain to the scratchpad, an access of class 14 like the fetch (R80). -/
def TCtx.fetchHeld (c : TCtx) (i : Nat) : Bool :=
  c.drain.any (fun d => c.late || (0 < i && dmode d.zspec = 2))

/-- The next k-step of the running record (R161, R167–R169, R173): it needs its window pinned, and the last of a block
waits for the drain latch. A failed translation stops the record; an uncorrectable line raises MCHECK. -/
def State.kstep (s : State) (t : PTile) : State :=
  let c := s.tc t
  if !s.recordsRun t then s else
  match running c with
  | none => s
  | some i =>
    match c.mq[i]? with
    | none => s
    | some r =>
      let x := r.shape
      let k' := r.kstep + x.stride
      let ends := if x.bf16 then k' = x.k else k' % 128 = 0
      if r.fault.isSome || c.fetchHeld i || (r.holder && !r.pins.any (fun p => p.1 = r.kstep / x.blk)) ||
          (ends && dmode x.zspec ≠ 0 && c.drain.isSome) then s else
      match s.lostA t x r.kstep with
      | some a => s.machineCheck t (BitVec.ofNat 64 a)
      | none =>
      match s.fetchCols t x r.kstep x.n 0 with
      | .ok (s, bs) => s.applyStep t i r bs
      | .error (.trap k) =>
        if k.code = cMCHECK then s.machineCheck t k.tval
        else (s.touch t accR k).modTc t (fun q => q.modRec i (fun r => { r with fault := some k }))
      | .error _ => s

/-! ### The drain path (R168–R170) -/

/-- Vector v of a drain into a feeder queue (R168). -/
def Drain.vector (d : Drain) (v : Nat) : List Lane :=
  (List.range 512).map (fun l => ((d.vals.getD (4 * v + l / 128) []).getD (l % 128) 0))

/-- The next part of a drain (R168–R170): the next vector enters its feeder queue, or the next row is written or taken; each
drained row of a BF16 tile passes the epilogue; the last adds to the counter, before which a set above 4,096 lines is written
back (R89, 2), and the record whose last drain it is
completes. The progress count restarts as a vector enters its queue or a line lands (R396). -/
def State.drainStep (s : State) (t : PTile) : State :=
  let c := s.tc t
  match c.drain with
  | none => s
  | some d =>
    let mode := dmode d.zspec
    let q := (aget c.feed (dqOf d.zspec)).getD []
    if mode = 1 && 4 ≤ q.length then s else
    let rows := if mode = 1 then (List.range 4).map (fun i => 4 * d.next + i) else [d.next]
    let rows := rows.filter (fun i => i < d.m)
    let heap := if d.bf16 then rows.foldl (fun h i => h.feed i (d.vals.getD i [])) c.heap else c.heap
    let total := if mode = 1 then (d.m + 3) / 4 else d.m
    let last : Bool := total ≤ d.next + 1
    let s := s.modTc t (fun c => { c with
      heap := heap
      feed := if mode = 1 then aset c.feed (dqOf d.zspec) (q ++ [d.vector d.next]) else c.feed
      scratch := if mode = 2 then
        memWrite c.scratch (drainOff d.zspec + 512 * d.next) ((d.vals.getD d.next []).flatMap (fun v => natBytes v.toNat 4))
        else c.scratch
      drain := if last then none else some { d with next := d.next + 1 }
      late := c.late && !last })
    let s := if mode = 1 || mode = 2 then s.progress t else s
    if !last then s else
    let s := if d.zspec.getLsbD 61 then (s.capSet t).addOwn t (d.zspec.extractLsb' 56 5).toNat 1 else s
    match (s.tc t).mq with
    | r :: _ => if r.op = opMDRAIN || r.stepsDone then s.completeRec t 0 else s
    | [] => s

/-- MATRIX_DRAIN (R168). -/
def execMatrixDrain (s : State) : Host.Outcome State Fault Refusal :=
  .next (if s.recordsRun s.cur then s.drainStep s.cur else s)

end Sys2Proof.Machine
end

