-- ==== Sys2Proof/Machine/Copy.lean ====
section
/-! DEFINITION. The copy instructions and their records (09_memory_class.md R201–R219; XTADD of R235; XKVC, XREDV and XBCST
of 17_rl_class.md R327–R333). Each acts on the copy engine of the tile State.cur. -/

namespace Sys2Proof.Machine

/-! ### Literals and the stack family (R209, R210) -/

/-- A literal pushed. -/
def State.xlit (s : State) (n : Nat) (v : Dbl) : Host.Outcome State Fault Refusal :=
  s.finishTc .x n (do
    let c := s.tc s.cur
    stackCheck c.xstack 0 0 1
    .ok { c with xstack := v :: c.xstack })

/-- XNOP. -/
def execXnop (s : State) : Host.Outcome State Fault Refusal := s.finish .x 1 (.ok s)
/-- XLIT6. -/
def execXlit6 (n : BitVec 6) (s : State) : Host.Outcome State Fault Refusal := s.xlit 1 (n.setWidth 64)
/-- XLIT16. -/
def execXlit16 (n : BitVec 16) (s : State) : Host.Outcome State Fault Refusal := s.xlit 2 (n.signExtend 64)
/-- XLIT32. -/
def execXlit32 (n : BitVec 32) (s : State) : Host.Outcome State Fault Refusal := s.xlit 3 (n.signExtend 64)

/-- XPARM. -/
def execXparm (w : BitVec 6) (s : State) : Host.Outcome State Fault Refusal :=
  s.finishAt .x 1 accR (do
    stackCheck (s.tc s.cur).xstack 0 0 1
    let (s', v) ← s.paramWord s.cur w
    .ok (s'.modTc s.cur (fun c => { c with xstack := v :: c.xstack })))

/-- A stack operation of the copy engine. -/
def State.xstackOp (s : State) (needs pops pushes : Nat) (f : List Dbl → List Dbl) :
    Host.Outcome State Fault Refusal :=
  s.finishTc .x 1 (do
    let c := s.tc s.cur
    let st ← stackOp c.xstack needs pops pushes f
    .ok { c with xstack := st })

/-- XDUP. -/
def execXdup (s : State) : Host.Outcome State Fault Refusal := s.xstackOp 1 0 1 stDup
/-- XDROP. -/
def execXdrop (s : State) : Host.Outcome State Fault Refusal := s.xstackOp 1 1 0 stDrop
/-- XSWAP. -/
def execXswap (s : State) : Host.Outcome State Fault Refusal := s.xstackOp 2 2 2 stSwap
/-- XOVER. -/
def execXover (s : State) : Host.Outcome State Fault Refusal := s.xstackOp 2 0 1 stOver
/-- XADD. -/
def execXadd (s : State) : Host.Outcome State Fault Refusal := s.xstackOp 2 2 1 (stBin (fun a b => a + b))
/-- XSUB. -/
def execXsub (s : State) : Host.Outcome State Fault Refusal := s.xstackOp 2 2 1 (stBin (fun a b => a - b))
/-- XSHL. -/
def execXshl (s : State) : Host.Outcome State Fault Refusal := s.xstackOp 2 2 1 (stBin (fun a b => a <<< (b.toNat % 64)))
/-- XMUL. -/
def execXmul (s : State) : Host.Outcome State Fault Refusal := s.xstackOp 2 2 1 (stBin (fun a b => a * b))

/-- XFMT (R203, R218): BFMTn is written at issue. -/
def execXfmt (bank : BitVec 5) (s : State) : Host.Outcome State Fault Refusal :=
  s.finishTc .x 1 (do
    let c := s.tc s.cur
    stackCheck c.xstack 1 1 0
    let v := c.xstack.getD 0 0
    if v.extractLsb' 25 39 ≠ 0#39 || 6 < (v.extractLsb' 0 4).toNat then illegalE (.xfmt bank)
    else .ok { c with xstack := c.xstack.drop 1, bfmt := aset c.bfmt bank.toNat (v.setWidth 25) })

/-! ### Kinds and operands of records (R205) -/

/-- Kind codes (R205). -/
def kCOPY : Nat := 0
/-- See `kCOPY`. -/
def kCONV : Nat := 1
/-- See `kCOPY`. -/
def kCOPY2 : Nat := 2
/-- See `kCOPY`. -/
def kGATH : Nat := 3
/-- See `kCOPY`. -/
def kSCAT : Nat := 4
/-- See `kCOPY`. -/
def kMETA : Nat := 6
/-- See `kCOPY`. -/
def kFILL : Nat := 7
/-- See `kCOPY`. -/
def kKVC : Nat := 8
/-- See `kCOPY`. -/
def kREDV : Nat := 9
/-- See `kCOPY`. -/
def kBCST : Nat := 10

/-- ROWLEN of a GEOM. -/
def rowLen (g : Dbl) : Nat := (g.extractLsb' 0 24).toNat
/-- ROWS or COUNT of a GEOM. -/
def geomRows (g : Dbl) : Nat := (g.extractLsb' 32 16).toNat
/-- The checks of R213 on a GEOM. -/
def geomOk (g : Dbl) : Bool := g.extractLsb' 24 8 = 0#8 && g.extractLsb' 48 16 = 0#16 && rowLen g % 64 = 0

/-- Operand n of a record, in pop order. -/
def XRec.op (r : XRec) (n : Nat) : Dbl := r.ops.getD n 0

/-- Format code of a bank register. -/
def fmtCode (b : BitVec 25) : Nat := (b.extractLsb' 0 4).toNat
/-- Bytes of a block of 128 elements of a format (R202, R212). -/
def blockBytes (code : Nat) : Nat := match code with | 5 => 96 | 2 => 256 | 4 => 128 | _ => 512

/-- Row u of a record of 64-byte lines in rows of GEOM, and its line within the row. -/
def XRec.rowOf (r : XRec) (u : Nat) : Nat × Nat := (u / (rowLen (r.op 1) / 64), u % (rowLen (r.op 1) / 64))

/-- Where unit u comes from (R211–R217, R327, R330, R331). -/
def XRec.srcAddr (r : XRec) (u : Nat) : Dbl :=
  let n (v : Nat) : Dbl := BitVec.ofNat 64 v
  match r.kind with
  | 0 => r.op 2 + n (64 * u)
  | 1 => r.op 2 + n (blockBytes (fmtCode r.bfS) * u)
  | 2 => let (a, l) := r.rowOf u; r.op 4 + n a * r.op 2 + n (64 * l)
  | 3 =>
    let (a, l) := r.rowOf u
    r.op 3 + (((r.idx.getD []).getD a 0).setWidth 64) * n (rowLen (r.op 1)) + n (64 * l)
  | 4 => let (a, l) := r.rowOf u; r.op 3 + n (a * rowLen (r.op 1) + 64 * l)
  | 5 => r.op 1 + n (2048 * u)
  | 6 => r.op 2 + n (64 * u)
  | 8 => r.op 2 + n (4 * u)
  | 9 => r.op 2 + n (64 * u)
  | 10 => r.op 2 + n (64 * (u % ((r.op 1).toNat / 64)))
  | _ => 0

/-- Where unit u goes; for XMETA an offset, for XBCST the offset within the version. -/
def XRec.dstAddr (r : XRec) (u : Nat) : Dbl :=
  let n (v : Nat) : Dbl := BitVec.ofNat 64 v
  match r.kind with
  | 0 => r.op 3 + n (64 * u)
  | 1 => r.op 3 + n (blockBytes (fmtCode r.bfD) * u)
  | 2 => let (a, l) := r.rowOf u; r.op 5 + n a * r.op 3 + n (64 * l)
  | 3 => let (a, l) := r.rowOf u; r.op 4 + n (a * rowLen (r.op 1) + 64 * l)
  | 4 =>
    let (a, l) := r.rowOf u
    r.op 4 + (((r.idx.getD []).getD a 0).setWidth 64) * n (rowLen (r.op 1)) + n (64 * l)
  | 6 => r.op 3 + n (64 * u)
  | 7 => r.op 3 + n (64 * u)
  | 8 => r.op 3 + n (96 * u)
  | 9 => r.op 3 + n (64 * u)
  | 10 => r.op 3 + n (64 * (u % ((r.op 1).toNat / 64)))
  | _ => 0

/-- Whether unit u belongs to a skipped row (R214). -/
def XRec.skips (r : XRec) (u : Nat) : Bool :=
  (r.kind = kGATH || r.kind = kSCAT) && (r.idx.getD []).getD (r.rowOf u).1 0 = 0xFFFFFFFF#32

/-- The list position of XBCST unit u's node. -/
def XRec.destOf (r : XRec) (u : Nat) : Nat := u / ((r.op 1).toNat / 64)

/-- COMMIT, NACC and DIMS of an XKVC (R328). -/
def kvcSpec (v : Dbl) : Nat × Nat × Nat :=
  ((v.extractLsb' 0 8).toNat, (v.extractLsb' 8 8).toNat, (v.extractLsb' 16 16).toNat)

/-- The offset within its scratchpad of an address in a window, the self window or a peer window (R76). -/
def winOff (a : Dbl) : Nat :=
  if 0x00FF00000000 ≤ a.toNat then a.toNat - 0x00FF00000000 else (a.toNat - 0x00FE00000000) % 0x200000

/-- The offset in the own scratchpad of block u's scale byte at an end (R202). -/
def scaleOff (a : Dbl) (f : BitVec 25) (u : Nat) : Nat :=
  (f.extractLsb' 4 5).toNat * 65536 + (f.extractLsb' 9 16).toNat * 64 + winOff a % 65536 / 96 + u

/-- The spans of addresses that a record writes, in memory or in a window, the scale bytes of an L6 end among them (R94, R202);
those of a window are named as the record names it. -/
def XRec.spans (r : XRec) : List (Nat × Nat) :=
  match r.kind with
  | 0 => [((r.op 3).toNat, (r.op 3).toNat + 64 * r.units)]
  | 1 =>
    let sc := (r.op 3).toNat - winOff (r.op 3) + scaleOff (r.op 3) r.bfD 0
    ((r.op 3).toNat, (r.op 3).toNat + blockBytes (fmtCode r.bfD) * r.units) ::
      (if fmtCode r.bfD = 5 then [(sc, sc + r.units)] else [])
  | 2 => (List.range (geomRows (r.op 1))).map (fun a =>
      let b := (r.op 5 + BitVec.ofNat 64 a * r.op 3).toNat
      (b, b + rowLen (r.op 1)))
  | 3 => [((r.op 4).toNat, (r.op 4).toNat + geomRows (r.op 1) * rowLen (r.op 1))]
  | 4 => (r.idx.getD []).filterMap (fun i =>
      if i = 0xFFFFFFFF#32 then none
      else
        let b := (r.op 4 + i.setWidth 64 * BitVec.ofNat 64 (rowLen (r.op 1))).toNat
        some (b, b + rowLen (r.op 1)))
  | 7 => [((r.op 3).toNat, (r.op 3).toNat + 64 * r.units)]
  | 8 => [((r.op 3).toNat, (r.op 3).toNat + 96 * r.units), ((r.op 4).toNat, (r.op 4).toNat + r.units)]
  | _ => []

/-- Whether a record of a task delays the task's completion (R94): its destination meets a declared write range. An XSCAT
that has not read its indices may meet any. -/
def XRec.delays (lb : Rec) (r : XRec) : Bool :=
  (r.kind = kSCAT && r.idx.isNone && (rangesOf lb).any (·.write)) || r.spans.any (fun p => meetsWrites lb (some p))

/-! ### Issue (R204, R211–R219, R235, R328–R331) -/

/-- What a copy instruction's checks give: the kind, the CSPEC field, the formats of the ends, and the units. -/
structure XPlan where
  kind : Nat
  cspec : Dbl
  bfS : BitVec 25
  bfD : BitVec 25
  units : Nat
  deriving DecidableEq, Repr

/-- A copy instruction that issues: STKUNDER, its checks on the popped operands, then a free record of 32 (R204, R219). -/
def State.copyIssue (s : State) (pops : Nat) (check : List Dbl → Except Halt XPlan) :
    Host.Outcome State Fault Refusal :=
  s.finishTc .x 1 (do
    let c := s.tc s.cur
    stackCheck c.xstack pops pops 0
    let ops := c.xstack.take pops
    let p ← check ops
    if 32 ≤ c.xrecs.length then waitE else
    let r : XRec :=
      { num := c.xnum, kind := p.kind, cspec := p.cspec, ops := ops, bfS := p.bfS, bfD := p.bfD, iaddr := c.x.pc
        lba := (c.task.map (·.lba)).getD 0, fmb := (c.task.map (fun k => fmbOf k.lb)).getD 0, own := true
        age := (((c.task.map (·.slot.toNat)).bind (s.slot (dieOf s.cur))).map (·.age)).getD 0
        units := p.units, readN := 0, flight := [], idx := none, fault := none, failed := false }
    .ok { c with xstack := c.xstack.drop pops, xrecs := c.xrecs ++ [r], xnum := c.xnum + 1 })

/-- Whether `n` bytes from an address lie in the own scratchpad: in the self window, or in the peer window of a logical number
of the tile itself, which is no different (R76). -/
def State.ownEnd (s : State) (a : Dbl) (n : Nat) : Bool :=
  winOff a + n ≤ 0x200000 &&
  ((0x00FF00000000 ≤ a.toNat && a.toNat < 0x010000000000) ||
    (0x00FE00000000 ≤ a.toNat && a.toNat < 0x00FE10000000 &&
      s.mapTile (liveCtx (s.tile s.cur)) ((a.toNat - 0x00FE00000000) / 0x200000) = some s.cur))

/-- The format register of the bank that an end in the own scratchpad names, read at issue (R203, R211); 0 for any other end,
which counts as RAW. -/
def State.endFmt (s : State) (a : Dbl) : BitVec 25 :=
  if s.ownEnd a 1 then (aget (s.tc s.cur).bfmt (winOff a / 65536)).getD 0 else 0

/-- An end's checks of R76 at issue: below 2^56, within its 2 MiB window where it starts in one, and its logical tile
mapped. -/
def State.endOk (s : State) (a : Dbl) (len : Nat) : Bool :=
  let v := a.toNat
  if 0x00FF00000000 ≤ v && v < 0x010000000000 then v - 0x00FF00000000 + len ≤ 0x200000
  else if 0x00FE00000000 ≤ v && v < 0x00FF00000000 then
    v < 0x00FE10000000 && (v - 0x00FE00000000) % 0x200000 + len ≤ 0x200000 &&
    (s.mapTile (liveCtx (s.tile s.cur)) ((v - 0x00FE00000000) / 0x200000)).isSome
  else v + len ≤ 2 ^ 56

/-- ALIGN for the first of several operands that is not a multiple of `n`, in pop order (R219). -/
def aligned (n : Nat) : List Dbl → Except Halt Unit
  | [] => .ok ()
  | a :: rest => if a.toNat % n ≠ 0 then trapE cALIGN a else aligned n rest

/-- PROT for an end that R76 refuses. -/
def State.protEnd (s : State) (a : Dbl) (len : Nat) : Except Halt Unit :=
  if s.endOk a len then .ok () else trapE cPROT a

/-- PROT for an end in a bank of the own scratchpad whose CODE is 7 to 15, which the copy reads at issue (R54, R201, R203). -/
def State.protFmt (s : State) (a : Dbl) : Except Halt Unit :=
  if 6 < fmtCode (s.endFmt a) then trapE cPROT a else .ok ()

/-- PROT for an end that R76 refuses, or whose format code is refused (R219). -/
def State.protBoth (s : State) (a : Dbl) (len : Nat) : Except Halt Unit := do
  s.protEnd a len
  s.protFmt a

/-- Whether the reserved bits of a CSPEC are zero (R207). -/
def cspecOk (v : Dbl) : Bool := v.extractLsb' 13 51 = 0#51

/-- The pairs of a converting copy (R212). -/
def pairOk (a b : Nat) : Bool :=
  (a, b) ∈ [(1, 2), (2, 1), (3, 1), (4, 3), (1, 5), (2, 5), (5, 1), (5, 2)]

/-- An end of a converting copy: PROT for a refused code or pair, with SRC in TVAL for a pair (DESIGN CHOICE, log 49), an L6 end
off a block boundary, or a scale byte beyond its bank (R201, R211, R212). -/
def convEnd (a : Dbl) (f : BitVec 25) (ok : Bool) (blocks : Nat) : Except Halt Unit :=
  let o := winOff a % 65536
  if 6 < fmtCode f || !ok then trapE cPROT a
  else if fmtCode f = 5 && (o % 96 ≠ 0 || 65536 < (f.extractLsb' 9 16).toNat * 64 + o / 96 + blocks) then trapE cPROT a
  else .ok ()

/-- Whether the blocks of an end lie within its bank (R202, R211); a refused code gives its elements no width, and is PROT whatever
the length (R201). -/
def convFits (a : Dbl) (f : BitVec 25) (blocks : Nat) : Bool :=
  let o := winOff a % 65536
  if 6 < fmtCode f then true
  else if fmtCode f = 5 then o / 96 + blocks ≤ 682 else o + blockBytes (fmtCode f) * blocks ≤ 65536

/-- The checks of XCOPY on its operands. -/
def State.xcopyPlan (s : State) (ops : List Dbl) : Except Halt XPlan := do
  let cs := ops.getD 0 0
  let len := ops.getD 1 0
  let src := ops.getD 2 0
  let dst := ops.getD 3 0
  let fs := s.endFmt src
  let fd := s.endFmt dst
  let bad := !cspecOk cs || len.extractLsb' 40 24 ≠ 0#24
  if fmtCode fs ≠ 0 && fmtCode fd ≠ 0 && fmtCode fs ≠ fmtCode fd then
    let n := len.toNat / 128
    let ok := pairOk (fmtCode fs) (fmtCode fd)
    if bad || cs.getLsbD 5 || len = 0 || len.toNat % 128 ≠ 0 || !(convFits src fs n && convFits dst fd n) then
      illegalE .xcopy
    else
      aligned 64 ((if fmtCode fs = 5 then [] else [src]) ++ (if fmtCode fd = 5 then [] else [dst]))
      convEnd src fs (ok || 6 < fmtCode fd) n
      convEnd dst fd ok n
      .ok ⟨kCONV, cs, fs, fd, n⟩
  else if bad || len.toNat % 64 ≠ 0 then illegalE .xcopy
  else
    aligned 64 [src, dst]
    s.protBoth src len.toNat
    s.protBoth dst len.toNat
    .ok ⟨kCOPY, cs, fs, fd, len.toNat / 64⟩

/-- XCOPY (R211, R212). A LEN that is no multiple of 64, or of 128 in a converting copy, is ILLEGAL, and so are blocks that
do not fit their bank (DEDUCED, log 25). -/
def execXcopy (s : State) : Host.Outcome State Fault Refusal :=
  s.copyIssue 4 s.xcopyPlan

/-- The checks of XCOPY2 on its operands, whatever the bank formats are (R213); a ROWLEN of GEOM that is no multiple of 64 is ILLEGAL (DEDUCED, log 25). -/
def State.xcopy2Plan (s : State) (ops : List Dbl) : Except Halt XPlan := do
  let cs := ops.getD 0 0
  let g := ops.getD 1 0
  let ss := ops.getD 2 0
  let ds := ops.getD 3 0
  let src := ops.getD 4 0
  let dst := ops.getD 5 0
  if !cspecOk cs || !geomOk g then illegalE .xcopy2 else
  aligned 64 [ss, ds]
  let rows := List.range (if rowLen g = 0 then 0 else geomRows g)
  match rows.find? (fun r => !s.endOk (src + BitVec.ofNat 64 r * ss) (rowLen g)) with
  | some r => trapE cPROT (src + BitVec.ofNat 64 r * ss)
  | none =>
    match rows.find? (fun r => !s.endOk (dst + BitVec.ofNat 64 r * ds) (rowLen g)) with
    | some r => trapE cPROT (dst + BitVec.ofNat 64 r * ds)
    | none => .ok ⟨kCOPY2, cs, s.endFmt src, s.endFmt dst, geomRows g * (rowLen g / 64)⟩

/-- XCOPY2 (R213). -/
def execXcopy2 (s : State) : Host.Outcome State Fault Refusal :=
  s.copyIssue 6 s.xcopy2Plan

/-- The checks of XGATH and XSCAT on its operands. An IDX list that does not lie in the own scratchpad traps PROT with IDX (DESIGN
CHOICE, log 49). -/
def State.gatherPlan (s : State) (i : Instr) (kind : Nat) (ops : List Dbl) : Except Halt XPlan := do
  let cs := ops.getD 0 0
  let g := ops.getD 1 0
  let idx := ops.getD 2 0
  let src := ops.getD 3 0
  let dst := ops.getD 4 0
  if !cspecOk cs || !geomOk g then illegalE i else
  aligned 4 [idx]
  if !s.ownEnd idx (4 * geomRows g) then trapE cPROT idx else
  if kind = kGATH then s.protFmt src else s.protBoth src (geomRows g * rowLen g)
  if kind = kGATH then s.protBoth dst (geomRows g * rowLen g) else s.protFmt dst
  .ok ⟨kind, cs, s.endFmt src, s.endFmt dst, geomRows g * (rowLen g / 64)⟩

/-- XGATH and XSCAT (R214): the end whose rows lie one after another is checked at issue, the other as the rows move; the formats
of both are read at issue. -/
def State.gatherIssue (s : State) (i : Instr) (kind : Nat) : Host.Outcome State Fault Refusal :=
  s.copyIssue 5 (s.gatherPlan i kind)

/-- XGATH. -/
def execXgath (s : State) : Host.Outcome State Fault Refusal := s.gatherIssue .xgath kGATH
/-- XSCAT. -/
def execXscat (s : State) : Host.Outcome State Fault Refusal := s.gatherIssue .xscat kSCAT

/-- The checks of XFEED on its operands. -/
def State.xfeedPlan (s : State) (q : BitVec 2) (ops : List Dbl) : Except Halt XPlan := do
  let n := ops.getD 0 0
  let src := ops.getD 1 0
  if n.extractLsb' 16 48 ≠ 0#48 then illegalE (.xfeed q) else
  aligned 64 [src]
  s.protBoth src (2048 * n.toNat)
  .ok ⟨kFEED, q.setWidth 64, s.endFmt src, 0, n.toNat⟩

/-- XFEED (R215): the record's CSPEC field holds its queue. -/
def execXfeed (q : BitVec 2) (s : State) : Host.Outcome State Fault Refusal :=
  s.copyIssue 2 (s.xfeedPlan q)

/-- The checks of XMETA on its operands; a LEN that is no multiple of 64 is ILLEGAL (DEDUCED, log 25). -/
def State.xmetaPlan (s : State) (ops : List Dbl) : Except Halt XPlan := do
  let cs := ops.getD 0 0
  let len := ops.getD 1 0
  let src := ops.getD 2 0
  let off := ops.getD 3 0
  if !cspecOk cs || len.toNat % 64 ≠ 0 || 65536 < off.toNat + len.toNat then illegalE .xmeta else
  aligned 64 [off]
  s.protBoth src len.toNat
  .ok ⟨kMETA, cs, s.endFmt src, 0, len.toNat / 64⟩

/-- XMETA (R216). -/
def execXmeta (s : State) : Host.Outcome State Fault Refusal :=
  s.copyIssue 4 s.xmetaPlan

/-- The checks of XFILL on its operands, whatever the bank formats are (R217); a LEN that is no multiple of 64 is ILLEGAL (DEDUCED, log 25). -/
def State.xfillPlan (s : State) (ops : List Dbl) : Except Halt XPlan := do
  let cs := ops.getD 0 0
  let len := ops.getD 1 0
  let dst := ops.getD 3 0
  if !cspecOk cs || len.toNat % 64 ≠ 0 then illegalE .xfill else
  aligned 64 [dst]
  s.protEnd dst len.toNat
  .ok ⟨kFILL, cs, 0, s.endFmt dst, len.toNat / 64⟩

/-- XFILL (R217). -/
def execXfill (s : State) : Host.Outcome State Fault Refusal :=
  s.copyIssue 4 s.xfillPlan

/-- The checks of XKVC on its operands. -/
def State.xkvcPlan (s : State) (ops : List Dbl) : Except Halt XPlan := do
  let cs := ops.getD 0 0
  let spec := ops.getD 1 0
  let draft := ops.getD 2 0
  let vblk := ops.getD 3 0
  let vscl := ops.getD 4 0
  let (commit, nacc, dims) := kvcSpec spec
  if !cspecOk cs || cs.getLsbD 5 || spec.extractLsb' 32 32 ≠ 0#32 || 127 < commit || 128 < commit + nacc ||
      dims = 0 || dims % 16 ≠ 0 then illegalE .xkvc else
  aligned 64 [draft, vblk]
  s.protBoth draft (4 * dims * nacc)
  s.protBoth vblk (96 * dims)
  s.protBoth vscl dims
  .ok ⟨kKVC, cs, s.endFmt draft, s.endFmt vblk, if nacc = 0 then 0 else dims⟩

/-- XKVC (R328). -/
def execXkvc (s : State) : Host.Outcome State Fault Refusal :=
  s.copyIssue 5 s.xkvcPlan

/-- PROT for a fabric record whose SCOPE is narrower than FAB, with TVAL the CSPEC value (R219, R330). -/
def fabricScope (cs : Dbl) : Except Halt Unit :=
  if (cs.extractLsb' 10 3).toNat < 6 then trapE cPROT cs else .ok ()

/-- The checks of XREDV on its operands. A DST beyond R76's addresses is refused as one in a window is, and a LEN that R330 does not
allow is ILLEGAL (DEDUCED, log 25). -/
def State.xredvPlan (s : State) (ops : List Dbl) : Except Halt XPlan := do
  let cs := ops.getD 0 0
  let len := ops.getD 1 0
  let src := ops.getD 2 0
  let dst := ops.getD 3 0
  let node := ops.getD 4 0
  if !cspecOk cs || cs.getLsbD 5 || node.extractLsb' 32 32 ≠ 0#32 || node.getLsbD 30 || node.getLsbD 23 ||
      len = 0 || len.toNat % 64 ≠ 0 || 2 ^ 32 ≤ len.toNat then illegalE .xredv else
  aligned 64 [src, dst]
  fabricScope cs
  s.protBoth src len.toNat
  if (0x00FE00000000 ≤ dst.toNat && dst.toNat < 0x010000000000) || 2 ^ 56 < dst.toNat + len.toNat then trapE cPROT dst else
  .ok ⟨kREDV, cs, s.endFmt src, 0, len.toNat / 64⟩

/-- XREDV (R330). -/
def execXredv (s : State) : Host.Outcome State Fault Refusal :=
  s.copyIssue 5 s.xredvPlan

/-- The checks of XBCST on its operands; a LEN that is no multiple of 64 is ILLEGAL (DEDUCED, log 25). -/
def State.xbcstPlan (s : State) (publish : Bool) (ops : List Dbl) : Except Halt XPlan := do
  let cs := ops.getD 0 0
  let len := ops.getD 1 0
  let src := ops.getD 2 0
  let off := ops.getD 3 0
  let wh := ops.getD 4 0
  let nlist := ops.getD 5 0
  let count := ops.getD 6 0
  if !cspecOk cs || cs.getLsbD 5 || wh.extractLsb' 13 19 ≠ 0#19 || wh.extractLsb' 6 2 ≠ 0#2 || count = 0 ||
      4096 < count.toNat || len.toNat % 64 ≠ 0 then illegalE (.xbcst publish) else
  aligned 64 [src, off]
  aligned 4 [nlist]
  fabricScope cs
  s.protBoth src len.toNat
  if !s.ownEnd nlist (4 * count.toNat) then trapE cPROT nlist else
  .ok ⟨kBCST, cs ||| (bit publish 64 <<< 63), s.endFmt src, 0, count.toNat * (len.toNat / 64)⟩

/-- XBCST (R331): the publish flag stands in bit 63 of the record's CSPEC field. -/
def execXbcst (publish : Bool) (s : State) : Host.Outcome State Fault Refusal :=
  s.copyIssue 7 (s.xbcstPlan publish)

/-- The checks of XTADD on its operands. -/
def State.xtaddPlan (s : State) (ctr : BitVec 5) (ops : List Dbl) : Except Halt XPlan := do
  let w := ops.getD 1 0
  let kind := (w.extractLsb' 16 2).toNat
  let scope := (w.extractLsb' 0 3).toNat
  if w.extractLsb' 38 26 ≠ 0#26 || w.getLsbD 31 || w.extractLsb' 18 6 ≠ 0#6 || w.extractLsb' 3 13 ≠ 0#13 ||
      kind = 3 || (kind = 2 && ctr ≠ 0) || (kind ≠ 2 && w.extractLsb' 32 6 ≠ 0#6) ||
      (kind ≠ 1 && w.extractLsb' 24 7 ≠ 0#7) then illegalE (.xtadd ctr) else
  let plan : XPlan := ⟨kXTADD, BitVec.ofNat 64 (scope * 1024 + ctr.toNat), 0, 0, 0⟩
  if kind = 1 then
    match s.mapTile (liveCtx (s.tile s.cur)) (w.extractLsb' 24 7).toNat with
    | none => trapE cPROT w
    | some p => if inScope scope s.cur p then .ok plan else trapE cPROT w
  else if kind = 2 && scope < 3 then trapE cPROT w
  else .ok plan

/-- XTADD (R235): the record's CSPEC field holds SCOPE and the counter in their places. A mailbox is a die unit, which
scopes narrower than DIE do not hold (DEDUCED, log 23). -/
def execXtadd (ctr : BitVec 5) (s : State) : Host.Outcome State Fault Refusal :=
  s.copyIssue 2 (s.xtaddPlan ctr)

/-! ### Spans of bytes -/

/-- The pieces of a span that lie within one line each. -/
def pieces : Nat → Nat → Nat → List (Nat × Nat)
  | 0, _, _ => []
  | fuel + 1, a, n =>
    if n = 0 then [] else
    let k := min n (64 - a % 64)
    (a, k) :: pieces fuel (a + k) (n - k)

/-- MCHECK for a byte among `n` at a place that lies in an uncorrectable line (R173, R208, R387). -/
def State.sound (s : State) (t : PTile) (at_ : Loc) (n : Nat) : Except Halt Unit :=
  match s.lostByte t at_ n with
  | some a => trapE cMCHECK (BitVec.ofNat 64 a)
  | none => .ok ()

/-- Where the pieces of a span lead, for a copy record's access (R76, R190, R208); an uncorrectable source line raises
MCHECK. -/
def State.locatePieces (s : State) (t : PTile) (acc : Acc) : List (Nat × Nat) → Except Halt (State × List (Loc × Nat))
  | [] => .ok (s, [])
  | (a, k) :: rest => do
    if 2 ^ 56 ≤ a then trapE cPROT (BitVec.ofNat 64 a) else
    let (s, at_) ← s.locate t (BitVec.ofNat 64 a) k acc
    s.sound t at_ (if acc.r then k else 0)
    let (s, ls) ← s.locatePieces t acc rest
    .ok (s, (at_, k) :: ls)

/-- Read a span, past the control data cache (R79). -/
def State.readSpan (s : State) (t : PTile) (a : Dbl) (n : Nat) : Except Halt (State × List Byte) := do
  let (s, ls) ← s.locatePieces t accR (pieces (n / 64 + 2) a.toNat n)
  .ok (ls.foldl (fun s p => s.dropCached t p.1) s, ls.flatMap (fun p => s.readLoc t p.1 p.2))

/-- Write bytes over places in order; each line leaves the tile's control data cache (R84, R191). -/
def State.writePlaces (s : State) (t : PTile) : List (Loc × Nat) → List Byte → State
  | [], _ => s
  | (at_, k) :: rest, bs => (((s.writeLoc t at_ (bs.take k)).dropCached t at_)).writePlaces t rest (bs.drop k)

/-- Write a span, all of it or nothing. -/
def State.writeSpan (s : State) (t : PTile) (a : Dbl) (bs : List Byte) : Except Halt State := do
  let (s, ls) ← s.locatePieces t accW (pieces (bs.length / 64 + 2) a.toNat bs.length)
  .ok (s.writePlaces t ls bs)

/-! ### What a unit carries (R206, R212, R328) -/

/-- Packed six-bit codes, lowest first (R62). -/
def packCodes (cs : List (BitVec 6)) : List Byte :=
  natBytes (cs.foldr (fun c n => c.toNat + 64 * n) 0) (6 * cs.length / 8)

/-- An L6 value under a scale, rounded to a precision of 24 or 8 bits (R61, R212). Under a scale of 255 it is the largest finite
number of its format, for BF16 0x7F7F (DESIGN CHOICE, log 50). -/
def l6Scaled (p : Nat) (c : BitVec 6) (s : Byte) : BitVec 32 :=
  match l6Val c with
  | .fin n m e =>
    if m = 0 || s = 0 then zeroBits p n
    else if s = 255 then (if p = 24 then 0x7F7FFFFF#32 else 0x7F7F#32) ||| zeroBits p n
    else (fround p 0 false n m (e + (s.toNat : Int) - 127) false).bits
  | _ => 0

/-- The elements of a block as F32 patterns, from F32 or BF16. -/
def blockF32 (code : Nat) (bs : List Byte) : List Lane :=
  (List.range 128).map (fun j =>
    if code = 1 then BitVec.ofNat 32 (bytesNat ((bs.drop (4 * j)).take 4))
    else BitVec.ofNat 32 (bytesNat ((bs.drop (2 * j)).take 2)) <<< 16)

/-- A converted block: the destination's bytes, then its scale byte where it is L6 (R212). -/
def convBlock (sc dc : Nat) (bs : List Byte) (scale : Byte) : List Byte :=
  if sc = 5 then
    let n := bytesNat bs
    (List.range 128).flatMap (fun j =>
      let v := l6Scaled (if dc = 1 then 24 else 8) (BitVec.ofNat 6 (n / 64 ^ j % 64)) scale
      natBytes v.toNat (if dc = 1 then 4 else 2))
  else if dc = 5 then
    let xs := (blockF32 sc bs).map (unpack false)
    let e := l6Scale xs
    packCodes (xs.map (fun x => (l6code x e).1)) ++ [e]
  else if sc = 4 then bs.flatMap (fun b => natBytes (b.signExtend 32).toNat 4)
  else if sc = 3 then
    (List.range 128).flatMap (fun j =>
      natBytes (ofInt32 0 false (BitVec.ofNat 32 (bytesNat ((bs.drop (4 * j)).take 4))).toInt).bits.toNat 4)
  else
    (blockF32 sc bs).flatMap (fun x =>
      if dc = 2 then natBytes (deliver 8 0 false (unpack false x)).bits.toNat 2
      else natBytes (deliver 24 0 false (unpack false x)).bits.toNat 4)

/-- A column of XKVC (R328): the new scale byte, then the bytes of the codes below COMMIT + NACC. -/
def kvcColumn (commit nacc : Nat) (scale : Byte) (drafts : List Lane) (codes : List Byte) : List Byte :=
  let e := min scale.toNat 254
  let xs := (drafts.take nacc).map (unpack false)
  let e2 := max e (l6Scale xs).toNat
  let n := bytesNat codes
  let old := (List.range commit).map (fun t => l6Shift (BitVec.ofNat 6 (n / 64 ^ t % 64)) (e2 - e))
  let new := xs.map (fun x => (l6code x (BitVec.ofNat 8 e2)).1)
  BitVec.ofNat 8 e2 :: natBytes ((old ++ new).foldr (fun c m => c.toNat + 64 * m) 0) ((6 * (commit + nacc) + 7) / 8)

/-- F32 values of a column of the draft tail. -/
def State.readDrafts (s : State) (t : PTile) (r : XRec) (dims u : Nat) : Nat → Nat → Except Halt (State × List Lane)
  | 0, _ => .ok (s, [])
  | n + 1, k => do
    let (s, bs) ← s.readSpan t (r.op 2 + BitVec.ofNat 64 (4 * dims * k + 4 * u)) 4
    let (s, xs) ← s.readDrafts t r dims u n (k + 1)
    .ok (s, BitVec.ofNat 32 (bytesNat bs) :: xs)

/-- The data of unit u, read now (R206); a skipped row carries none. -/
def State.unitData (s : State) (t : PTile) (r : XRec) (u : Nat) : Except Halt (State × List Byte) :=
  if r.skips u then .ok (s, []) else
  match r.kind with
  | 1 => do
    let sc := fmtCode r.bfS
    let m := (s.tc t).scratch
    let bs := memBytes m (winOff (r.srcAddr u)) (blockBytes sc)
    s.sound t (.scr t (winOff (r.srcAddr u))) (blockBytes sc)
    s.sound t (.scr t (scaleOff (r.op 2) r.bfS u)) (if sc = 5 then 1 else 0)
    .ok (s, convBlock sc (fmtCode r.bfD) bs (if sc = 5 then memGet m (scaleOff (r.op 2) r.bfS u) else 0))
  | 5 => s.readSpan t (r.srcAddr u) 2048
  | 7 => .ok (s, (List.range 64).map (fun i => (r.op 2).extractLsb' (8 * (i % 8)) 8))
  | 8 => do
    let (commit, nacc, dims) := kvcSpec (r.op 1)
    let (s, e) ← s.readSpan t (r.op 4 + BitVec.ofNat 64 u) 1
    let (s, codes) ← s.readSpan t (r.dstAddr u) ((6 * commit + 7) / 8)
    let (s, xs) ← s.readDrafts t r dims u nacc 0
    .ok (s, kvcColumn commit nacc (e.headD 0) xs codes)
  | _ => s.readSpan t (r.srcAddr u) 64

/-! ### Records in motion (R80, R204–R208) -/

/-- A record of a tile by its number. -/
def TCtx.xrec (c : TCtx) (num : Nat) : Option XRec := c.xrecs.find? (fun r => r.num = num)
/-- A change to a record. -/
def TCtx.modX (c : TCtx) (num : Nat) (f : XRec → XRec) : TCtx :=
  { c with xrecs := c.xrecs.map (fun r => if r.num = num then f r else r) }
/-- The records issued before a record. -/
def TCtx.earlier (c : TCtx) (num : Nat) : List XRec := c.xrecs.takeWhile (fun r => r.num ≠ num)

/-- The feeder queue of a feed (R215). -/
def XRec.queue (r : XRec) : BitVec 2 := r.cspec.setWidth 2
/-- Whether a record has no access left that a class orders: an XTADD, and a feed whose reads are all issued, whose pushes are no
accesses to memory (R215). -/
def XRec.over (r : XRec) : Bool := r.kind = kXTADD || (r.kind = kFEED && r.units ≤ r.readN)
/-- Whether a record's writes may be performed (R80, R206): no earlier record of its class, or of class 15 either way, is
incomplete. The pushes of a feed follow those of the earlier feeds of their queue (R215). -/
def TCtx.mayWrite (c : TCtx) (r : XRec) : Bool :=
  (c.earlier r.num).all (fun q =>
    if r.kind = kFEED then q.kind ≠ kFEED || q.queue ≠ r.queue else q.over || !clsOrdered q.cls r.cls)
/-- Whether a record's reads may be issued (R80): class 15 follows every earlier record and precedes every later one. -/
def TCtx.mayRead (c : TCtx) (r : XRec) : Bool :=
  (c.earlier r.num).all (fun q => q.over || (q.cls ≠ 15 && r.cls ≠ 15))
/-- A counter's add by a record (R92, R207): a release at its SCOPE, which at PKG scope and wider writes back the set first, and at
any other a set above 4,096 lines (R89, 2). -/
def State.recordAdd (s : State) (t : PTile) (r : XRec) (v : Dbl) : State :=
  let s := if 4 ≤ r.scope then s.writeBackSet t else s.capSet t
  s.addOwn t r.ctr.toNat v

/-- A record leaves the engine. -/
def State.freeRec (s : State) (t : PTile) (num : Nat) : State :=
  (s.modTc t (fun c => { c with xrecs := c.xrecs.filter (fun r => r.num ≠ num), fabric := adel c.fabric num })).progress t

/-- A record whose units have all landed completes, where its class lets it (R92, R206, R332): MODE 0 adds 1, but for a
feed and for a record that a destination has refused. -/
def State.copyFinish (s : State) (t : PTile) (num : Nat) : State :=
  match (s.tc t).xrec num with
  | none => s
  | some r =>
    if r.kind = kXTADD || r.readN < r.units || !r.flight.isEmpty || r.fault.isSome || !(s.tc t).mayWrite r then s else
    let s := if r.kind = kFEED || r.mode || r.failed then s else s.recordAdd t r 1
    s.freeRec t num

/-- A record meets a fault at an access (R208, R395); an uncorrectable line fences the tile. -/
def State.recordFault (s : State) (t : PTile) (num : Nat) (acc : Acc) (k : Cause) : State :=
  if k.code = cMCHECK then s.machineCheck t k.tval
  else (s.touch t acc k).modTc t (fun c => c.modX num (fun r => { r with fault := some k }))

/-- The first unit of a record that has not landed (R205). -/
def XRec.next (r : XRec) : Nat := (r.flight.map (·.1)).foldl min r.readN

/-- The remaining length of a record (R257): bytes, elements of a converting copy, or rows, of which one that has landed in part
counts whole. A feed, XMETA, XFILL, XREDV and XBCST count bytes, and XKVC elements, of 128 a column (DESIGN CHOICE, log 57). -/
def XRec.left (r : XRec) : Nat :=
  let left := r.units - r.next
  let rows := if rowLen (r.op 1) = 0 then 0 else (64 * left + rowLen (r.op 1) - 1) / rowLen (r.op 1)
  match r.kind with
  | 1 => 128 * left
  | 2 => rows
  | 3 => rows
  | 4 => rows
  | 5 => 2048 * left
  | 8 => 128 * left
  | _ => 64 * left

/-- A report of kind 0 for a record (R257, R258): its counter's FAIL bit is set. A feed, which names no counter, has its queue in the
place of CTR (DESIGN CHOICE, log 57). -/
def State.reportRecord (s : State) (t : PTile) (r : XRec) (code : Byte) (d3 : Dbl) : State :=
  let d4 : Dbl := BitVec.ofNat 64 (r.scope * 2 ^ 14 + r.cls * 2 ^ 10 + (if r.mode then 512 else 0) + r.ctr.toNat * 16 + r.kind)
  let c := liveCtx (s.tile t)
  (s.failRecord t r).report c r.fmb ⟨0, 3, code, r.lba, r.iaddr.setWidth 64, d3, d4, r.srcAddr r.next, r.dstAddr r.next,
    BitVec.ofNat 64 r.left⟩

/-- Whether a record reads a list of words before its units: indices or nodes (R214, R331). -/
def XRec.listAt (r : XRec) : Option (Dbl × Nat) :=
  if r.kind = kGATH || r.kind = kSCAT then some (r.op 2, geomRows (r.op 1))
  else if r.kind = kBCST then some (r.op 5, (r.op 6).toNat)
  else none

/-- A destination of XBCST that has refused, or whose node entry does (R331, R332). -/
def XRec.refusedDest (r : XRec) (u : Nat) : Bool :=
  r.kind = kBCST && ((r.idx.getD []).getD (r.destOf u) 0).extractLsb' 18 14 ≠ 0#14

/-- A destination refuses a fabric record (R332): reported once, with the node in double 3; its other units are not sent. -/
def State.refuseDest (s : State) (t : PTile) (num u : Nat) : State :=
  match (s.tc t).xrec num with
  | none => s
  | some r =>
    let node : Dbl := if r.kind = kBCST then ((r.idx.getD []).getD (r.destOf u) 0).setWidth 64
      else (r.op 4).extractLsb' 0 18 |>.setWidth 64
    let mine (v : Nat) : Bool := r.kind ≠ kBCST || r.destOf v = r.destOf u
    let s := s.reportRecord t r cPROT node
    let s := s.modTc t (fun c => c.modX num (fun r =>
      { r with failed := true
               flight := r.flight.filter (fun e => !mine e.1)
               readN := if r.kind = kBCST then r.readN else r.units
               idx := if r.kind = kBCST then some ((r.idx.getD []).set (r.destOf u) 0xFFFFFFFF#32) else r.idx }))
    s.copyFinish t num

/-- A copy record issues its next source read (R206). The words of its list are read first, under its class. A record with
nothing left to read completes. -/
def State.copyRead (s : State) (t : PTile) (num : Nat) : State :=
  let c := s.tc t
  match c.xrec num with
  | none => s
  | some r =>
    if !s.recordsRun t || r.kind = kXTADD || r.fault.isSome || !c.mayRead r then s else
    match r.listAt, r.idx with
    | some (a, n), none =>
      let o := winOff a
      match s.sound t (.scr t o) (4 * n) with
      | .error (.trap k) => s.recordFault t num accR k
      | _ => s.modTc t (fun c => c.modX num (fun r => { r with
        idx := some ((List.range n).map (fun i => BitVec.ofNat 32 (bytesNat (memBytes c.scratch (o + 4 * i) 4)))) }))
    | _, _ =>
      if r.units ≤ r.readN then s.copyFinish t num
      else if r.refusedDest r.readN then
        let first : Bool := r.readN % ((r.op 1).toNat / 64) = 0
        let s := if first then s.refuseDest t num r.readN else s
        (s.modTc t (fun c => c.modX num (fun q => { q with readN := q.readN + 1 }))).copyFinish t num
      else match s.unitData t r r.readN with
        | .ok (s, bs) =>
          s.modTc t (fun c => c.modX num (fun r =>
            { r with readN := r.readN + 1, flight := r.flight ++ [(r.readN, bs, 0, false)] }))
        | .error (.trap k) => s.recordFault t num accR k
        | .error _ => s

/-- Whether an earlier row of an XSCAT that has not landed writes the line of unit u (R214): the higher row's bytes remain. -/
def XRec.rowBefore (r : XRec) (u : Nat) : Bool :=
  r.flight.any (fun e => e.1 < u && !r.skips e.1 && r.dstAddr e.1 = r.dstAddr u)

/-- The write of a landing unit (R206, R212, R214–R216, R328). -/
def State.landUnit (s : State) (t : PTile) (r : XRec) (u : Nat) (bs : List Byte) : Except Halt State :=
  match r.kind with
  | 1 =>
    let n := blockBytes (fmtCode r.bfD)
    let o := winOff (r.dstAddr u)
    let s := s.writeLoc t (.scr t o) (bs.take n)
    .ok (if fmtCode r.bfD = 5 then s.writeLoc t (.scr t (scaleOff (r.op 3) r.bfD u)) (bs.drop n) else s)
  | 5 =>
    let q := (r.cspec.extractLsb' 0 2).toNat
    let v := (List.range 512).map (fun l => BitVec.ofNat 32 (bytesNat ((bs.drop (4 * l)).take 4)))
    let old := (aget (s.tc t).feed q).getD []
    if 4 ≤ old.length || r.flight.any (fun e => e.1 < u) then holdE
    else .ok (s.modTc t (fun c => { c with feed := aset c.feed q (old ++ [v]) }))
  | 4 => if bs.isEmpty then .ok s else if r.rowBefore u then holdE else s.writeSpan t (r.dstAddr u) bs
  | 6 => .ok (s.modTc t (fun c => { c with side := memWrite c.side (r.dstAddr u).toNat bs }))
  | 8 => do
    let (commit, nacc, _) := kvcSpec (r.op 1)
    let codes := bs.drop 1
    let nb := 6 * (commit + nacc)
    let (s, old) ← s.readSpan t (r.dstAddr u) codes.length
    let codes := if nb % 8 = 0 then codes else
      let k := 2 ^ (nb % 8)
      codes.dropLast ++ [BitVec.ofNat 8 ((codes.getLastD 0).toNat % k + (old.getLastD 0).toNat / k * k)]
    let s ← s.writeSpan t (r.dstAddr u) codes
    s.writeSpan t (r.op 4 + BitVec.ofNat 64 u) (bs.take 1)
  | _ => if bs.isEmpty then .ok s else s.writeSpan t (r.dstAddr u) bs

/-- Credit of a virtual channel to a node (R329). -/
def creditKey (w : Bool) (node : BitVec 18) : Nat := (if w then 2 ^ 18 else 0) + node.toNat

/-- The number under which the units of a fabric record leave: that of the record, context and tile of its first issue, also
where an image has brought the record here (R330, R333). -/
def State.fabricNum (s : State) (t : PTile) (r : XRec) : Nat :=
  (aget (s.tc t).fabric r.num).getD ((r.num * 32 + (liveCtx (s.tile t)).toNat) * 128 + t.toNat)

/-- How many times NLIST names the node at a place of it (R331). -/
def XRec.nodeCount (r : XRec) (i : Nat) : Nat := (r.idx.getD []).count ((r.idx.getD []).getD i 0)

/-- A fabric unit leaves the port, where its channel holds credit (R329–R331). -/
def State.sendUnit (s : State) (t : PTile) (r : XRec) (u : Nat) (bs : List Byte) : Option State :=
  let w := r.kind = kBCST
  let dest : BitVec 18 := if w then ((r.idx.getD []).getD (r.destOf u) 0).setWidth 18 else (r.op 4).extractLsb' 0 18
  let n := (aget s.credits (creditKey w dest)).getD 0
  if n = 0 then none else
  let s := { s with credits := aset s.credits (creditKey w dest) (n - 1) }
  let id := s.fabricNum t r
  let msg : Msg := if w then
      .bcst ⟨s.node, id, u, r.op 4, r.op 3, r.op 1, r.nodeCount (r.destOf u) - 1, r.cspec.getLsbD 63, recOf bs, true⟩ dest
    else
      let m := r.op 4
      .redv ⟨s.node, id, u, m.extractLsb' 18 5, r.dstAddr u, (r.op 1).setWidth 32,
        if m.getLsbD 31 then some (m.extractLsb' 24 6) else none, recOf bs, true⟩ dest
  some ((s.modTc t (fun c => c.modX r.num (fun q =>
    { q with flight := q.flight.map (fun e => if e.1 = u then (e.1, e.2.1, e.2.2.1, true) else e) }))).send msg)

/-- Unit u of a record has landed: MODE 1 adds 64 (R207), and the record completes with its last unit. -/
def State.landed (s : State) (t : PTile) (r : XRec) (u : Nat) : State :=
  let s := s.modTc t (fun c => c.modX r.num (fun q => { q with flight := q.flight.filter (fun e => e.1 ≠ u) }))
  let s := if r.mode && r.kind ≠ kBCST then s.recordAdd t r 64 else s
  (s.progress t).copyFinish t r.num

/-- COPY_LINE_LAND (R206, R329): unit `unit` of record `rec` of the acting tile lands, or leaves the port for its package. -/
def execCopyLineLand (rec unit : Nat) (s : State) : Host.Outcome State Fault Refusal :=
  let t := s.cur
  let c := s.tc t
  match c.xrec rec with
  | none => .next s
  | some r =>
    match r.flight.find? (fun e => e.1 = unit) with
    | none => .next s
    | some (_, bs, _, sent) =>
      if !s.recordsRun t || sent || !c.mayWrite r then .next s
      else if r.kind = kREDV || r.kind = kBCST then .next ((s.sendUnit t r unit bs).getD s)
      else match s.landUnit t r unit bs with
        | .ok s => .next (s.landed t r unit)
        | .error (.trap k) => .next (s.recordFault t rec accW k)
        | .error _ => .next s

/-- XTADD_ADD (R90, R235): the add of record `rec` of the acting tile, once every earlier record of its task is complete;
a release that writes back the set first. The record is complete as its add is sent (DESIGN CHOICE, log 56). -/
def execXtaddAdd (rec : Nat) (s : State) : Host.Outcome State Fault Refusal :=
  let t := s.cur
  let c := s.tc t
  match c.xrec rec with
  | none => .next s
  | some r =>
    if !s.recordsRun t || r.kind ≠ kXTADD || (c.earlier rec).any (fun q => q.age = r.age && q.own = r.own) then .next s else
    let s := (s.writeBackSet t).freeRec t rec
    let (kind, tile, mbox) := r.target
    let amount := r.op 0
    let cx := liveCtx (s.tile t)
    if kind = 0 then .next (s.addOwn t r.ctr.toNat amount)
    else if kind = 1 then
      match s.mapTile cx tile with
      | some p => .next { s with flying := s.flying ++ [⟨p, cx, r.ctr, amount, false⟩] }
      | none => .next s
    else .next { s with arrivals := s.arrivals ++ [(cx, BitVec.ofNat 6 mbox, .xtadd (s.logical cx t) amount)] }

/-- UNIT_ACKNOWLEDGE (R330, R333): a destination has acknowledged a unit, which has then landed. -/
def execUnitAcknowledge (t : PTile) (rec unit : Nat) (s : State) : Host.Outcome State Fault Refusal :=
  match (s.tc t).xrec rec with
  | none => .next s
  | some r =>
    if (r.kind = kREDV || r.kind = kBCST) && r.flight.any (fun e => e.1 = unit && e.2.2.2) then .next (s.landed t r unit)
    else .next s

/-- UNIT_REFUSAL (R332, R387): a unit that failed its CRC-64 is resent up to three times; then, or where the destination
refuses it, the record fails. -/
def execUnitRefusal (t : PTile) (rec unit : Nat) (crc : Bool) (s : State) : Host.Outcome State Fault Refusal :=
  match (s.tc t).xrec rec with
  | none => .next s
  | some r =>
    match r.flight.find? (fun e => e.1 = unit) with
    | none => .next s
    | some (_, _, tries, sent) =>
      if !sent then .next s
      else if crc && tries < 3 then
        .next (s.modTc t (fun c => c.modX rec (fun q =>
          { q with flight := q.flight.map (fun e => if e.1 = unit then (e.1, e.2.1, tries + 1, false) else e) })))
      else .next (s.refuseDest t rec unit)

/-- CREDIT_GRANT (R329); when a message of VC-B leaves its port is out of scope (log 26). -/
def execCreditGrant (vc : Vc) (node : BitVec 18) (n : BitVec 16) (s : State) : Host.Outcome State Fault Refusal :=
  let add (w : Bool) : State :=
    { s with credits := aset s.credits (creditKey w node) ((aget s.credits (creditKey w node)).getD 0 + n.toNat) }
  match vc with
  | .g => .next (add false)
  | .w => .next (add true)
  | .b => .next s

/-- The units of a record in flight land in order, as far as they can (R208, R352): the first that cannot is the first of those
that have not landed. -/
def State.landAll (s : State) (t : PTile) (num : Nat) : List (Nat × List Byte) → State
  | [] => s
  | (u, bs) :: rest =>
    match (s.tc t).xrec num with
    | none => s
    | some r =>
      match s.landUnit t r u bs with
      | .ok s => (s.landed t r u).landAll t num rest
      | .error _ => s

/-- Whether the task on a tile still runs its text (R208): it has not exited. -/
def State.taskRuns (s : State) (t : PTile) : Bool :=
  match (s.tc t).task with
  | none => false
  | some k => match s.slot (dieOf t) k.slot.toNat with
    | some e => !e.exited
    | none => false

/-- TRAP_ENTRY (R173, R208, R346): the first record of a tile that has met a fault stops the running task with a trap at its
instruction's address; the record of a task that has exited lands what it can and is reported and freed. -/
def execTrapEntry (t : PTile) (s : State) : Host.Outcome State Fault Refusal :=
  let c := s.tc t
  let free : Bool := (s.tile t).stop = .none && !c.recStop
  match c.mq.find? (fun r => r.fault.isSome), c.xrecs.find? (fun r => r.fault.isSome) with
  | some r, _ => .next (if free then s.takeTrap t .m (.record r.addr) (r.fault.getD ⟨0, 0⟩) else s)
  | none, some r =>
    let k := r.fault.getD ⟨0, 0⟩
    if r.own && s.taskRuns t then
      .next (if free then s.takeTrap t .x (.record r.iaddr) k else s)
    else if !s.recordsRun t || !c.mayWrite r then .next s
    else
      let s := if r.kind = kREDV || r.kind = kBCST then s else s.landAll t r.num (r.flight.map (fun e => (e.1, e.2.1)))
      match (s.tc t).xrec r.num with
      | none => .next s
      | some r => .next ((s.reportRecord t r k.code k.tval).freeRec t r.num)
  | none, none => .next s

end Sys2Proof.Machine
end

