-- ==== Sys2Proof/Machine/Image.lean ====
section
/-! DEFINITION. Saving and resuming (19_system_class.md, R350–R357, R398; R316; R375): the stop and the quiesce of a save,
the bytes of a save image and their reading back, YIELD and FORCED_SAVE. -/

namespace Sys2Proof.Machine

/-! ### The stop of a save (R351, R352, R174) -/

/-- A record of the fabric (R329). -/
def XRec.fabric (r : XRec) : Bool := r.kind = kREDV || r.kind = kBCST

/-- The quiesce of one record (R352): what is read and may land lands, and a record with nothing left completes. -/
def State.quiesceRec (s : State) (t : PTile) (num : Nat) : State :=
  match (s.tc t).xrec num with
  | none => s
  | some r =>
    if r.kind = kXTADD || !(s.tc t).mayWrite r then s
    else (if r.fabric then s else s.landAll t num (r.flight.map (fun e => (e.1, e.2.1)))).copyFinish t num

/-- What a quiesce leaves of a record of the task (R205, R352): a remainder, whose sources are read again. The words of its list
stay with it in a Sett; a record that comes from memory reads them again (DEDUCED, log 28). -/
def XRec.remainder (r : XRec) : XRec :=
  if r.own then { r with readN := r.next, flight := [], fault := none } else r

/-- The drain that has started completes, as far as its feeder queue takes vectors (R174), `n` parts at most. -/
def State.drainAll (s : State) (t : PTile) : Nat → State
  | 0 => s
  | n + 1 => if (s.tc t).drain.isNone then s else (s.drainStep t).drainAll t n

/-- The vectors that a full feeder queue could not take (R174): their rows have passed the epilogue (R170), and they go before
the array's next fetch. -/
def TCtx.holdDrain (c : TCtx) : TCtx :=
  match c.drain with
  | none => c
  | some d =>
    let rows := if d.bf16 then (List.range d.m).filter (fun i => 4 * d.next ≤ i) else []
    { c with heap := rows.foldl (fun h i => h.feed i (d.vals.getD i [])) c.heap, drain := some { d with bf16 := false }, late := true }

/-- A matrix record as a save leaves it: its next k-step and its pinned window stand for the image (R174, R398); on resumption
it asks for its windows again (log 28). -/
def MRec.saved (r : MRec) : MRec := { r with ask := none, fault := none }

/-- The stop of a YIELD, a forced save or a save by Abatal (R346, R351, 1–3): every access issued is performed, due vector
writes land, waits are cancelled, the task's copies are quiesced, the drain completes, and the release set is written
back. None while a fabric unit that has been read is not yet acknowledged (R352). -/
def State.stopForSave (s : State) (t : PTile) : Option State :=
  let s := s.settle t ((s.tc t).fills.length + (s.tile t).sbuf.length)
  let s := s.settleV t ((s.tc t).vloads.length + (s.tc t).vstores.length)
  let s := s.modTc t (fun q =>
    let q := q.landDue q.tick
    let q := if q.inh then q else q.resync
    { q with qs := q.unreserved, c := q.c.still, v := q.v.still, m := q.m.still, x := q.x.still })
  let own := ((s.tc t).xrecs.filter (·.own)).map (·.num)
  let s := own.foldl (fun s n => s.quiesceRec t n) s
  let c := s.tc t
  if c.xrecs.any (fun r => r.own && r.fabric && !r.flight.isEmpty && (c.mayWrite r || r.flight.any (·.2.2.2))) then none
  else
    let s := s.drainAll t 128
    let s := s.modTc t (fun c =>
      { c.holdDrain with mq := c.mq.map (·.saved), xrecs := c.xrecs.map (·.remainder) })
    some (s.writeBackSet t)

/-! ### The bytes of an image (R354–R356, R398) -/

/-- Doubles as bytes. -/
def dblBytes (ds : List Dbl) : List Byte := ds.flatMap (fun d => toBytes d 8)
/-- A natural number as a double. -/
def nd (n : Nat) : Dbl := BitVec.ofNat 64 n
/-- A count and `n` entries; those beyond the count are zero. -/
def counted (n : Nat) (ds : List Dbl) : List Dbl := nd ds.length :: (List.range n).map (fun i => ds.getD i 0)
/-- A register's 512 lanes, lane 0 first. -/
def laneBytes (v : List Lane) : List Byte := (List.range 512).flatMap (fun l => natBytes (v.getD l 0).toNat 4)

/-- The CSRs marked Yes in R340, ascending. -/
def imageCsrs : List Nat :=
  [0x000, 0x001, 0x002, 0x003, 0x004, 0x005, 0x006, 0x010, 0x011, 0x012, 0x013, 0x018, 0x019, 0x030, 0x031] ++
  (List.range 32).map (· + 0x040)

/-- Section CSR. -/
def csrSection (c : TCtx) : List Byte := dblBytes (imageCsrs.flatMap (fun n => [nd n, c.csr n]))

/-- Whether a GSYNC of a group slot has arrived and still waits, be it stopped by a trap (R346). -/
def TCtx.arrived (c : TCtx) (n : Nat) : Bool := (c.gslot n).synced || c.gsync.any (·.1 = n)

/-- Section WALK. -/
def walkSection (c : TCtx) : List Byte :=
  let es := [c.c, c.v, c.m, c.x]
  let at_ (p : Pc) : Dbl := p.setWidth 64
  let stack (g : Engine) := counted 8 (g.stack.reverse.map at_)
  dblBytes (
    es.map (fun g => at_ g.pc) ++
    [nd ((es.zipIdx.map (fun p => p.1.count % 65536 * 65536 ^ p.2)).foldl (· + ·) 0),
     nd ((if c.v.walking then 4 else 0) + (if c.m.walking then 2 else 0) + (if c.x.walking then 1 else 0) +
       c.win % 65536 * 256 + ((List.range 4).map (fun n => if c.arrived n then 2 ^ (24 + n) else 0)).foldl (· + ·) 0),
     nd c.tick] ++
    [c.v, c.m, c.x].flatMap (fun g => counted 16 (g.oq.map at_)) ++
    es.flatMap stack ++
    (List.range 4).map (fun n => (aget c.lcs n).getD 0) ++ [c.sp.setWidth 64, 0])

/-- The values of a queue register at a save: every slot is filled. -/
def slotVals (ss : List Slot) : List Dbl := ss.map (fun x => match x with | .filled v => v | .reserved _ => 0)

/-- Section CQ. -/
def cqSection (c : TCtx) : List Byte :=
  let cond (q : List CEntry) := counted 8 (q.map (fun e => bit e.value 64 ||| (bit e.err 64 <<< 1)))
  dblBytes (
    (List.range 16).flatMap (fun n => counted 4 (slotVals ((aget c.qs n).getD [])) ++ [0, 0, 0]) ++ cond c.cqc ++ cond c.cqv)

/-- Section VREG. -/
def vregSection (c : TCtx) : List Byte :=
  (List.range 48).flatMap (fun n => laneBytes ((aget c.vregs n).getD [])) ++
  (List.range 7).flatMap (fun n => natBytes (((aget c.masks (n + 1)).getD 0).toNat) 64) ++
  dblBytes ((List.range 8).map (fun n => (aget c.vas n).getD 0)) ++
  (List.range 4).flatMap (fun n =>
    let q := (aget c.feed n).getD []
    dblBytes [nd q.length] ++ (List.range 4).flatMap (fun i => laneBytes (q.getD i [])))

/-- The pending writes in issue order. -/
def TCtx.byIssue (c : TCtx) : List VWrite :=
  let rec ins (w : VWrite) : List VWrite → List VWrite
    | [] => [w]
    | a :: r => if w.iss ≤ a.iss then w :: a :: r else a :: ins w r
  c.pending.foldr ins []

/-- Section PEND. -/
def pendSection (c : TCtx) : List Byte :=
  dblBytes [nd c.pending.length] ++ c.byIssue.flatMap (fun w =>
    dblBytes [nd (w.reg % 64 + (w.vis - c.tick) % 32 * 256)] ++ natBytes w.mask.toNat 64 ++ laneBytes w.vals)

/-- The drain vectors held. -/
def TCtx.heldVectors (c : TCtx) : List (List Lane) :=
  match c.drain with
  | none => []
  | some d => ((List.range ((d.m + 3) / 4)).filter (fun v => d.next ≤ v)).map (fun v => d.vector v)

/-- Section MATRIX. -/
def matrixSection (c : TCtx) : List Byte :=
  let rec_ (r : MRec) : List Dbl :=
    [nd (r.op % 64 + r.flags.toNat * 64 + (if r.holder then 4096 else 0)), r.addr.setWidth 64] ++
    (List.range 4).map (fun i => r.ops.getD i 0) ++
    [nd (r.kstep % 2 ^ 32 + r.drains % 65536 * 2 ^ 32), match r.pins with
      | [] => 0
      | p :: _ => nd (p.1 % 2 ^ 32 + 2 ^ 32)]
  let h := c.heap
  dblBytes (counted 8 c.mstack.reverse ++ [nd c.mq.length] ++ c.mq.flatMap rec_ ++ [nd c.heldVectors.length]) ++
  c.heldVectors.flatMap laneBytes ++
  dblBytes [nd (h.k - 1 + (if h.en then 64 else 0) + (h.rows - 1) * 256 + h.base.toNat * 65536)] ++
  (List.range h.rows).flatMap (fun i =>
    let row := h.entries.getD i []
    dblBytes [nd row.length] ++ (List.range h.k).flatMap (fun r =>
      let p := row.getD r (0, 0)
      natBytes p.1.toNat 4 ++ natBytes p.2.toNat 4))

/-- Section ZACC. -/
def zaccSection (c : TCtx) : List Byte :=
  (List.range 4).flatMap (fun n =>
    let z := (aget c.zs n).getD .reset
    dblBytes [nd ((match z.tag with | .empty => 0 | .l6 => 1 | .bf16 => 2) + (z.m - 1) * 256 + (z.n - 1) * 65536)] ++
    (List.range 16384).flatMap (fun i => natBytes ((aget z.cells i).getD 0).toNat 5))

/-- CSPEC of a record in an image: the publish flag of XBCST stands in the place of MODE, which its CSPEC has zero; a feed's
queue and an XTADD's counter stand in the place of CTR (DEDUCED, log 28). -/
def XRec.imageSpec (r : XRec) : Nat :=
  r.cspec.toNat % 8192 + (if r.kind = kBCST && r.cspec.getLsbD 63 then 32 else 0)

/-- OWED of a record (R205): an XTADD owes its amount, a feed nothing, and a record that a destination has refused nothing
(R332). -/
def XRec.owed (r : XRec) : Dbl :=
  if r.kind = kXTADD then r.op 0
  else if r.kind = kFEED || r.failed then 0
  else if r.mode && r.kind ≠ kBCST then nd (64 * (r.units - r.next))
  else 1

/-- Section COPY: the records of the task. -/
def copySection (c : TCtx) : List Byte :=
  let rs := c.xrecs.filter (·.own)
  let rec_ (r : XRec) : List Dbl :=
    [nd (r.kind % 16 + r.imageSpec * 65536), r.iaddr.setWidth 64, r.lba, r.srcAddr r.next,
     if r.kind = kBCST then nd (r.destOf r.next) else r.dstAddr r.next, nd r.left, r.owed,
     nd (r.bfS.toNat + r.bfD.toNat * 2 ^ 32)] ++ (List.range 8).map (fun i => r.ops.getD i 0)
  dblBytes (counted 8 c.xstack.reverse ++ [nd rs.length] ++ rs.flatMap rec_)

/-- Section COUNTERS. -/
def countersSection (c : TCtx) : List Byte :=
  dblBytes ((List.range 32).map (fun n => c.ctr n) ++ [c.fails.setWidth 64])

/-- Section TASK; without a task it is zero. -/
def taskSection (c : TCtx) (cycles : Nat) (hold : Bool) (node : BitVec 18) : List Byte :=
  match c.task with
  | none => dblBytes (List.replicate 11 0)
  | some k => dblBytes (
      [(tagOf k.lb).setWidth 64, nd cycles, bit c.wdraw 64 ||| (bit hold 64 <<< 1) ||| (node.setWidth 64 <<< 32)] ++
      recDoubles k.lb)

/-- A section: its header double and its body. -/
def sectionBytes (tag : Nat) (body : List Byte) : List Byte :=
  dblBytes [nd (tag + 2 ^ 16 + body.length * 2 ^ 32 + 2 ^ 63)] ++ body

/-- The sections of an image in ascending order of tag. -/
def imageBody (c : TCtx) (whole : Bool) (cycles : Nat) (hold : Bool) (node : BitVec 18) : List Byte :=
  sectionBytes 1 (csrSection c) ++ sectionBytes 2 (walkSection c) ++ sectionBytes 3 (cqSection c) ++
  sectionBytes 4 (vregSection c) ++ sectionBytes 5 (pendSection c) ++ sectionBytes 6 (matrixSection c) ++
  sectionBytes 7 (zaccSection c) ++ sectionBytes 8 (copySection c) ++ sectionBytes 9 (memBytes c.scratch 0 0x200000) ++
  sectionBytes 10 (memBytes c.side 0 65536) ++ sectionBytes 11 (countersSection c) ++
  sectionBytes 12 (taskSection c cycles hold node) ++
  (if whole then sectionBytes 13 (dblBytes ((List.range 4).map (fun n => gslotVal (c.gslot n)))) else [])

/-- ORIGIN (R353): an arrival stands in a slot, or a GSYNC has arrived. -/
def TCtx.origin (c : TCtx) : Bool := c.gsync.isSome || c.gslots.any (fun e => e.2.arr || e.2.held || e.2.synced)

/-- The header fields of a save made now (R354). -/
def State.headNow (s : State) (t : PTile) (c : Ctx) (role : Nat) : ImageHead :=
  ⟨s.fwver, nd (role * 2 ^ 24 + c.toNat * 2 ^ 16 + s.logical c t * 2 ^ 8 + t.toNat), s.ptime, s.node⟩

/-- A save image under the header fields of its save (R354). -/
def imageWith (h : ImageHead) (q : TCtx) (whole hold : Bool) (cycles : Nat) : List Byte :=
  let body := imageBody q whole cycles hold h.node
  dblBytes [
    nd (0x4B39494D + 2 ^ 32 + (if whole then 2 ^ 48 else 0) + (if q.origin && q.task.isSome then 2 ^ 49 else 0)),
    h.fw, h.place,
    (q.task.map (·.lba)).getD 0, nd (64 + body.length), nd (if whole then 13 else 12), h.time, crc64 body] ++ body

/-- A save image made now (R354): of a task, or with `whole` of a tile's context state. -/
def State.imageBytes (s : State) (t : PTile) (c : Ctx) (q : TCtx) (whole hold : Bool) (cycles role : Nat) : List Byte :=
  imageWith (s.headNow t c role) q whole hold cycles

/-- Write an image line by line at its home, eagerly, with dirty state set (R354, R398); a line that faults ends it
(R375). -/
def State.writeImage (s : State) (d : Bool) (c : Ctx) : Nat → Nat → List Byte → State × Option Cause
  | 0, _, _ => (s, none)
  | n + 1, va, bs =>
    if bs.isEmpty then (s, none) else
    match s.translate d none c va accW (nd va) with
    | .error k => (s.touchAs d none c accW k, some k)
    | .ok (s, pa) => (s.homeWrite pa (bs.take 64)).writeImage d c n (va + 64) (bs.drop 64)

/-- Where the image of the task in a Thicket slot lies (R375). -/
def State.imageVa (s : State) (c : Ctx) (d : Bool) (n : Nat) : Nat :=
  ((s.ctx c).imgbase.toNat + ((if d then 2048 else 0) + n) * 0x300000) % 2 ^ 64

/-! ### After the stop (R308, R350, R351) -/

/-- No task runs on the tile any more: every pending request is met (R350), and a pending role change is made. -/
def State.afterStop (s : State) (t : PTile) : State :=
  (s.modTile t (fun x => { x with reqs := [], stop := match x.stop with | .abatal _ => .none | z => z })).flipRole t

/-- A withdrawn task that is saved is LATE at once (R351): its image and its records go, and its vector writes land
(R129). -/
def State.lateStop (s : State) (t : PTile) (n : Nat) : State :=
  let c := liveCtx (s.tile t)
  let s := (s.tc t).held.foldl (fun s e => s.dropHolder c e) s
  let s := s.modTc t (fun q => { q.landAll.dropTask with task := q.task })
  (s.complete (dieOf t) n).afterStop t

/-- An image write that faulted (R375): the tile stays stopped, and a record with cause PAGE goes to the M trap ring. The
trap registers are not written, so a resume only lets the engines go on (DEDUCED, log 28). -/
def State.imageFault (s : State) (t : PTile) (k : Cause) : State :=
  let r := trapRecord s t .c ⟨cPAGE, k.tval⟩ (s.tc t).c.pc
  (s.modTile t (fun x => { x with stop := .abatal true, trapSeq := x.trapSeq + 1 })).postTrap t true r

/-- Tile-cycles consumed by the task on a tile. -/
def State.taskCycles (s : State) (t : PTile) (e : TSlot) : Nat := e.cycles + (s.tile t).cycles

/-- The save of a stopped task to memory (R351, 4 and 5; R316; the progress count restarts, log 45): the image takes a further holder of the ADOPT handle where
one can be taken (R315); the task is READY with its image, and the tile is free. A scratchpad with an uncorrectable line raises
MCHECK (R387). -/
def State.saveTask (s : State) (t : PTile) : State :=
  let q := s.tc t
  let c := liveCtx (s.tile t)
  let d := dieOf t
  match q.task with
  | none => s
  | some k =>
    let n := k.slot.toNat
    match s.slot d n with
    | none => s
    | some e =>
      if e.wdraw then s.lateStop t n else
      match (s.tile t).spoiled with
      | l :: _ => s.machineCheck t (nd (0x00FF00000000 + 64 * l))
      | [] =>
      let w := s.wvt c q.adIdx.toNat
      let hold : Bool := q.adVer ≠ 0 && w.version = q.adVer && w.st ≠ .free && w.holders < 65535
      let cyc := s.taskCycles t e
      let va := s.imageVa c d n
      let bs := s.imageBytes t c q false hold cyc (s.roleOf t)
      match s.writeImage d c (bs.length / 64 + 1) va bs with
      | (s, some f) => s.imageFault t f
      | (s, none) =>
        let s := if hold then s.modWvt c q.adIdx.toNat (fun w => { w with holders := w.holders + 1 }) else s
        let ids := (q.xrecs.filter (·.own)).map (s.fabricNum t)
        let im : Image := .mem (nd va) (if q.origin then some t else none)
          (if hold then some (q.adIdx.toNat, q.adVer) else none) q.held
        let s := s.modSlot d n (fun e => { e with
          st := .ready, image := some im, tile := none, ran := true, cycles := cyc, readyCk := 0, refused := false, fabric := ids })
        let s := s.modTc t (fun q =>
          { q.dropTask with gslots := q.gslots.map (fun (g : Nat × GSlot) => (g.1, { g.2 with synced := false })) })
        (s.freeTile t e.age).afterStop t

/-- YIELD (R266, R351): with a request pending it saves the task, which resumes after the YIELD; it waits for the fabric
units on their way (R352). ILLEGAL while a handler runs (R347). -/
def execYield (s : State) : Host.Outcome State Fault Refusal :=
  let t := s.cur
  if (s.tc t).inh then s.finish .c 1 (illegalE .yield)
  else if (s.tile t).reqs.isEmpty then s.finish .c 1 (.ok s)
  else match (s.advance t .c 1 true).stopForSave t with
    | none => .next (s.pause t .c)
    | some s => .next (s.saveTask t)

/-- Whether a tile's deadline has been reached and its task can be saved (R348, R350): a tile stopped for Abatal takes part
in no deadline, and a task that has exited only stops. A SLICE request is met by the exchange of its boundary (R359), and
here only where the boundary brings the tile none. -/
def State.saveDue (s : State) (t : PTile) : Bool :=
  let x := s.tile t
  (x.reqs.any (fun r => r.left = 0 && (r.cause ≠ 1 || (!x.due && x.sreq.isNone)))) && s.taskRuns t && x.stop = .none && s.clocked t

/-- FORCED_SAVE (R350, R351). -/
def execForcedSave (t : PTile) (s : State) : Host.Outcome State Fault Refusal :=
  if !s.saveDue t then .next s
  else match s.stopForSave t with
    | none => .next s
    | some s => .next (s.saveTask t)

/-! ### Reading an image back (R353, R357, R398) -/

/-- Double i of bytes. -/
def dblAt (bs : List Byte) (i : Nat) : Dbl := ofBytes ((bs.drop (8 * i)).take 8)
/-- Bits of a double as a natural number. -/
def fld (v : Dbl) (lo n : Nat) : Nat := (v.extractLsb' lo n).toNat
/-- A count and its entries from double i of bytes, at most `n`. -/
def countedAt (bs : List Byte) (i n : Nat) : List Dbl :=
  (List.range (min n (dblAt bs i).toNat)).map (fun k => dblAt bs (i + 1 + k))
/-- The first `n` pieces of `k` bytes. -/
def chunks (k : Nat) : Nat → List Byte → List (List Byte)
  | 0, _ => []
  | n + 1, bs => bs.take k :: chunks k n (bs.drop k)
/-- A register's 512 lanes. -/
def lanesAt (bs : List Byte) (off : Nat) : List Lane :=
  (chunks 4 512 (bs.drop off)).map (fun b => BitVec.ofNat 32 (bytesNat b))

/-- A section as read. -/
structure Section_ where
  tag : Nat
  version : Nat
  mand : Bool
  body : List Byte
  deriving DecidableEq, Repr

/-- The sections of an image, `n` of them. -/
def readSections : Nat → List Byte → List Section_
  | 0, _ => []
  | n + 1, bs =>
    let h := dblAt bs 0
    let len := fld h 32 31
    ⟨fld h 0 16, fld h 16 16, h.getLsbD 63, (bs.drop 8).take len⟩ :: readSections n (bs.drop (8 + len))

/-- The body of a section; a section whose version is not known is skipped (R357). -/
def bodyOf (ss : List Section_) (tag : Nat) : List Byte :=
  match ss.find? (fun x => x.tag = tag && x.version ≤ 1) with
  | some x => x.body
  | none => []

/-- Whether a reader accepts an image (R357): magic, CRC-64, layout version, and no mandatory section that it does not
know. -/
def imageOk (bs : List Byte) : Bool :=
  let h := dblAt bs 0
  fld h 0 32 = 0x4B39494D && fld h 32 16 ≤ 1 && crc64 (bs.drop 64) = dblAt bs 7 &&
  (readSections (fld (dblAt bs 5) 0 16) (bs.drop 64)).all (fun x => !x.mand || (1 ≤ x.tag && x.tag ≤ 13 && x.version ≤ 1))

/-- Set a CSR from an image; ADOPT is set apart. -/
def TCtx.imageCsr (c : TCtx) (n : Nat) (v : Dbl) : TCtx :=
  if n = 0x000 then { c with inh := v.getLsbD 0, dbl := v.getLsbD 1 }
  else if n = 0x003 then { c with teng := v.setWidth 2 }
  else c.setCsr n v

/-- The number under which a record of an image goes on: its first unit that has not landed (R205, R352), from the next
source or destination address or the remaining length. -/
def nextUnit (kind units : Nat) (ops : List Dbl) (src dst : Dbl) (left : Nat) : Nat :=
  let op (i : Nat) : Dbl := ops.getD i 0
  let per := rowLen (op 1) / 64
  min units (match kind with
    | 0 => (src - op 2).toNat / 64
    | 1 => units - left / 128
    | 2 =>
      let row := geomRows (op 1) - left
      row * per + (dst - (op 5 + nd row * op 3)).toNat / 64
    | 3 => (dst - op 4).toNat / 64
    | 4 => (src - op 3).toNat / 64
    | 5 => (src - op 1).toNat / 2048
    | 6 => (src - op 2).toNat / 64
    | 7 => (dst - op 3).toNat / 64
    | 8 => (dst - op 3).toNat / 96
    | 9 => (src - op 2).toNat / 64
    | 10 => dst.toNat * ((op 1).toNat / 64) + (src - op 2).toNat / 64
    | _ => 0)

/-- The units of a record from its operands. -/
def unitsOf (kind : Nat) (ops : List Dbl) : Nat :=
  let op (i : Nat) : Nat := (ops.getD i 0).toNat
  match kind with
  | 0 => op 1 / 64
  | 1 => op 1 / 128
  | 5 => op 0
  | 6 => op 1 / 64
  | 7 => op 1 / 64
  | 8 => if (kvcSpec (ops.getD 1 0)).2.1 = 0 then 0 else (kvcSpec (ops.getD 1 0)).2.2
  | 9 => op 1 / 64
  | 10 => op 6 * (op 1 / 64)
  | 11 => 0
  | _ => geomRows (ops.getD 1 0) * (rowLen (ops.getD 1 0) / 64)

/-- The operands that a kind pops. -/
def popsOfKind (kind : Nat) : Nat :=
  match kind with
  | 2 => 6 | 3 => 5 | 4 => 5 | 5 => 2 | 8 => 5 | 9 => 5 | 10 => 7 | 11 => 2 | _ => 4

/-- A copy record read from 128 bytes of section COPY, re-issued under a new number (R352). -/
def recordAt (bs : List Byte) (num age fmb : Nat) : XRec :=
  let d := dblAt bs
  let kind := fld (d 0) 0 4
  let ops := (List.range (popsOfKind kind)).map (fun i => d (8 + i))
  let spec := fld (d 0) 16 13
  let cspec := if kind = kBCST then nd (spec / 64 * 64 + spec % 32) ||| (bit (spec / 32 % 2 = 1) 64 <<< 63) else nd spec
  let units := unitsOf kind ops
  { num := num, kind := kind, cspec := cspec, ops := ops, bfS := (d 7).extractLsb' 0 25, bfD := (d 7).extractLsb' 32 25
    iaddr := (d 1).extractLsb' 0 48, lba := d 2, fmb := fmb, own := true, age := age
    units := units, readN := nextUnit kind units ops (d 3) (d 4) (d 5).toNat, flight := [], idx := none, fault := none
    failed := (kind = kREDV || kind = kBCST) && d 6 = 0 }

/-- A matrix record read from 64 bytes of section MATRIX. -/
def mrecAt (bs : List Byte) (held : Bool) : MRec :=
  let d := dblAt bs
  let op := fld (d 0) 0 6
  let pops := if op = opMMA || op = opMMAS then 4 else if op = opMZERO then 0 else 1
  { op := op, flags := (d 0).extractLsb' 6 6, addr := (d 1).extractLsb' 0 48, ops := (List.range pops).map (fun i => d (2 + i))
    kstep := fld (d 6) 0 32, drains := fld (d 6) 32 16, holder := (d 0).getLsbD 12
    started := held || 0 < fld (d 6) 0 32, pins := [], ask := none, fault := none }

/-- The walk state from section WALK. While a handler runs, a GSYNC that had arrived is the one that the trap has stopped, at the
address where the control engine restarts (log 28). -/
def TCtx.readWalk (c : TCtx) (bs : List Byte) : TCtx :=
  let d := dblAt bs
  let pc (v : Dbl) : Pc := v.extractLsb' 0 48
  let eng (i : Nat) (walking : Bool) (oq : List Dbl) : Engine :=
    { pc := pc (d i), walking := walking, waiting := false, meet := .none, fetched := [], count := fld (d 4) (16 * i) 16
      oq := oq.map pc, stack := ((countedAt bs (58 + 9 * i) 8).map pc).reverse
      mark := c.seq, clearing := none, exit := none, await := none, parms := [], span := 0 }
  let arrived := (List.range 4).filter (fun n => (d 5).getLsbD (24 + n))
  { c with
    c := eng 0 true []
    v := eng 1 ((d 5).getLsbD 2) (countedAt bs 7 16)
    m := eng 2 ((d 5).getLsbD 1) (countedAt bs 24 16)
    x := eng 3 ((d 5).getLsbD 0) (countedAt bs 41 16)
    win := fld (d 5) 8 16
    gslots := if c.inh then c.gslots else
      arrived.foldl (fun g n => aset g n { (aget g n).getD .reset with synced := true }) c.gslots
    gsync := if c.inh then arrived.head?.map (fun n => (n, if c.teng = 0 then c.tepc else c.tcpc)) else none
    tick := (d 6).toNat
    lcs := (List.range 4).map (fun n => (n, d (94 + n)))
    sp := (d 98).setWidth 21 }

/-- The queues from section CQ. -/
def TCtx.readCq (c : TCtx) (bs : List Byte) : TCtx :=
  let cond (i : Nat) : List CEntry := (countedAt bs i 8).map (fun v => ⟨v.getLsbD 0, v.getLsbD 1⟩)
  { c with
    qs := (List.range 16).map (fun n => (n, (countedAt bs (8 * n) 4).map Slot.filled))
    cqc := cond 128
    cqv := cond 137 }

/-- The vector registers from section VREG, and the pending writes from section PEND. -/
def TCtx.readVreg (c : TCtx) (bs pend : List Byte) : TCtx :=
  let n := (dblAt pend 0).toNat
  { c with
    vregs := (List.range 48).map (fun n => (n, lanesAt bs (2048 * n)))
    masks := (List.range 7).map (fun n => (n + 1, BitVec.ofNat 512 (bytesNat ((bs.drop (98304 + 64 * n)).take 64))))
    vas := (List.range 8).map (fun n => (n, dblAt (bs.drop 98752) n))
    feed := (List.range 4).map (fun n =>
      let b := (bs.drop (98816 + 8200 * n)).take 8200
      (n, (List.range (min 4 (dblAt b 0).toNat)).map (fun i => lanesAt b (8 + 2048 * i))))
    pending := (List.range (min n 32)).map (fun i =>
      let b := (pend.drop (8 + 2120 * i)).take 2120
      let h := dblAt b 0
      ⟨fld h 0 6, BitVec.ofNat 512 (bytesNat ((b.drop 8).take 64)), lanesAt b 72, i + c.tick - n, c.tick + fld h 8 5⟩) }

/-- The matrix engine from section MATRIX. -/
def TCtx.readMatrix (c : TCtx) (bs : List Byte) : TCtx :=
  let n := min 4 (dblAt bs 9).toNat
  let b2 := bs.drop (80 + 64 * n)
  let held := min 32 (dblAt b2 0).toNat
  let vecs := (List.range held).map (fun i => lanesAt b2 (8 + 2048 * i))
  let b3 := b2.drop (8 + 2048 * held)
  let cfg := dblAt b3 0
  let k := fld cfg 0 6 + 1
  let rows := fld cfg 8 7 + 1
  let mq := (List.range n).map (fun i => mrecAt ((bs.drop (80 + 64 * i)).take 64) (i = 0 && 0 < held))
  { c with
    mstack := (countedAt bs 0 8).reverse
    mq := mq
    drain := match vecs, mq with
      | [], _ => none
      | _, [] => none
      | _, r :: _ => some ⟨r.zspec, false, 4 * held, 128,
          vecs.flatMap (fun v => (List.range 4).map (fun i => (v.drop (128 * i)).take 128)), 0⟩
    late := !vecs.isEmpty
    heap := ⟨k, rows, cfg.extractLsb' 16 32, cfg.getLsbD 6, (List.range rows).map (fun i =>
      let b := (b3.drop (8 + (8 + 8 * k) * i)).take (8 + 8 * k)
      (List.range (min k (fld (dblAt b 0) 0 7))).map (fun r =>
        ((dblAt b (1 + r)).extractLsb' 0 32, (dblAt b (1 + r)).extractLsb' 32 32)))⟩ }

/-- The accumulators from section ZACC. -/
def readZ (bs : List Byte) (n : Nat) : ZTile :=
  let b := (bs.drop (81928 * n)).take 81928
  let h := dblAt b 0
  let cells := (chunks 5 16384 (b.drop 8)).zipIdx.filterMap (fun (p : List Byte × Nat) =>
    let v := BitVec.ofNat 40 (bytesNat p.1)
    if v = 0 then none else some (p.2, v))
  ⟨match fld h 0 2 with | 1 => .l6 | 2 => .bf16 | _ => .empty, fld h 8 8 + 1, fld h 16 8 + 1, cells⟩

/-- A memory from bytes, in canonical form. -/
def memOf (bs : List Byte) : Memory := bs.zipIdx.filterMap (fun p => if p.1 = 0 then none else some (p.2, p.1))

/-- A tile context from an image's sections (R353, R398); ADOPT, the task and its WDRAW are set apart. The records of tasks
that have exited stay. -/
def TCtx.readImage (c : TCtx) (ss : List Section_) (age fmb : Nat) : TCtx :=
  let csr := bodyOf ss 1
  let c := (List.range (csr.length / 16)).foldl (fun c i => c.imageCsr (dblAt csr (2 * i)).toNat (dblAt csr (2 * i + 1))) c
  let c := ((c.readWalk (bodyOf ss 2)).readCq (bodyOf ss 3)).readVreg (bodyOf ss 4) (bodyOf ss 5)
  let c := c.readMatrix (bodyOf ss 6)
  let cp := bodyOf ss 8
  let n := min 32 (dblAt cp 9).toNat
  let ct := bodyOf ss 11
  { c with
    zs := (List.range 4).map (fun n => (n, readZ (bodyOf ss 7) n))
    xstack := (countedAt cp 0 8).reverse
    xrecs := c.xrecs.filter (fun r => !r.own) ++
      (List.range n).map (fun i => recordAt ((cp.drop (80 + 128 * i)).take 128) (c.xnum + i) age fmb)
    xnum := c.xnum + n
    scratch := memOf (bodyOf ss 9)
    side := memOf (bodyOf ss 10)
    ts := (List.range 32).map (fun n => (n, dblAt ct n))
    fails := (dblAt ct 32).setWidth 32
    fills := [], vloads := [], vstores := []
    recStop := false }

/-- Whether a saved handler was entered for a running record, whose instruction its return does not replay (DEDUCED,
log 28): the image holds a record of the trapping engine at TEPC, and the cause is PAGE or PROT. -/
def TCtx.fromRecord (c : TCtx) : Bool :=
  c.inh && (c.tcause = cPAGE || c.tcause = cPROT) &&
  ((c.teng = 2#2 && c.mq.any (fun r => r.addr = c.tepc)) || (c.teng = 3#2 && c.xrecs.any (fun r => r.own && r.iaddr = c.tepc)))

/-- Started records that read a version ask again for the window that they had (log 28). -/
def State.askAgain (s : State) (t : PTile) : State :=
  let s := s.modTc t (fun q => { q with mq := q.mq.map (fun r => { r with pins := [] }) })
  (List.range (s.tc t).mq.length).foldl (fun s i =>
    match (s.tc t).mq[i]? with
    | some r => if r.started && r.isMma && !r.stepsDone then s.askWindow t i (r.kstep / r.shape.blk) else s
    | none => s) s

/-- The matrix records of a resumed image keep the holders that this package counts; from another package's image each takes
one here, or goes on without (DEDUCED, log 28). -/
def State.rehold (s : State) (t : PTile) (here : Bool) : State :=
  if here then s else
  let c := liveCtx (s.tile t)
  (List.range (s.tc t).mq.length).foldl (fun s i =>
    match (s.tc t).mq[i]? with
    | none => s
    | some r =>
      if !r.holder then s else
      let e := verIdx (r.ops.getD 1 0)
      if (s.wvt c e).st ≠ .free && (s.wvt c e).holders < 65535 then s.modWvt c e (fun w => { w with holders := w.holders + 1 })
      else s.modTc t (fun q => q.modRec i (fun r => { r with holder := false }))) s

/-- ADOPT at a resumption (R316): the image's handle and POLICY as one request; a holder that the image counts here passes
on, else one is taken here, and a handle that is stale here leaves VERSION 0. The old handle's holder is dropped. -/
def State.adoptImage (s : State) (t : PTile) (v : Dbl) (held : Bool) : State :=
  let c := liveCtx (s.tile t)
  let ver : BitVec 32 := v.extractLsb' 32 32
  let idx : BitVec 6 := v.extractLsb' 0 6
  let old := s.tc t
  let w := s.wvt c idx.toNat
  let live : Bool := ver ≠ 0 && (w.st = .published || w.st = .retiring) && w.version = ver
  let pass := live && held
  let takes := live && !held && w.holders < 65535
  let s := if takes then s.modWvt c idx.toNat (fun w => { w with holders := w.holders + 1 }) else s
  let s := if old.adVer = 0 then s else s.dropHolder c old.adIdx.toNat
  s.modTc t (fun q => { q with
    adVer := if pass || takes then ver else 0, adIdx := idx, adPol := v.extractLsb' 6 2, adChg := v.getLsbD 9 })

/-- `n` lines from an address, read through a context's tables; none where a read faults. -/
def State.readLines (s : State) (d : Bool) (c : Ctx) : Nat → Nat → State × Option (List Byte)
  | 0, _ => (s, some [])
  | n + 1, a =>
    match s.translate d none c a accR (nd a) with
    | .error k => (s.touchAs d none c accR k, none)
    | .ok (s, pa) =>
      let s := s.unitReads c pa (nd a)
      let line := s.physBytes d pa 64
      match s.readLines d c n (a + 64) with
      | (s, none) => (s, none)
      | (s, some bs) => (s, some (line ++ bs))

/-- The bytes of the image at an address; none where a read faults or the length is not that of an image. -/
def State.readImageAt (s : State) (d : Bool) (c : Ctx) (va : Nat) : State × Option (List Byte) :=
  match s.readLines d c 1 va with
  | (s, none) => (s, none)
  | (s, some h) =>
    let len := (dblAt h 4).toNat
    if len < 64 || 0x300000 < len then (s, none) else
    match s.readLines d c ((len + 63) / 64) va with
    | (s, none) => (s, none)
    | (s, some bs) => (s, some (bs.take len))

/-- A refused resumption (R357): the task stays READY, and the context fault queue takes a report of which the spec gives
neither kind nor cause. When the Thicket tries again is free (DESIGN CHOICE, log 27). -/
def State.refuseResume (s : State) (d : Bool) (n : Nat) (e : TSlot) (va : Dbl) : State :=
  let k := Config.freeReport va
  (s.modSlot d n (fun e => { e with refused := true })).report e.ctx 0 ⟨k.1, 0, k.2, e.lba, 0, 0, 0, 0, 0, 0⟩

/-- The records re-issued from an image keep the numbers under which their units leave, where this package has saved them (R330,
R333); `n` is the number of the first. -/
def TCtx.keepFabric (c : TCtx) (n : Nat) (ids : List Nat) : TCtx :=
  { c with fabric := ids.zipIdx.foldl (fun f p => if c.xrecs.any (fun r => r.num = n + p.2 && r.fabric) then aset f (n + p.2) p.1
                                                else f) c.fabric }

/-- The dispatch of a task with an image in memory to a tile (R316, R341, R353). -/
def State.resumeImage (s : State) (t : PTile) (n : Nat) (e : TSlot) (va : Dbl) : State :=
  let d := dieOf t
  match s.readImageAt d e.ctx va.toNat with
  | (s, none) => s.refuseResume d n e va
  | (s, some bs) =>
    if !imageOk bs then s.refuseResume d n e va else
    let ss := readSections (fld (dblAt bs 5) 0 16) (bs.drop 64)
    let ts := dblAt (bodyOf ss 12) 2
    let here : Bool := ts.extractLsb' 32 18 = s.node
    let s := (s.dispatchAcquire t e).modSlot d n (fun e => { e with st := .running, tile := some t, image := none, ran := true, refused := false, fabric := [] })
    let s := s.modTc t (fun c =>
      let c := { (c.readImage ss e.age (fmbOf e.lb)).keepFabric c.xnum e.fabric with task := some ⟨BitVec.ofNat 11 n, e.lb, e.lba⟩, resumed := true, wdraw := false }
      { c with recStop := c.fromRecord })
    let csr := bodyOf ss 1
    let adopt := ((List.range (csr.length / 16)).find? (fun i => dblAt csr (2 * i) = 0x010)).map (fun i => dblAt csr (2 * i + 1))
    let s := s.adoptImage t (adopt.getD 0) (here && ts.getLsbD 1)
    let s := (s.rehold t here).askAgain t
    s.modTile t (fun x => { x with cycles := 0, prog := 0 })

end Sys2Proof.Machine
end

