-- ==== Sys2Proof/Machine/Events.lean ====
section
/-! DEFINITION. Events of the tiles, the Thicket, the mailboxes, the Sett and the fabric: dispatch and completion (R94,
R245), adds in flight (R222, R223), arrivals (R254–R256), STALL (R396), exchanges and gang slices (R358, R359, R383),
units that arrive from other packages (R330–R333, R386). An event whose condition does not hold changes nothing (log 4). -/

namespace Sys2Proof.Machine

/-! ### Dispatch and completion -/

/-- Whether a task can complete (R94, R248): it has exited, the clocks of its tile run (R385), and none of its copy records reaches a
declared write range; a record that the task itself has handed to the Spoor goes before, where the Spoor can append now (R337; DEDUCED, log 54). -/
def State.completable (s : State) (t : PTile) (e : TSlot) : Bool :=
  e.exited && !s.frozen t && !(s.tc t).xrecs.any (fun r => r.own && r.delays e.lb) &&
  !(s.spoorCan (dieOf t) e.ctx && (s.log (dieOf t) e.ctx).gone < e.handed)

/-- Whether an event comes in its place after what its unit has handled in this ck. -/
def inPlace (did : List (Nat × Nat × Nat)) (m : Nat × Nat × Nat) : Bool :=
  did.all (fun p => p.1 ≠ m.1 || p.2.1 < m.2.1 || (p.2.1 = m.2.1 && p.2.2 ≤ m.2.2))

/-- The tasks of a die whose completion is due (R94, R246), each with its slot and tile: those of this ck, or `late` those that come
too late for it, after a younger task's completion or failure or after a dispatch, and are of the next ck (DEDUCED, log 27). -/
def State.dues (s : State) (d late : Bool) : List (Nat × PTile × TSlot) :=
  (s.die d).slots.filterMap (fun e => (e.2.tile.filter (fun t => dieOf t = d && s.completable t e.2 &&
    inPlace s.did (1024 + d.toNat, 0, e.2.age) ≠ late)).map (fun t => (e.1, t, e.2)))

/-- Whether a completion on a die is due, which the Thicket handles before any dispatch (R246). -/
def State.due (s : State) (d : Bool) : Bool := !(s.dues d false).isEmpty

/-- The tasks that no dispatch of this ck takes: those that the EXIT of a task has admitted whose completion is one of the next ck
(R246, R305; DEDUCED, log 27). -/
def State.lateTasks (s : State) (d : Bool) : List Nat :=
  let ages := (s.dues d true).map (·.2.2.age)
  ((s.die d).slots.filter (fun e => match e.2.src with | .exit a => ages.contains a | _ => false)).map (·.1)

/-- The next dispatch of a die (R245, R246): none while a completion is due or a withdrawal is to come; else the choice of R245,
tasks whose resumption has been refused the last. -/
def State.nextDispatch (s : State) (d : Bool) : Option (PTile × Nat) :=
  if s.due d || !(s.die d).lost.isEmpty then none
  else s.pick d (s.refusedTasks d ++ s.lateTasks d) <|> s.pick d (s.lateTasks d)

/-- The dispatch of a task that has not run (R95, R245). The progress count restarts (DESIGN CHOICE, log 45). -/
def State.startSlot (s : State) (t : PTile) (n : Nat) (e : TSlot) : State :=
  let s := (s.dispatchAcquire t e).modSlot (dieOf t) n (fun e => { e with st := .running, tile := some t, ran := true })
  (s.modTc t (fun c => startTask c n e)).modTile t (fun x => { x with cycles := 0, prog := 0 })

/-- A free tile starts or resumes its task (R245, R353). -/
def State.startOn (s : State) (d : Bool) (t : PTile) (n : Nat) : State :=
  match s.slot d n with
  | none => s
  | some e =>
    match e.image with
    | none => s.startSlot t n e
    | some (.mem va _ _ _) => s.resumeImage t n e va
    | some (.sett _) => s

/-- TASK_DISPATCH (R245, R246, R353): the Thicket of a die makes the withdrawals of the ck, and serves the next free tile; where it
has none to serve, the withdrawals are still to come. -/
def execTaskDispatch (die : Bool) (s : State) : Host.Outcome State Fault Refusal :=
  if s.due die then .next s else
  let w := s.withdrawals die
  match w.nextDispatch die with
  | none => .next s
  | some (t, n) => .next (w.startOn die t n)

/-- TASK_COMPLETION (R94, R95, R246–R252): DONE, or LATE where the task has been withdrawn. -/
def execTaskCompletion (die : Bool) (slot : BitVec 11) (s : State) : Host.Outcome State Fault Refusal :=
  match s.slot die slot.toNat with
  | none => .next s
  | some e =>
    match e.tile with
    | none => .next s
    | some t => if s.completable t e then .next ((s.complete die slot.toNat).afterStop t) else .next s

/-- The oldest task of a die whose completion is due, with its tile. -/
def State.nextDue (s : State) (d : Bool) : Option (Nat × PTile) :=
  ((s.dues d false).foldl (fun (m : Option (Nat × Nat × PTile)) e =>
    if m.all (fun q => e.2.2.age < q.1) then some (e.2.2.age, e.1, e.2.1) else m) none).map (·.2)

/-- The completions that are due on a die, the oldest first (R246); `n` at most. -/
def State.completeAll (s : State) (d : Bool) : Nat → State
  | 0 => s
  | n + 1 =>
    match s.nextDue d with
    | none => s
    | some (k, t) => ((s.complete d k).afterStop t).completeAll d n

/-- Every dispatch that a die can make in this ck (R245); `n` at most. Each serves a free tile, or is a resumption refused. -/
def State.dispatchAll (s : State) (d : Bool) : Nat → State
  | 0 => s
  | n + 1 =>
    match s.pick d (s.refusedTasks d ++ s.lateTasks d) with
    | none => s
    | some (t, k) => (s.startOn d t k).dispatchAll d n

/-! ### Adds in flight (R222–R224) -/

/-- An add, or the news that it is lost, reaches a counter. -/
def TCtx.applyAdd (c : TCtx) (a : AddMsg) : TCtx :=
  if a.fail then c.setFail a.ctr.toNat else c.addCtr a.ctr.toNat a.amount

/-- Whether a tile exchanges with its Sett. -/
def State.exchanging (s : State) (t : PTile) : Bool :=
  match (s.tile t).stop with
  | .exchanging _ => true
  | _ => false

/-- TIMELINE_ADD (R222, R223): the i-th add in flight reaches its context on its tile, live or in the Sett; one for a context
whose image lies in memory goes to the die's buffer of 1,024, and waits where that is full; one for a tile that exchanges is
held (R358), and State.turn holds one for a context that is on a tile in a thermal stop (R385). The news that an add is lost restarts
no progress count (R396). -/
def execTimelineAdd (i : Nat) (s : State) : Host.Outcome State Fault Refusal :=
  match s.flying[i]? with
  | none => .next s
  | some a =>
    if s.exchanging a.t then .next s else
    let s' := { s with flying := s.flying.eraseIdx i }
    match s'.onCtx a.t a.ctx (fun c => c.applyAdd a) with
    | some s' => .next (if !a.fail && (s.tile a.t).live = some a.ctx then s'.ctrHeard a.t a.ctr.toNat else s')
    | none =>
      let d := dieOf a.t
      if 1024 ≤ (s.die d).adds.length then .next s
      else .next (s'.modDie d (fun x => { x with adds := x.adds ++ [a] }))

/-- The adds that a die holds for a context on a tile are applied, now that its image is resident (R222). -/
def State.applyHeld (s : State) (t : PTile) (c : Ctx) : State :=
  let d := dieOf t
  let mine (a : AddMsg) : Bool := a.t = t && a.ctx = c
  let s' := ((s.die d).adds.filter mine).foldl (fun s a => (s.onCtx t c (fun q => q.applyAdd a)).getD s) s
  s'.modDie d (fun x => { x with adds := x.adds.filter (fun a => !mine a) })

/-! ### Mailboxes (R254–R256) -/

/-- The sender of an arrival, whose arrivals keep their order (R255). -/
def Arrival.sender : Arrival → Nat × Nat
  | .benrek _ => (0, 0)
  | .xtadd t _ => (1, t)
  | .redv node _ => (2, node.toNat)
  | .report _ => (3, 0)

/-- What an arrival adds to MCTR (R255, R330). -/
def Arrival.amount : Arrival → Dbl
  | .benrek _ => 1
  | .xtadd _ v => v
  | .redv _ _ => 1
  | .report _ => 0

/-- What an arrival writes into its slot, with MCTR before and after its add (R235, R255, R330): an XTADD's slot holds it after the
add, a reduction's before it. -/
def Arrival.slotRec (a : Arrival) (before mctr : Dbl) : Rec :=
  match a with
  | .benrek p => p
  | .xtadd t v => ⟨0x01 + BitVec.ofNat 64 (t * 256), v, mctr, 0, 0, 0, 0, 0⟩
  | .redv node len => ⟨0x02 + (node.setWidth 64 <<< 8), len, before, 0, 0, 0, 0, 0⟩
  | .report r => r

/-- Whether a mailbox takes a new arrival now (R242, R255). -/
def State.mailboxFree (s : State) (d : Bool) (c : Ctx) (m : Nat) : Bool :=
  (s.mbox c m).live < 2 ^ (s.mbox c m).slots.toNat && 256 < s.freeSlots d

/-- The report of an arrival at an unbound mailbox (R255–R258); its engine field is 0 (DESIGN CHOICE, log 27). -/
def State.unboundReport (s : State) (c : Ctx) (m : Nat) : State :=
  let k := Config.freeUnbound m
  s.report c 0 ⟨1, 0, k.1, k.2, 0, 0, 0, 0, 0, 0⟩

/-- An arrival at a mailbox (R255): the slot, MCTR, ARR and the handler instance, on die `d`. A slot or a block whose
translation fails refuses the handler (DESIGN CHOICE, log 29). -/
def State.arrival (s : State) (d : Bool) (c : Ctx) (m : Nat) (a : Arrival) : State :=
  let b := s.mbox c m
  if !b.bound then s.unboundReport c m else
  let mctr := if b.mctr + a.amount < b.mctr then 0xFFFFFFFFFFFFFFFF#64 else b.mctr + a.amount
  let va := b.addr.toNat + 64 * (b.arr.toNat % 2 ^ b.slots.toNat)
  let s := s.modMbox c m (fun b => { b with mctr := mctr, arr := b.arr + 1 })
  let refuse (s : State) : State := s.report c 0 ⟨2, 0, cPROT, b.handler, 0, 0, 0, 0, 0, 0⟩
  match s.translate d none c va accW (nd va) with
  | .error k => refuse (s.touchAs d none c accW k)
  | .ok (s, pa) =>
    let s := s.unitWrite d pa (recBytes (a.slotRec b.mctr mctr))
    match s.translate d none c b.handler.toNat accR b.handler with
    | .error k => refuse (s.touchAs d none c accR k)
    | .ok (s, ha) =>
      let s := s.unitReads c ha b.handler
      let blk : Rec := { recOf (s.physBytes d ha 64) with d2 := nd va }
      if !blockOk blk then refuse s else
      match s.lowestFree d with
      | none => s
      | some n =>
        let s := s.admitTask d c blk b.handler (.mailbox (BitVec.ofNat 6 m) b.arr.toNat) none 0
        let s := s.modSlot d n (fun e => { e with rels := [⟨if d then 64 else 0, true, 3, [lineOf pa]⟩] })
        s.modMbox c m (fun b => { b with live := b.live + 1 })

/-- MAILBOX_ARRIVAL (R255): the i-th arrival from within the package is handled, in its sender's order; the die that takes the
handler is free (log 29). One for a context in its final migration round is held, since nothing writes the context's memory
after the final scan (R389). -/
def execMailboxArrival (i : Nat) (s : State) : Host.Outcome State Fault Refusal :=
  match s.arrivals[i]? with
  | none => .next s
  | some (c, m, a) =>
    let d := Config.freeDie s.fresh
    let before := (s.arrivals.take i).any (fun q => q.1 = c && q.2.1 = m && q.2.2.sender = a.sender)
    if before || (s.ctx c).migrating || ((s.mbox c m.toNat).bound && !s.mailboxFree d c m.toNat) then .next s
    else .next (({ s with arrivals := s.arrivals.eraseIdx i }).arrival d c m.toNat a)

/-- Whether an accepted Benrek write of a mailbox is still held, behind which the next one waits (R255). -/
def State.writeHeld (s : State) (c : Ctx) (m : Nat) : Bool :=
  s.arrivals.any (fun q => q.1 = c && q.2.1.toNat = m && q.2.2.sender = (0, 0))

/-- MAILBOX_WRITE (R256, R389): the checks in their order; an accepted write is an arrival on the die of the port, at once or,
where the mailbox cannot take it now or holds an earlier one, in its turn (R255). One whose context or mailbox byte has a bit
beyond its field is answered as one for an unbound mailbox (DESIGN CHOICE, log 58). -/
def execMailboxWrite (die : Bool) (ctxByte mboxByte : Byte) (seq : BitVec 32) (tag : Dbl) (payload : Rec) (s : State) :
    Host.Outcome State Fault Refusal :=
  let c : Ctx := ctxByte.extractLsb' 0 5
  let m := (mboxByte.extractLsb' 0 6).toNat
  let x := s.ctx c
  let b := s.mbox c m
  let id : Dbl := ctxByte.setWidth 64 ||| (mboxByte.setWidth 64 <<< 8)
  let nack (s : State) (code : Nat) : State := s.send (.nack die code id seq)
  let mac := [ctxByte, mboxByte, 0, 0] ++ natBytes seq.toNat 4 ++ recBytes payload
  let auth : Bool := cmac8 b.key mac = tag && b.lastseq.toNat < seq.toNat
  if x.migrating then .next (nack s 2)
  else if !x.valid || !b.bound || ctxByte.extractLsb' 5 3 ≠ 0#3 || mboxByte.extractLsb' 6 2 ≠ 0#2 then
    .next (nack (if x.valid then s.unboundReport c m else s) 2)
  else if !auth then
    .next (nack (s.modMbox c m (fun b => { b with nacks := if b.nacks = 0xFFFF#16 then b.nacks else b.nacks + 1 })) 1)
  else
    let s := s.modMbox c m (fun b => { b with lastseq := seq })
    if 2 ^ b.slots.toNat ≤ b.live then .next (nack s 4)
    else if s.mailboxFree die c m && !s.writeHeld c m then .next (s.arrival die c m (.benrek payload))
    else .next { s with arrivals := s.arrivals ++ [(c, BitVec.ofNat 6 m, .benrek payload)] }

/-! ### STALL (R344, R396) -/

/-- An engine stands in a wait that counts as a stall, or at a rendezvous that has not completed. -/
def Engine.stands (g : Engine) : Bool := g.waiting || g.meet ≠ .none

/-- Whether the condition of a TWAIT, or of the wait of GWAIT or GSYNC, at which the control engine of a tile waits is met, so that
the wait is over (R225, R233, R237). A status form that waits for room in CQC stands in a stall of its own (R109). -/
def State.waitMet (s : State) (t : PTile) : Bool :=
  let c := s.tc t
  let ended (slot : BitVec 2) : Bool := !(c.gslot slot.toNat).arr && !(c.gslot slot.toNat).held
  match s.awaited t with
  | some (.twait ctr st a _ ka) => (c.statusRoom st).isOk && (c.fails.getLsbD ctr.toNat || (match c.readQ [(a, ka)] with
    | .ok vs => vs.getD 0 0 ≤ c.ctr ctr.toNat
    | .error _ => false))
  | some (.gwait slot st) => (c.statusRoom st).isOk && ended slot
  | some (.gsync slot st) => (c.statusRoom st).isOk && ended slot
  | _ => false

/-- STALL: the progress count of the tile has reached 2^24, and the condition of its wait is still unmet (R225); TENG names the
waiting engine with the lowest ENG. -/
def execStall (t : PTile) (s : State) : Host.Outcome State Fault Refusal :=
  let c := s.tc t
  if (s.tile t).prog < 2 ^ 24 || c.task.isNone || (s.tile t).stop ≠ .none || s.waitMet t then .next s else
  match c.walkers.find? (fun e => (c.eng e).stands) with
  | none => .next s
  | some e => .next (s.takeTrap t e .fault ⟨cSTALL, 0⟩)

/-! ### Pre-emption requests (R350) -/

/-- A request is raised on a tile: it is met at once where no task runs; one whose cause is pending already changes nothing;
its deadline is PDEAD ck away. On a tile that exchanges, no instruction can read PREQ, and the end of the exchange meets what
was raised. -/
def State.raise (s : State) (t : PTile) (cause : Nat) : State :=
  let x := s.tile t
  if x.tc.task.isNone then s.flipRole t
  else if x.reqs.any (fun r => r.cause = cause) then s
  else s.modTile t (fun x => { x with reqs := x.reqs ++ [⟨cause, (s.ctx (liveCtx x)).pdead.toNat⟩] })

/-! ### The slice table (R382, R383) -/

/-- Nanoseconds of a PTIME value. -/
def nsOf (v : Dbl) : Nat := (v.extractLsb' 30 34).toNat * 1000000000 + (v.extractLsb' 0 30).toNat
/-- The slice table entry of an index. -/
def State.sliceAt (s : State) (i : BitVec 32) : Dbl × Dbl × Dbl := (aget s.slices (i.toNat % 64)).getD (0, 0, 0)
/-- Whether an entry is VALID. -/
def sliceValid (e : Dbl × Dbl × Dbl) : Bool := e.1.getLsbD 63

/-! ### Sett exchanges (R358) -/

/-- The stop of the live task for an exchange: its image stays in the outgoing context (R316, R351), and the task is READY
with an image in the Sett; a withdrawn task is LATE. The progress count restarts (DESIGN CHOICE, log 45). -/
def State.parkTask (s : State) (t : PTile) (n : Nat) (e : TSlot) : State :=
  if e.wdraw then s.lateStop t n else
  let cyc := s.taskCycles t e
  let ids := ((s.tc t).xrecs.filter (·.own)).map (s.fabricNum t)
  let s := s.modSlot (dieOf t) n (fun e => { e with
    st := .ready, image := some (.sett t), tile := none, ran := true, cycles := cyc, readyCk := 0, refused := false, fabric := ids })
  (s.modTile t (fun x => { x with lastTask := some e.age, cycles := 0, prog := 0 })).afterStop t

/-- Whether an exchange of a tile may begin (R348, R352, R358, R359, R385): its slice has begun and the SLICE deadline is
reached, or SETTX commands it; no trap record that a full ring keeps the tile holding is left (R373); the records of exited
tasks are complete. An access that another tile has issued to the scratchpad is performed before, so that it does not reach the
incoming context (R77; DESIGN CHOICE, log 41). -/
def State.exchangeReady (s : State) (t : PTile) : Bool :=
  let x := s.tile t
  let cmd : Bool := s.settWait.map (·.1) = some t
  let slice : Bool := x.due && x.reqs.all (fun r => r.cause ≠ 1 || r.left = 0) && x.stop = .none
  let free : Bool := match x.stop with | .none => true | .abatal _ => true | _ => false
  (slice || (cmd && free)) && x.records.isEmpty && s.clocked t && x.tc.xrecs.all (·.own) && (x.tc.task.isNone || s.taskRuns t) &&
    s.tiles.all (fun e => e.1 = t.toNat || !e.2.reaches t)

/-- SETT_EXCHANGE (R358): the live task stops, and the exchange begins. -/
def execSettExchange (t : PTile) (s : State) : Host.Outcome State Fault Refusal :=
  let x := s.tile t
  let begin_ (s : State) : State := s.modTile t (fun y => { y with stop := .exchanging x.due })
  if !s.exchangeReady t then .next s else
  match x.tc.task with
  | none => .next (begin_ s)
  | some k =>
    match s.slot (dieOf t) k.slot.toNat, s.stopForSave t with
    | some e, some s => .next (begin_ (s.parkTask t k.slot.toNat e))
    | _, _ => .next s

/-- The parked task that an exchange has brought back to a tile, with its slot. -/
def State.parked (s : State) (t : PTile) : Option (Nat × TSlot) :=
  (s.tc t).task.bind (fun k =>
    ((s.slot (dieOf t) k.slot.toNat).filter (fun e => e.image = some (.sett t))).map (fun e => (k.slot.toNat, e)))

/-- The task that an exchange has brought back runs on (R341, R353): a dispatch, before which the withdrawals of the ck are made
(R246), its own among them. Where a migration has stopped its context meanwhile, the request of cause ABATAL reaches it now (R389). -/
def State.unpark (s : State) (t : PTile) : State :=
  let d := dieOf t
  if (s.parked t).isNone then s else
  let s := s.withdrawals d
  match s.parked t with
  | none => s
  | some (n, e) =>
    let s := (s.dispatchAcquire t e).modSlot d n (fun e => { e with st := .running, tile := some t, image := none })
    let s := (s.modTc t (fun c => { c with resumed := true, wdraw := false })).askAgain t
    if s.stopping e.ctx then s.raise t 3 else s

/-- The swap of an exchange: the outgoing context's image carries the header fields of this save (R354), the tile is free from
now on (R245), and no request is pending (R350). A slice that has fallen due begins with it where it brings the slice's context
in, whoever began the exchange (R359). The progress count restarts (DESIGN CHOICE, log 45). -/
def State.swap (s : State) (t : PTile) (slice : Bool) : State :=
  let cur := s.sliceAt s.slhead
  s.modTile t (fun x =>
    let slice := slice || (x.due && sliceValid cur && x.sett.map (·.1) = some (cur.1.extractLsb' 0 5))
    let out := x.live.map (fun c => (c, x.tc, none))
    { x with
      live := x.sett.map (·.1)
      tc := (x.sett.map (·.2.1)).getD .reset
      sett := out
      settHead := s.headNow t (liveCtx x) (s.roleOf t)
      reqs := []
      freed := s.ns9
      stop := .none
      due := x.due && !slice
      prog := 0
      cycles := 0
      frameSeq := if slice then x.frameSeq + 1 else x.frameSeq })

/-- SETT_EXCHANGE_COMPLETE (R358): the contexts are swapped, FRAME changes, and a task whose image came back runs on; a
CRC-64 that does not match raises MCHECK and fences the tile. A SETTX command then completes (log 29). State.turn holds the end of
the exchange in a thermal stop (R385). -/
def execSettExchangeComplete (t : PTile) (s : State) : Host.Outcome State Fault Refusal :=
  match (s.tile t).stop with
  | .exchanging slice =>
    if (s.tile t).sett.any (·.2.2.isSome) then
      .next ((s.modTile t (fun x => { x with stop := .none, due := false })).machineCheck t
        (Config.freeTval cMCHECK (t.setWidth 64)))
    else .next (((s.swap t slice).unpark t).endSettx t 0)
  | _ => .next s

/-! ### Gang slices (R359, R382, R383) -/

/-- The end of an entry's slice. -/
def sliceEnd (e : Dbl × Dbl × Dbl) : Nat := nsOf e.2.1 + e.2.2.toNat
/-- Whether an entry stands behind the current one. -/
def State.hasNext (s : State) : Bool := 2 ≤ (s.sltail - s.slhead).toNat
/-- Whether an index stands behind the current one. -/
def State.behind (s : State) (i : BitVec 32) : Bool := s.slhead ≠ i && i - s.slhead < s.sltail - s.slhead
/-- The moment of the next boundary: the later of the current slice's end and the next entry's start (R383). -/
def State.boundary (s : State) : Nat :=
  let cur := s.sliceAt s.slhead
  let next := s.sliceAt (s.slhead + 1)
  max (if sliceValid cur then sliceEnd cur else 0) (if sliceValid next then nsOf next.2.1 else 0)
/-- Whether a context's map names a tile. -/
def State.names (s : State) (c : Ctx) (t : PTile) : Bool := (List.range 128).any (fun n => s.mapTile c n = some t)
/-- The tiles that a slice's context names and on which it does not live. -/
def State.sliceTiles (s : State) (c : Ctx) : List PTile :=
  (((List.range 128).filterMap (fun n => s.mapTile c n)).dedup).filter (fun t => (s.tile t).live ≠ some c)

/-- The next slice and its index (R383): that of the first entry behind the current one which is VALID and will not have passed when
it is reached. The entries before it are skipped. -/
def State.nextSlice (s : State) : Option (BitVec 32 × Dbl × Dbl × Dbl) :=
  let cur := s.sliceAt s.slhead
  let reached := max (s.ns9 / 9) (if sliceValid cur then sliceEnd cur else 0)
  ((List.range (min 64 (s.sltail - s.slhead).toNat - 1)).map (fun k =>
    let i := s.slhead + 1 + BitVec.ofNat 32 k
    (i, s.sliceAt i))).find? (fun p => sliceValid p.2 && reached < sliceEnd p.2)

/-- The moment at which the slice of an entry begins after the current one (R383). -/
def State.beginsAt (s : State) (e : Dbl × Dbl × Dbl) : Nat :=
  let cur := s.sliceAt s.slhead
  max (if sliceValid cur then sliceEnd cur else 0) (nsOf e.2.1)

/-- Whether PREQ is to be raised on a tile for the slice of an entry (R359): PTIME has reached its beginning less PDEAD ck of 0.556 ns,
and the request has not been raised. -/
def State.asksFor (s : State) (i : BitVec 32) (e : Dbl × Dbl × Dbl) (t : PTile) : Bool :=
  let x := s.tile t
  x.sreq ≠ some i && 9 * s.beginsAt e ≤ s.ns9 + 5 * (s.ctx (liveCtx x)).pdead.toNat

/-- The tiles on which PREQ is to be raised now for the next slice, with the index of its entry. -/
def State.toAsk (s : State) : List (BitVec 32 × PTile) :=
  match s.nextSlice with
  | none => []
  | some (i, e) => ((s.sliceTiles (e.1.extractLsb' 0 5)).filter (s.asksFor i e)).map (fun t => (i, t))

/-- PREQ with cause SLICE is raised on each of them. -/
def State.askSlices (s : State) : State :=
  s.toAsk.foldl (fun s p => (s.raise p.2 1).modTile p.2 (fun x => { x with sreq := some p.1 })) s

/-- SLICE_REQUEST (R359, R383): PREQ with cause SLICE is raised on each tile of the next slice, PDEAD ck before it begins; at once
where the entry is written later than that. -/
def execSliceRequest (s : State) : Host.Outcome State Fault Refusal := .next s.askSlices

/-- The requests that have been raised for entries that still stand behind the current one (R359, R383). -/
def keepAsked (keep : BitVec 32 → Bool) (tiles : AMap Tile) : AMap Tile :=
  tiles.map (fun e => (e.1, { e.2 with sreq := e.2.sreq.filter keep }))

/-- Whether the end of the current slice has come, with an entry behind it (R383). -/
def State.boundaryDue (s : State) : Bool := s.hasNext && s.boundary ≤ s.ns9 / 9

/-- SLICE_BOUNDARY (R359, R383): the next entry becomes current, or is skipped where it is not VALID or has passed; the
exchanges of its tiles fall due, each with its request raised before, and on a tile where its context lives already the slice begins
without one (R343). -/
def execSliceBoundary (s : State) : Host.Outcome State Fault Refusal :=
  let i := s.slhead + 1
  let next := s.sliceAt i
  if !s.boundaryDue then .next s
  else if !sliceValid next || sliceEnd next ≤ s.ns9 / 9 then
    .next { s with
      slhead := i, slskip := if s.slskip = 0xFFFFFFFF#32 then s.slskip else s.slskip + 1, tiles := keepAsked (· ≠ i) s.tiles }
  else
    let c : Ctx := next.1.extractLsb' 0 5
    let named := s.sliceTiles c
    let s := s.askSlices
    .next { s with
      slhead := i
      tiles := s.tiles.map (fun e => (e.1, { e.2 with
        sreq := none, due := named.any (fun t => t.toNat = e.1) && e.2.sett.map (·.1) = some c
        frameSeq := if e.2.live = some c && s.names c (BitVec.ofNat 7 e.1) then e.2.frameSeq + 1 else e.2.frameSeq })) }

/-! ### Units from other packages (R330–R333, R386, R387) -/

/-- Where an access of a unit for a context leads, of which `n` bytes lie in one line (R76, R77, R188): the windows are decoded before
translation. A unit has no scratchpad of its own, so that the self window reaches nothing (DESIGN CHOICE, log 62). -/
def State.homeAt (s : State) (d : Bool) (c : Ctx) (acc : Acc) (va n : Nat) : Except Halt (State × Loc) :=
  if isWindow va then
    match s.peerOf c va n with
    | none => trapE cPROT (nd va)
    | some (p, o) => if s.frozen p then .error .hold else (s.peerLoc p o (nd va)).map (fun l => (s, l))
  else match s.translate d none c va acc (nd va) with
    | .ok (s, pa) => .ok (s, .mem pa)
    | .error k => .error (.trap k)

/-- Where a write through a context's tables alone leads (R389). -/
def State.tableAt (s : State) (d : Bool) (c : Ctx) (va _n : Nat) : Except Halt (State × Loc) :=
  if 2 ^ 56 ≤ va then trapE cPROT (nd va) else
  match s.throughTables d none c va accW (nd va) with
  | .ok (s, pa) => .ok (s, .mem pa)
  | .error k => .error (.trap k)

/-- Whether an access starts in a window that it leaves, which R76 refuses. -/
def leavesWindow (va n : Nat) : Bool := isWindow va && 0x200000 < va % 0x200000 + n

/-- Whether a unit's access waits, because it names the scratchpad of a tile that exchanges (R77), or that a thermal stop holds
(R385). -/
def State.homeHeld (s : State) (c : Ctx) (va n : Nat) : Bool :=
  !leavesWindow va n && (pieces (n / 64 + 2) va n).any (fun p =>
    isWindow p.1 && (s.peerOf c p.1 p.2).any (fun q => s.exchanging q.1 || s.frozen q.1))

/-- What the accesses of a unit to `n` bytes have set of the translations, where one of them fails (R186, R395). -/
def State.homeTouch (s : State) (d : Bool) (c : Ctx) (va n : Nat) (acc : Acc) : State :=
  s.touchAll d c acc ((pieces (n / 64 + 2) va n).map (·.1))

/-- Bytes written at the place to which a unit's access leads: at their home, or in a scratchpad. -/
def State.homePut (s : State) (at_ : Loc) (bs : List Byte) : State :=
  match at_ with
  | .mem pa => s.homeWrite pa bs
  | .scr p o => s.modTc p (fun q => { q with scratch := memWrite q.scratch o bs })

/-- Bytes read there, every copy of a line of memory written back first; a line that is bad is reported (R387). -/
def State.homeGet (s : State) (c : Ctx) (va : Nat) (at_ : Loc) (n : Nat) : State × List Byte :=
  match at_ with
  | .mem pa =>
    let s := (s.bothHome (lineOf pa)).unitReads c pa (nd va)
    (s, memBytes s.mem pa n)
  | .scr p o => (s.owesReport ((s.tile p).spoiled.contains (lineOf o)) c (nd va), memBytes (s.tc p).scratch o n)

/-- Write bytes where `place` leads each of their pieces, all of them or none. -/
def State.putPieces (s : State) (place : State → Nat → Nat → Except Halt (State × Loc)) (va : Nat) (bs : List Byte) : Option State :=
  let go := (pieces (bs.length / 64 + 2) va bs.length).foldl
    (fun (q : Option (State × List (Loc × Nat))) p =>
      match q with
      | none => none
      | some (s, ls) => match place s p.1 p.2 with
        | .ok (s, at_) => some (s, ls ++ [(at_, p.2)])
        | .error _ => none) (some (s, []))
  go.map (fun q => (q.2.foldl (fun (w : State × List Byte) p =>
    (w.1.homePut p.1 (w.2.take p.2), w.2.drop p.2)) (q.1, bs)).1)

/-- Write bytes for a unit at their homes, or in the scratchpad that their address names, all of them or none. -/
def State.homeWriteVa (s : State) (d : Bool) (c : Ctx) (va : Nat) (bs : List Byte) : Option State :=
  if leavesWindow va bs.length then none else s.putPieces (fun s => s.homeAt d c accW) va bs

/-- Write bytes at their homes through a context's tables, whatever their address: the units of a migration (R389). -/
def State.tableWriteVa (s : State) (d : Bool) (c : Ctx) (va : Nat) (bs : List Byte) : Option State :=
  s.putPieces (fun s => s.tableAt d c) va bs

/-- Bytes that a unit reads for a context. -/
def State.homeRead (s : State) (d : Bool) (c : Ctx) (va n : Nat) : Option (State × List Byte) :=
  if leavesWindow va n then none else
  (pieces (n / 64 + 2) va n).foldl (fun (q : Option (State × List Byte)) p =>
    match q with
    | none => none
    | some (s, bs) => match s.homeAt d c accR p.1 p.2 with
      | .ok (s, at_) =>
        let r := s.homeGet c p.1 at_ p.2
        some (r.1, bs ++ r.2)
      | .error _ => none) (some (s, []))

/-- The F32 lanes of 64 bytes. -/
def lanesOf16 (bs : List Byte) : List Lane := (List.range 16).map (fun i => BitVec.ofNat 32 (bytesNat ((bs.drop (4 * i)).take 4)))

/-- The reduction of R330: sums rounded to nearest even, subnormals kept. -/
def sumUnit (d u : List Lane) : List Byte :=
  (d.zip u).flatMap (fun p => natBytes (fadd 24 0 false (unpack false p.1) (unpack false p.2)).bits.toNat 4)

/-- XREDV_UNIT (R330, R387): once no tile whose scratchpad it names exchanges (R77), the unit is added into its line, whole,
and acknowledged; the last unit of its record arrives at the mailbox that the record names. -/
def execXredvUnit (u : RedvUnit) (s : State) : Host.Outcome State Fault Refusal :=
  let x := s.ctx u.ctx
  let refuse (s : State) : State := s.send (.refuse u.node u.num u.unit (!u.crcOk))
  if !u.crcOk || !x.valid || x.migrating then .next (refuse s) else
  match s.homeRead false u.ctx u.va.toNat 64 with
  | none => .next (if s.homeHeld u.ctx u.va.toNat 64 then s else refuse (s.homeTouch false u.ctx u.va.toNat 64 accR))
  | some (s', old) =>
    match s'.homeWriteVa false u.ctx u.va.toNat (sumUnit (lanesOf16 old) (lanesOf16 (recBytes u.data))) with
    | none => .next (refuse (s'.homeTouch false u.ctx u.va.toNat 64 accW))
    | some s' =>
      let mine (e : Nat × Nat × Nat) : Bool := e.1 = u.node.toNat && e.2.1 = u.num
      let n := ((s'.redvs.find? mine).map (·.2.2)).getD 0 + 1
      let rest := s'.redvs.filter (fun e => !mine e)
      let all : Bool := u.len.toNat / 64 ≤ n
      let s' := { s' with redvs := if all then rest else rest ++ [(u.node.toNat, u.num, n)] }
      let s' := match all, u.mbox with
        | true, some m => { s' with arrivals := s'.arrivals ++ [(u.ctx, m, Arrival.redv u.node (u.len.setWidth 64))] }
        | _, _ => s'
      .next (s'.send (.ack u.node u.num u.unit))

/-- XBCST_UNIT (R331–R333, R387): a unit lands in an entry that is BUILDING with the handle's VERSION, within LENGTH; LANDED
rises by 64; the entry is published when a publishing record has delivered its last unit, that of its last naming of this node,
and LANDED has reached LENGTH. -/
def execXbcstUnit (u : BcstUnit) (s : State) : Host.Outcome State Fault Refusal :=
  let c : Ctx := u.wh.extractLsb' 8 5
  let e := (u.wh.extractLsb' 0 6).toNat
  let w := s.wvt c e
  let ok : Bool := u.crcOk && (s.ctx c).valid && !(s.ctx c).migrating && w.st = .building && w.version = u.wh.extractLsb' 32 32 &&
    u.off.toNat + u.len.toNat ≤ w.length.toNat
  let refuse (s : State) : State := s.send (.refuse u.node u.num u.unit (!u.crcOk))
  if !ok then .next (refuse s) else
  let per := u.len.toNat / 64
  let va := w.base.toNat + u.off.toNat + 64 * (u.unit % per)
  match s.homeWriteVa false c va (recBytes u.data) with
  | none => .next (if s.homeHeld c va 64 then s else refuse (s.homeTouch false c va 64 accW))
  | some s =>
    let mine (q : Nat × Nat × Nat) : Bool := q.1 = u.node.toNat && q.2.1 = u.num
    let s := s.modWvt c e (fun w =>
      let n := ((w.pubs.find? mine).map (·.2.2)).getD 0 + 1
      { w with
        landed := w.landed + 64
        pubs := if u.publish then w.pubs.filter (fun q => !mine q) ++ [(u.node.toNat, u.num, n)] else w.pubs
        pubDone := w.pubDone || (u.publish && per * (u.again + 1) ≤ n) })
    let w := s.wvt c e
    let s := if w.pubDone && w.length.toNat ≤ w.landed.toNat then s.publish c e else s
    .next (s.send (.ack u.node u.num u.unit))

/-- UALINK_STORE (R188, R386, R389): a remote read, write or 8-byte atomic at its home, through the home context's tables;
an access that does not translate completes with an error, and leaves what its translation has set (R395); one for a context in its
final migration round completes with an error. An access through a peer window reaches the scratchpad, and waits for a tile that
exchanges (R76, R77). -/
def execUalinkStore (ctx : Ctx) (va : Dbl) (op : UaOp) (s : State) : Host.Outcome State Fault Refusal :=
  let x := s.ctx ctx
  let a := va.toNat
  let fail (s : State) (n : Nat) (acc : Acc) : Host.Outcome State Fault Refusal :=
    .next (if s.homeHeld ctx a n then s else (s.homeTouch false ctx a n acc).send (.ualink [] false))
  if !x.valid || x.migrating then .next (s.send (.ualink [] false)) else
  match op with
  | .read n => match s.homeRead false ctx a n with
    | some (s, bs) => .next (s.send (.ualink bs true))
    | none => fail s n accR
  | .write data => match s.homeWriteVa false ctx a data with
    | some s => .next (s.send (.ualink [] true))
    | none => fail s data.length accW
  | .amo aop v => match s.homeRead false ctx a 8 with
    | none => fail s 8 accR
    | some (s, old) => match s.homeWriteVa false ctx a (toBytes (amoOp aop.toNat 8 (ofBytes old) v) 8) with
      | some s => .next (s.send (.ualink old true))
      | none => fail s 8 accW
  | .cas e n => match s.homeRead false ctx a 8 with
    | none => fail s 8 accR
    | some (s, old) =>
      if ofBytes old ≠ e then .next (s.send (.ualink old true))
      else match s.homeWriteVa false ctx a (toBytes n 8) with
        | some s => .next (s.send (.ualink old true))
        | none => fail s 8 accW

/-- The receive ring of a die (R371). -/
def State.recvRing (s : State) (d : Bool) : Ring := (aget s.recvRings d.toNat).getD .reset

/-- A record enters a receive ring, where there is room (R373), also at a base that reaches nothing (R395; DESIGN CHOICE, log 64). -/
def State.receive (s : State) (d : Bool) (r : Rec) : Option State :=
  let g := s.recvRing d
  if g.full then none
  else
    let s := s.homeWrite g.slotAddr (recBytes r)
    some { s with recvRings := aset s.recvRings d.toNat { g with prod := g.prod + 1 } }

/-- BENREK_RECEIVE (R373): a message that the hardware does not consume goes to the die's receive ring, and waits where the
ring is full (log 29). -/
def execBenrekReceive (die : Bool) (msg : Rec) (s : State) : Host.Outcome State Fault Refusal :=
  .next ((s.receive die msg).getD s)

end Sys2Proof.Machine
end

