-- ==== Sys2Proof/Machine/Window.lean ====
section
/-! DEFINITION. The register window of the Abatal complex (20_supervisor.md, R368–R374, R227–R229, R277–R279, R307, R308,
R310, R381–R384): stores of a hart, and the registers as a hart reads them. The harts are the environment (log 13). -/

namespace Sys2Proof.Machine

/-! ### Who may store (R368–R370) -/

/-- The primary complex is that of this die. -/
def State.isPrimary (s : State) (h : Hart) : Bool := h.die = s.primary

/-- Whether the island of a die's complex, 18 or 19, is on: while it is off the die has no complex (R385). -/
def State.complexOn (s : State) (d : Bool) : Bool := (s.island (18 + d.toNat)).on

/-- Whether the harts of a die's complex run: they are not held in reset after a claim (R381), and their island is on (R385). -/
def State.hartsRun (s : State) (d : Bool) : Bool := !(s.die d).heldReset && s.complexOn d

/-- A store to a block of a level (R368–R370): dropped where the hart does not run (R381, R385); an access fault from U, or from S
for a block marked M; ignored and counted from the standby; else its effect. -/
def State.storeAs (s : State) (h : Hart) (mOnly : Bool) (f : State → State) : State :=
  if !s.hartsRun h.die then s
  else if h.priv = .u || (mOnly && h.priv = .s) then s.send (.accessFault h.die)
  else if !s.isPrimary h then
    s.modDie h.die (fun d => { d with bootIgn := if d.bootIgn = 0xFFFF#16 then d.bootIgn else d.bootIgn + 1 })
  else f s

/-! ### Package, power and links (R371, R381) -/

/-- HBEAT of a complex: its own store restarts the interval where the value changes (R381); not ignored from the standby. -/
def State.storeHbeat (s : State) (h : Hart) (which : Bool) (v : Dbl) : State :=
  if !s.hartsRun h.die then s
  else if h.priv ≠ .m then s.send (.accessFault h.die)
  else if h.die = which then
    s.modDie which (fun d => { d with hbeat := v, hbAge := if d.hbeat = v then d.hbAge else 0 })
  else if s.isPrimary h then s
  else s.storeAs h true id

/-- The ck of 300 µs (R381). -/
def claimCk : Nat := 540000

/-- A store to PRIMARY (R381): CLAIM from the standby succeeds where the primary's HBEAT has not changed for 300 µs. The old
primary's harts are held in reset, which BOOTST shows (R380), and the stores that they had in flight are dropped. -/
def State.storePrimary (s : State) (h : Hart) (v : Dbl) : State :=
  if !s.hartsRun h.die then s
  else if h.priv ≠ .m then s.send (.accessFault h.die)
  else if s.isPrimary h || !v.getLsbD 1 || (s.die s.primary).hbAge < claimCk then s
  else
    let old := s.primary
    ({ s with primary := h.die, epoch := s.epoch + 1 }.modDie old (fun d => { d with heldReset := true, bootPhase := 0 })).modDie h.die
      (fun d => if d.bootPhase = 5 then { d with bootPhase := 4 } else d)

/-- A waiting completion is written when there is room (R371). -/
def State.retryCompletion (s : State) : State :=
  match s.cplWait with
  | some (a, b) => { s with cplWait := none }.putCompletion a b
  | none => s

/-- Trap records that tiles of die `d` hold for a ring are delivered while it has room (R348, R373). -/
def State.deliverTraps (s : State) (d m : Bool) : State :=
  (tilesOf d).foldl (fun s t => (s.tile t).records.foldl (fun s _ => s.deliver t m) s) s

/-- A store to a ring's registers (R371); the producer index is read-only. -/
def storeRing (g : Ring) (reg : Nat) (v : Dbl) : Ring :=
  match reg with
  | 0 => { g with base := v &&& 0x000FFFFFFFFFFFC0#64 }
  | 1 => { g with log2 := v.setWidth 5 }
  | 3 => { g with cons := v.setWidth 32 }
  | _ => g

/-- A store to a trap ring's register. -/
def State.storeTrapRing (s : State) (k reg : Nat) (v : Dbl) : State :=
  let s := { s with trapRings := aset s.trapRings k (storeRing ((aget s.trapRings k).getD .reset) reg v) }
  s.deliverTraps (2 ≤ k) (k % 2 = 1)

/-- A store to a receive ring's register. -/
def State.storeRecvRing (s : State) (k reg : Nat) (v : Dbl) : State :=
  { s with recvRings := aset s.recvRings k (storeRing ((aget s.recvRings k).getD .reset) reg v) }

/-- A store to MGMTKEY (R371, R384). -/
def State.storeMgmtkey (s : State) (high : Bool) (v : Dbl) : State :=
  let k := s.mgmtkey
  { s with
    mgmtkey := if high then v ++ k.extractLsb' 0 64 else k.extractLsb' 64 64 ++ v
    mgmtset := true, sumlast := 0, sumnack := 0 }

/-- A store to CMDTAIL (R371, R372). -/
def State.storeCmdtail (s : State) (v : Dbl) : State := { s with cmdtail := v.setWidth 32 }

/-- A store to the package, power and links blocks. -/
def State.storePackage (s : State) (off : Nat) (v : Dbl) : State :=
  if off = 0x30 then s.modDie false (fun d => { d with ecnt := v })
  else if off = 0x38 then s.modDie true (fun d => { d with ecnt := v })
  else if off = 0x40 then { s with cmdbase := v &&& 0x000FFFFFFFFFFFC0#64 }
  else if off = 0x48 then (if s.cmdhead = s.cmdtail then { s with cmdlog2 := v.setWidth 5 } else s)
  else if off = 0x58 then s.storeCmdtail v
  else if off = 0x60 then { s with cplbase := v &&& 0x000FFFFFFFFFFFF0#64 }
  else if off = 0x68 then { s with cpllog2 := v.setWidth 5 }.retryCompletion
  else if off = 0x78 then { s with cplcons := v.setWidth 32 }.retryCompletion
  else if 0x80 ≤ off && off < 0x100 then s.storeTrapRing ((off - 0x80) / 32) ((off - 0x80) % 32 / 8) v
  else if 0x100 ≤ off && off < 0x140 then s.storeRecvRing ((off - 0x100) / 32) ((off - 0x100) % 32 / 8) v
  else if off = 0x150 then { s with sumnack := v.setWidth 32 }
  else if off = 0x20000 then { s with node := v.setWidth 18 }
  else if off = 0x20040 then s.storeMgmtkey false v
  else if off = 0x20048 then s.storeMgmtkey true v
  else if 0x20000 ≤ off && off < 0x30000 then { s with links := aset s.links (off - 0x20000) v }
  else s

/-- A store to a migration engine (R388): MCTX, MDEST, MTHR and MMAXR in this order from +0x00, which the spec does not give
(PRESUMED, log 30); MKEY at +0x40. Bits that R388 does not name are kept and read back (DESIGN CHOICE, log 46). A new stream
identifier ends the phase of a stream that is done or aborted (DEDUCED, log 39). -/
def storeMigr (g : Migr) (off : Nat) (v : Dbl) : Migr :=
  if off = 0 then { g with mctx := v }
  else if off = 8 then
    { g with mdest := v, phase := if 4 ≤ g.phase && v.extractLsb' 32 32 ≠ g.mdest.extractLsb' 32 32 then 0 else g.phase }
  else if off = 0x10 then { g with mthr := v }
  else if off = 0x18 then { g with mmaxr := v }
  else if 0x40 ≤ off && off < 0x60 then
    let i := (off - 0x40) / 8
    let m : BitVec 256 := (0xFFFFFFFFFFFFFFFF#64).setWidth 256 <<< (64 * i)
    { g with mkey := (g.mkey &&& ~~~m) ||| (v.setWidth 256 <<< (64 * i)) }
  else g

/-! ### The context block (R307, R308, R320, R345, R350, R374) -/

/-- A store to CCTL (R374): VALID from 0 to 1 sets every counter of the context to 0 and clears every FAIL bit on every tile
that TMAP names. -/
def State.storeCctl (s : State) (c : Ctx) (v : Dbl) : State :=
  let fresh := v.getLsbD 0 && !(s.ctx c).valid
  let s := s.modCtx c (fun x => { x with valid := v.getLsbD 0, dbovf := x.dbovf && !v.getLsbD 1 })
  if !fresh then s else
  (((List.range 128).filterMap (fun n => s.mapTile c n)).dedup).foldl
    (fun s t => (s.onCtx t c (fun q => { q with ts := [], fails := 0 })).getD s) s

/-- A tile whose role in context c a write changes (R308, R309), from the role `old`: with no task running, or one of ROLE any,
it flips at once; else it is pending. A write that returns the tile to the old side of a pending change clears PEND and
withdraws the TREELINE request alone. The context that waits in a Sett changes at once. -/
def State.changeRole (s : State) (c : Ctx) (t : PTile) (old : Nat) : State :=
  let x := s.tile t
  if x.live = some c then
    let now : Bool := s.exchanging t || (match x.tc.task with
      | none => true
      | some k => roleField k.lb = 0)
    if x.pend then
      if s.roleIn c t = x.side then
        s.modTile t (fun x => { x with pend := false, reqs := x.reqs.filter (fun r => r.cause ≠ 2) })
      else s
    else if now then (s.modTile t (fun x => { x with pend := true })).flipRole t
    else (s.raise t 2).modTile t (fun x => { x with pend := true, side := old })
  else match x.sett with
    | some (k, q, bad) =>
      if k ≠ c then s else
      (if q.adVer = 0 then s else s.dropHolder c q.adIdx.toNat).modTile t
        (fun x => { x with sett := some (k, { q with adVer := 0 }, bad) })
    | none => s

/-- A store to TPOS (R307, R308, R374): a TLEN above 128 is stored as 128 (DESIGN CHOICE, log 52), TPOS above TLEN as TLEN, and
each tile whose role changes follows. -/
def State.storeTpos (s : State) (c : Ctx) (v : Dbl) : State :=
  let len := min 128 (v.extractLsb' 8 8).toNat
  let pos := min len (v.extractLsb' 0 8).toNat
  let s' := s.modCtx c (fun x => { x with tpos := pos, tlen := len })
  ((tilesOf false ++ tilesOf true).filter (fun t => s.roleIn c t ≠ s'.roleIn c t)).foldl (fun q t => q.changeRole c t (s.roleIn c t)) s'

/-- The bytes that a store puts into a byte map. -/
def storeMap (m : AMap Byte) (at_ : Nat) (v : Dbl) : AMap Byte :=
  (List.range 8).foldl (fun m i => aset m (at_ + i) (v.extractLsb' (8 * i) 8)) m

/-- A store to a log descriptor (R320, R374); it restarts a log that a fault has stopped (DEDUCED, log 31). -/
def storeLog (g : Log) (reg : Nat) (v : Dbl) : Log :=
  match reg with
  | 0 => { g with d0 := v &&& 0x00FFFFFFFFFFFFFF#64, stopped := false }
  | 1 => { g with acnt := v, stopped := false }
  | _ => { g with rcnt := v, stopped := false }

/-- A store to D0 of a mailbox (R254, R256). -/
def Mailbox.storeBound (b : Mailbox) (v : Dbl) : Mailbox :=
  let fresh := v.getLsbD 0 && !b.bound
  { b with
    bound := v.getLsbD 0, slots := v.extractLsb' 8 4
    lastseq := if fresh then 0 else b.lastseq, nacks := if fresh then 0 else b.nacks }

/-- A store to a mailbox's double. -/
def Mailbox.store (b : Mailbox) (reg : Nat) (v : Dbl) : Mailbox :=
  match reg with
  | 0 => b.storeBound v
  | 1 => { b with addr := v &&& 0x0000FFFFFFFFFFC0#64 }
  | 2 => { b with handler := v &&& 0x0000FFFFFFFFFFC0#64 }
  | 3 => { b with mctr := v }
  | 6 => { b with key := b.key.extractLsb' 64 64 ++ v }
  | 7 => { b with key := v ++ b.key.extractLsb' 0 64 }
  | _ => b

/-- A store to D0 of a WVT entry (R310, R374): while it is FREE its fields are written, and STATE 01 moves it to BUILDING and
clears LANDED. -/
def Wvt.storeD0 (w : Wvt) (v : Dbl) : Wvt :=
  if w.st ≠ .free then w else
  let w := { w with version := v.extractLsb' 32 32, fmt := v.extractLsb' 12 4, scope := v.extractLsb' 9 3 }
  if v.extractLsb' 6 2 = 1#2 then { w with st := .building, landed := 0, pubs := [], pubDone := false } else w

/-- A store to a WVT entry's double. -/
def Wvt.store (w : Wvt) (reg : Nat) (v : Dbl) : Wvt :=
  match reg with
  | 0 => w.storeD0 v
  | 1 => if w.st = .free then { w with base := v.setWidth 56 } else w
  | 2 => if w.st = .free then { w with length := v.setWidth 48 } else w
  | _ => w

/-- A store to the registers of the context block that have no behaviour of their own (R374). The head of FQCTL is the consumer
index of the fault queue, which Abatal writes as R373 says (log 38). -/
def Context.store (x : Context) (off : Nat) (v : Dbl) : Context :=
  if off = 0x08 then (if x.valid then x else { x with ptroot := v &&& 0x000FFFFFFFFFF800#64 })
  else if off = 0x10 then (if x.valid then x else { x with dbbase := v })
  else if off = 0x18 then (if x.valid then x else { x with dbwin := v })
  else if off = 0x28 then { x with tdeleg := v &&& 0x000000FFFFFFFFFC#64 }
  else if off = 0x30 then { x with pdead := v.setWidth 32 }
  else if off = 0x38 then { x with quota0 := v.setWidth 20 }
  else if off = 0x40 then { x with quota1 := v.setWidth 20 }
  else if off = 0x48 then { x with imgbase := v }
  else if off = 0x50 then { x with fqbase := v }
  else if off = 0x58 then { x with fqlog2 := v.setWidth 5, fqlost := v.extractLsb' 8 8, fqhead := v.extractLsb' 16 24 }
  else if 0x100 ≤ off && off < 0x180 then (if x.valid then x else { x with tmap := storeMap x.tmap (off - 0x100) v })
  else if 0x180 ≤ off && off < 0x200 then (if x.valid then x else { x with tlist := storeMap x.tlist (off - 0x180) v })
  else x

/-- A store to the context block. -/
def State.storeContext (s : State) (c : Ctx) (off : Nat) (v : Dbl) : State :=
  if off = 0 then s.storeCctl c v
  else if off = 0x20 then s.storeTpos c v
  else if 0x80 ≤ off && off < 0xB0 then s.modLog (0x98 ≤ off) c (fun g => storeLog g ((off - 0x80) % 24 / 8) v)
  else if 0x400 ≤ off && off < 0x1400 then s.modMbox c ((off - 0x400) / 64) (fun b => b.store ((off - 0x400) % 64 / 8) v)
  else if 0x1400 ≤ off && off < 0x1C00 then s.modWvt c ((off - 0x1400) / 32) (fun w => w.store ((off - 0x1400) % 32 / 8) v)
  else s.modCtx c (fun x => x.store off v)

/-! ### Queue descriptors (R277–R279) -/

/-- A store of D0 of a queue descriptor (R277, R279): into an empty slot it creates a queue with the next GEN, or retires the
slot; VALID 0 destroys the queue; while VALID is 1 FAULTED takes its bit. A creation beyond 256 resident queues is not resident;
it begins with no record on the die and no refill, and with SPILL as stored, and a destroyed one keeps GEN, RETIRED, KEY and WEIGHT
alone (DESIGN CHOICE, log 35); a creation sets LASTSEQ to 0 (R290). A store that leaves VALID 0 writes every field but GEN and
RETIRED. An RLOG2 outside 5–24 is kept as stored, and the ring then holds 2^RLOG2 records (DESIGN CHOICE, log 35). -/
def State.storeQueue0 (s : State) (d : Bool) (n : Nat) (v : Dbl) : State :=
  let q := s.queue d n
  let resident := ((s.die d).queues.filter (fun e => e.2.valid && e.2.res)).length
  if q.valid then
    if v.getLsbD 15 then
      s.modQueue d n (fun q => { q with faulted := v.getLsbD 11 })
    else s.modQueue d n (fun q =>
      { Queue.reset with gen := q.gen, retired := q.retired, key := q.key, weight := q.weight })
  else
    let fields (q : Queue) : Queue :=
      { q with
        ctx := v.extractLsb' 37 5, rlog2 := v.extractLsb' 32 5, work := v.getLsbD 14
        res := v.getLsbD 13, spill := v.getLsbD 12, faulted := v.getLsbD 11
        refill := if v.getLsbD 10 then some [] else none
        recs := List.replicate (v.extractLsb' 0 6).toNat ⟨0, 0, 0, 0, 0, 0, 0, 0⟩ }
    if !v.getLsbD 15 || q.retired then s.modQueue d n fields
    else if q.gen = 0xFFFF#16 then s.modQueue d n (fun q => { fields q with retired := true })
    else s.modQueue d n (fun q =>
      { fields q with
        valid := true, gen := q.gen + 1, res := v.getLsbD 13 && resident < 256
        admitted := 0, refill := none, recs := [], lastseq := 0 })

/-- A store to another double of a queue descriptor: the fields marked RW, and while VALID is 0 the others too. -/
def Queue.store (q : Queue) (reg : Nat) (v : Dbl) : Queue :=
  match reg with
  | 1 => if q.valid then q else { q with rbase := v &&& 0x00FFFFFFFFFFFFC0#64 }
  | 2 => if q.valid then q else { q with tail := v.extractLsb' 32 32, head := v.extractLsb' 0 32 }
  | 3 => { q with weight := v.setWidth 32 }
  | 4 => if q.valid then q else { q with deficit := satDeficit v.toInt }
  | 5 =>
    if q.valid then { q with nacks := v.extractLsb' 32 32 }
    else { q with nacks := v.extractLsb' 32 32, lastseq := v.extractLsb' 0 32 }
  | 8 => { q with key := q.key.extractLsb' 64 64 ++ v }
  | 9 => { q with key := v ++ q.key.extractLsb' 0 64 }
  | _ => q

/-! ### Group entries and slots (R227–R229, R369) -/

/-- The doubles of an entry that Abatal writes: D0, and MEMBERS in D1 and D2. -/
def Group.write (x : Group) (d0 d1 d2 : Dbl) : Group :=
  { x with valid := d0.getLsbD 0, ctx := d0.extractLsb' 1 5, scope := d0.extractLsb' 6 3, members := d2 ++ d1 }

/-- Whether a member of an entry still waits on it: an arrival of its is counted or held. -/
def State.memberWaits (s : State) (d : Bool) (g n : Nat) : Bool := (s.group d g).arr.getLsbD n || s.memberHeld d g n

/-- A rewrite of an entry (R229, 4 and 5): where members still wait it releases the phase, and the release is a failed one; the
held arrivals that it moves count in the entry as rewritten, which is then tested. A moved arrival of a tile that the entry no
longer names is dropped, which ends the wait for it as failed (R237), and FAILED stands; an entry that becomes VALID begins with no
arrival and no failed member (DEDUCED, log 31), and its latest release is still the last of its former use (DESIGN CHOICE, log 47), as ARR of the slots that name it
stands (DESIGN CHOICE, log 51). Where no member waits, no arrival is counted, and the test releases no phase. -/
def State.rewriteGroup (s : State) (d : Bool) (g : Nat) (d0 d1 d2 : Dbl) : State :=
  let old := s.group d g
  if !old.valid then
    s.modGroup d g (fun x => { x.write d0 d1 d2 with arr := 0, failed := if d0.getLsbD 0 then 0 else x.failed })
  else
    let ms := (List.range 128).filter (fun n => old.members.getLsbD n)
    if !ms.any (fun n => s.memberWaits d g n) then s.modGroup d g (fun x => { x.write d0 d1 d2 with arr := 0 }) else
    let new := old.write d0 d1 d2
    let stays := if new.valid && new.ctx = old.ctx then new.members else 0
    let s := s.releasePhase d g true
    let s := (ms.filter (fun n => !stays.getLsbD n)).foldl (fun s n =>
      s.modMember d g n (fun awaited y => { y with arr := false, fail := if awaited && y.arr then some true else y.fail })) s
    let s := s.modGroup d g (fun x => { x.write d0 d1 d2 with arr := x.arr &&& stays })
    if (s.group d g).arr = 0 then s else s.testRelease d g 2

/-- A store to one double of a group entry. -/
def State.storeGroup (s : State) (d : Bool) (g reg : Nat) (v : Dbl) : State :=
  let x := s.group d g
  let d0 : Dbl := 0#55 ++ x.scope ++ x.ctx ++ bit x.valid 1
  let m0 : Dbl := x.members.extractLsb' 0 64
  let m1 : Dbl := x.members.extractLsb' 64 64
  match reg with
  | 0 => s.rewriteGroup d g v m0 m1
  | 1 => s.rewriteGroup d g d0 v m1
  | 2 => s.rewriteGroup d g d0 m0 v
  | _ => s

/-- The group slot of a GSLOTn value (R228, R398). -/
def gslotOf (v : Dbl) : GSlot := ⟨v.getLsbD 15, v.getLsbD 10, v.getLsbD 9, v.getLsbD 8, v.extractLsb' 0 8, none, false⟩

/-- A store to GSLOTn of a tile (R228, R369), in its live context; a wait under way stands where the slot names the entry as
before. -/
def State.storeGslot (s : State) (t : PTile) (n : Nat) (v : Dbl) : State :=
  let x := gslotOf v
  s.modTc t (fun c =>
    let same : Bool := (c.gslot n).die = x.die && (c.gslot n).entry = x.entry
    { c.modGslot n (fun g => { x with fail := if same then g.fail else none, synced := g.synced && same }) with gsync := c.gsync.filter (fun z => z.1 ≠ n || same) })

/-- A store to the slice table and its indices (R382, R383); the bits of D0 that R382 does not name are kept and read back (DESIGN
CHOICE, log 46). The request for an entry that SLTAIL takes back is raised anew when one is written there again (R383). -/
def State.storeSlice (s : State) (off : Nat) (v : Dbl) : State :=
  if off = 0x808 then
    let s := { s with sltail := v.setWidth 32 }
    { s with tiles := keepAsked s.behind s.tiles }
  else if off < 0x800 then
    let i := off / 32
    let e := (aget s.slices i).getD (0, 0, 0)
    let e := match off % 32 / 8 with
      | 0 => (v, e.2.1, e.2.2)
      | 1 => (e.1, v, e.2.2)
      | 2 => (e.1, e.2.1, v)
      | _ => e
    { s with slices := aset s.slices i e }
  else s

/-! ### The window as a whole (R368, R369) -/

/-- A hart's 8-byte store at an offset of the window. -/
def State.windowStore (s : State) (h : Hart) (off : Nat) (v : Dbl) : State :=
  if !s.hartsRun h.die then s
  else if off % 8 ≠ 0 then s.send (.accessFault h.die)
  else if off = 0x10 then s.storePrimary h v
  else if off = 0x18 then s.storeHbeat h false v
  else if off = 0x20 then s.storeHbeat h true v
  else if off < 0x30000 then s.storeAs h true (fun s => s.storePackage off v)
  else if off < 0x40000 then
    let d : Bool := 0x38000 ≤ off
    s.storeAs h true (fun s => s.modDie d (fun x => { x with migr := storeMigr x.migr (off % 0x8000) v }))
  else if 0x100000 ≤ off && off < 0x300000 then
    s.storeAs h false (fun s => s.storeContext (BitVec.ofNat 5 ((off - 0x100000) / 0x10000)) (off % 0x10000) v)
  else if 0x300000 ≤ off && off < 0x320000 then
    let d : Bool := 0x310000 ≤ off
    let n := off % 0x10000 / 0x80
    let reg := off % 0x80 / 8
    s.storeAs h false (fun s => if reg = 0 then s.storeQueue0 d n v else s.modQueue d n (fun q => q.store reg v))
  else if 0x320000 ≤ off && off < 0x328000 then
    s.storeAs h false (fun s => s.storeGroup (0x324000 ≤ off) (off % 0x4000 / 0x40) (off % 0x40 / 8) v)
  else if 0x340000 ≤ off && off < 0x341000 then s.storeAs h false (fun s => s.storeSlice (off - 0x340000) v)
  else if 0x350000 ≤ off && off < 0x358000 && off % 0x100 < 0x20 then
    s.storeAs h false (fun s => s.storeGslot (BitVec.ofNat 7 ((off - 0x350000) / 0x100)) (off % 0x100 / 8) v)
  else s.storeAs h (off < 0x100000) id

/-- A store of `size` bytes to the window: any but a naturally aligned one of 8 bytes is an access fault (R368). -/
def State.hartStore (s : State) (h : Hart) (off size : Nat) (v : Dbl) : State :=
  if !s.hartsRun h.die then s
  else if size ≠ 8 then s.send (.accessFault h.die) else s.windowStore h off v

/-! ### Memory as a hart reaches it (R368) -/

/-- A hart of a die's complex stores bytes to memory, as an agent of its die (R78); the lines await its release. An address that
reaches nothing is an access fault. -/
def State.hartMem (s : State) (d : Bool) (n : BitVec 2) (pa : Nat) (bs : List Byte) : State :=
  if !s.hartsRun d then s else
  if !(List.range bs.length).all (fun i => s.mapped (pa + i)) then s.send (.accessFault d) else
  let s := s.modDie d (fun x => { x with
    harts := aset x.harts n.toNat ((List.range bs.length).foldl (fun ls i => joinLine ls (lineOf (pa + i)))
      ((aget x.harts n.toNat).getD [])) })
  s.unitWrite d pa bs

/-- A hart's FENCE rw,rw: its earlier stores go to their homes now, so that a window store which follows it is their release at
PKG scope, eager (R368). -/
def State.hartFence (s : State) (d : Bool) (n : BitVec 2) : State :=
  if !s.hartsRun d then s else
  (s.writeBack d ((aget (s.die d).harts n.toNat).getD [])).modDie d (fun x => { x with harts := aset x.harts n.toNat [] })

/-! ### Interrupts (R371–R373, R385) -/

/-- The interrupt of a trap ring's level is raised (R373). -/
def State.trapInterrupt (s : State) (d m : Bool) : Bool := (s.trapRing d m).prod ≠ (s.trapRing d m).cons
/-- The M external interrupt of the completion ring is raised (R371, R372). -/
def State.cplInterrupt (s : State) : Bool := s.cplprod ≠ s.cplcons
/-- The M interrupt of a thermal stop is raised, while an island is held by it (R385; DESIGN CHOICE, log 38). -/
def State.thermInterrupt (s : State) : Bool := s.islands.any (fun e => e.2.tstop)
/-- The interrupts that a die's complex sees: level M, then level S. -/
def State.interrupts (s : State) (d : Bool) : Bool × Bool :=
  (s.trapInterrupt d true || s.cplInterrupt || s.thermInterrupt, s.trapInterrupt d false)

/-- HBEAT_WRITE (R381). -/
def execHbeatWrite (h : Hart) (which : Bool) (v : Dbl) (s : State) : Host.Outcome State Fault Refusal :=
  .next (s.storeHbeat h which v)
/-- CLAIM (R381). -/
def execClaim (h : Hart) (v : Dbl) (s : State) : Host.Outcome State Fault Refusal := .next (s.storePrimary h v)
/-- CMDTAIL_WRITE (R371, R372). -/
def execCmdtailWrite (h : Hart) (v : Dbl) (s : State) : Host.Outcome State Fault Refusal :=
  .next (s.storeAs h true (fun s => s.storeCmdtail v))
/-- CCTL_WRITE (R374). -/
def execCctlWrite (h : Hart) (ctx : Ctx) (v : Dbl) (s : State) : Host.Outcome State Fault Refusal :=
  .next (s.storeAs h false (fun s => s.storeCctl ctx v))
/-- TPOS_WRITE (R308). -/
def execTposWrite (h : Hart) (ctx : Ctx) (v : Dbl) (s : State) : Host.Outcome State Fault Refusal :=
  .next (s.storeAs h false (fun s => s.storeTpos ctx v))
/-- WVT_ALLOCATE (R310, R374). -/
def execWvtAllocate (h : Hart) (ctx : Ctx) (e : BitVec 6) (v : Dbl) (s : State) : Host.Outcome State Fault Refusal :=
  .next (s.storeAs h false (fun s => s.modWvt ctx e.toNat (fun w => w.storeD0 v)))
/-- QUEUE_CREATE (R279). -/
def execQueueCreate (h : Hart) (die : Bool) (slot : BitVec 9) (v : Dbl) (s : State) : Host.Outcome State Fault Refusal :=
  .next (s.storeAs h false (fun s => s.storeQueue0 die slot.toNat v))
/-- MAILBOX_BIND (R256). -/
def execMailboxBind (h : Hart) (ctx : Ctx) (m : BitVec 6) (v : Dbl) (s : State) : Host.Outcome State Fault Refusal :=
  .next (s.storeAs h false (fun s => s.modMbox ctx m.toNat (fun b => b.storeBound v)))
/-- MGMTKEY_WRITE (R384). -/
def execMgmtkeyWrite (h : Hart) (high : Bool) (v : Dbl) (s : State) : Host.Outcome State Fault Refusal :=
  .next (s.storeAs h true (fun s => s.storeMgmtkey high v))
/-- SLTAIL_WRITE (R383). -/
def execSltailWrite (h : Hart) (v : Dbl) (s : State) : Host.Outcome State Fault Refusal :=
  .next (s.storeAs h false (fun s => s.storeSlice 0x808 v))
/-- GROUP_ENTRY_REWRITE (R229, 4). -/
def execGroupEntryRewrite (h : Hart) (die : Bool) (g : Byte) (d0 d1 d2 : Dbl) (s : State) :
    Host.Outcome State Fault Refusal :=
  .next (s.storeAs h false (fun s => s.rewriteGroup die g.toNat d0 d1 d2))
/-- REGISTER_WRITE (R368). -/
def execRegisterWrite (h : Hart) (off : BitVec 32) (v : Dbl) (s : State) : Host.Outcome State Fault Refusal :=
  .next (s.windowStore h off.toNat v)
/-- CONSUMER_INDEX_WRITE (R373). -/
def execConsumerIndexWrite (h : Hart) (off : BitVec 32) (v : Dbl) (s : State) : Host.Outcome State Fault Refusal :=
  .next (s.windowStore h off.toNat v)

/-! ### Reading the window (R369–R374) -/

/-- TSTATE (R369). -/
def State.tstateCode (s : State) (t : PTile) : Nat :=
  let x := s.tile t
  match x.stop with
  | .fenced => 4
  | .exchanging _ => 5
  | .abatal _ => 3
  | .none => if x.tc.task.isNone then 0 else if x.tc.inh then 2 else 1

/-- BOOTST of a complex (R380). -/
def State.bootst (s : State) (d : Bool) : Dbl :=
  let x := s.die d
  x.bootTries ++ (x.bootIgn ++ (0#27 ++ bit x.bootSrc 1 ++ BitVec.ofNat 4 x.bootPhase))

/-- PRIMARY as read (R381). -/
def State.primaryVal (s : State) : Dbl := s.epoch ++ (0#31 ++ bit s.primary 1)

/-- ISLANDi (R385). -/
def islandVal (i : Island) : BitVec 10 := bit i.tstop 1 ++ bit i.busy 1 ++ bit i.ton 1 ++ i.tpt ++ bit i.on 1 ++ i.pt

/-- CCTL. -/
def Context.cctl (x : Context) : Dbl := 0#62 ++ bit x.dbovf 1 ++ bit x.valid 1
/-- TPOS. -/
def Context.tposVal (x : Context) : Dbl := nd (x.tpos % 256 + x.tlen % 256 * 256)
/-- FQCTL. -/
def Context.fqctl (x : Context) : Dbl := x.fqtail ++ (x.fqhead ++ (x.fqlost ++ (0#3 ++ x.fqlog2)))
/-- Eight bytes of a byte map. -/
def mapVal (m : AMap Byte) (at_ : Nat) : Dbl := ofBytes ((List.range 8).map (fun i => (aget m (at_ + i)).getD 0))

/-- A mailbox's double as read; KEY is write-only. -/
def Mailbox.val (b : Mailbox) (reg : Nat) : Dbl :=
  match reg with
  | 0 => b.lastseq ++ (0#20 ++ b.slots ++ 0#7 ++ bit b.bound 1)
  | 1 => b.addr
  | 2 => b.handler
  | 3 => b.mctr
  | 4 => b.arr
  | 5 => 0#16 ++ b.nacks ++ 0#19 ++ BitVec.ofNat 13 b.live
  | _ => 0

/-- A WVT entry's double as read. -/
def wvtVal (e : Nat) (w : Wvt) (reg : Nat) : Dbl :=
  match reg with
  | 0 => wvtD0 e w
  | 1 => w.base.setWidth 64
  | 2 => w.length.setWidth 64
  | _ => w.landed

/-- A register of the context block as read (R374). -/
def State.contextVal (s : State) (c : Ctx) (off : Nat) : Dbl :=
  let x := s.ctx c
  if off = 0 then x.cctl
  else if off = 0x08 then x.ptroot
  else if off = 0x10 then x.dbbase
  else if off = 0x18 then x.dbwin
  else if off = 0x20 then x.tposVal
  else if off = 0x28 then x.tdeleg
  else if off = 0x30 then x.pdead.setWidth 64
  else if off = 0x38 then x.quota0.setWidth 64
  else if off = 0x40 then x.quota1.setWidth 64
  else if off = 0x48 then x.imgbase
  else if off = 0x50 then x.fqbase
  else if off = 0x58 then x.fqctl
  else if 0x80 ≤ off && off < 0xB0 then
    let g := s.log (0x98 ≤ off) c
    match (off - 0x80) % 24 / 8 with
    | 0 => g.d0
    | 1 => g.acnt
    | _ => g.rcnt
  else if 0x100 ≤ off && off < 0x180 then mapVal x.tmap (off - 0x100)
  else if 0x180 ≤ off && off < 0x200 then mapVal x.tlist (off - 0x180)
  else if 0x400 ≤ off && off < 0x1400 then (s.mbox c ((off - 0x400) / 64)).val ((off - 0x400) % 64 / 8)
  else if 0x1400 ≤ off && off < 0x1C00 then
    let e := (off - 0x1400) / 32
    wvtVal e (s.wvt c e) ((off - 0x1400) % 32 / 8)
  else 0

/-- A queue descriptor's double as read (R277). -/
def Queue.val (q : Queue) (reg : Nat) : Dbl :=
  match reg with
  | 0 => q.gen ++ (bit q.retired 1 ++ 0#5 ++ q.ctx ++ q.rlog2 ++ 0#16 ++ bit q.valid 1 ++ bit q.work 1 ++ bit q.res 1 ++
      bit q.spill 1 ++ bit q.faulted 1 ++ bit q.refill.isSome 1 ++ 0#4 ++ BitVec.ofNat 6 q.recs.length)
  | 1 => q.rbase
  | 2 => q.tail ++ q.head
  | 3 => q.weight.setWidth 64
  | 4 => BitVec.ofInt 64 q.deficit
  | 5 => q.nacks ++ q.lastseq
  | _ => 0

/-- A group entry's double as read (R369). -/
def Group.val (x : Group) (reg : Nat) : Dbl :=
  match reg with
  | 0 => 0#46 ++ BitVec.ofNat 8 (count128 x.arr) ++ bit x.phase 1 ++ x.scope ++ x.ctx ++ bit x.valid 1
  | 1 => x.members.extractLsb' 0 64
  | 2 => x.members.extractLsb' 64 64
  | 3 => x.failed.extractLsb' 0 64
  | 4 => x.failed.extractLsb' 64 64
  | _ => 0

/-- MSTAT and the readable registers of a migration engine (R388). -/
def Migr.val (g : Migr) (off : Nat) : Dbl :=
  if off = 0 then g.mctx
  else if off = 8 then g.mdest
  else if off = 0x10 then g.mthr
  else if off = 0x18 then g.mmaxr
  else if off = 0x20 then nd (g.phase + g.round % 256 * 256 + g.dirty % 2 ^ 32 * 2 ^ 32)
  else 0

/-- A ring's register as read. -/
def Ring.val (g : Ring) (reg : Nat) : Dbl :=
  match reg with
  | 0 => g.base
  | 1 => g.log2.setWidth 64
  | 2 => g.prod.setWidth 64
  | _ => g.cons.setWidth 64

/-- A register of the window as a hart reads it; write-only fields read as 0. -/
def State.windowLoad (s : State) (off : Nat) : Dbl :=
  if off = 0 then s.bootst false
  else if off = 0x08 then s.bootst true
  else if off = 0x10 then s.primaryVal
  else if off = 0x18 then s.die0.hbeat
  else if off = 0x20 then s.die1.hbeat
  else if off = 0x28 then s.bootsrc
  else if off = 0x30 then s.die0.ecnt
  else if off = 0x38 then s.die1.ecnt
  else if off = 0x40 then s.cmdbase
  else if off = 0x48 then s.cmdlog2.setWidth 64
  else if off = 0x50 then s.cmdhead.setWidth 64
  else if off = 0x58 then s.cmdtail.setWidth 64
  else if off = 0x60 then s.cplbase
  else if off = 0x68 then s.cpllog2.setWidth 64
  else if off = 0x70 then s.cplprod.setWidth 64
  else if off = 0x78 then s.cplcons.setWidth 64
  else if 0x80 ≤ off && off < 0x100 then ((aget s.trapRings ((off - 0x80) / 32)).getD .reset).val ((off - 0x80) % 32 / 8)
  else if 0x100 ≤ off && off < 0x140 then ((aget s.recvRings ((off - 0x100) / 32)).getD .reset).val ((off - 0x100) % 32 / 8)
  else if off = 0x140 then s.sumseq
  else if off = 0x148 then s.sumlast.setWidth 64
  else if off = 0x150 then s.sumnack.setWidth 64
  else if 0x10000 ≤ off && off < 0x100A0 then (islandVal (s.island ((off - 0x10000) / 8))).setWidth 64
  else if off = 0x100A0 then s.therm
  else if off = 0x20000 then s.node.setWidth 64
  else if off = 0x20040 || off = 0x20048 then 0
  else if 0x20000 ≤ off && off < 0x30000 then (aget s.links (off - 0x20000)).getD 0
  else if 0x30000 ≤ off && off < 0x40000 then (s.die (0x38000 ≤ off)).migr.val (off % 0x8000)
  else if 0x100000 ≤ off && off < 0x300000 then s.contextVal (BitVec.ofNat 5 ((off - 0x100000) / 0x10000)) (off % 0x10000)
  else if 0x300000 ≤ off && off < 0x320000 then (s.queue (0x310000 ≤ off) (off % 0x10000 / 0x80)).val (off % 0x80 / 8)
  else if 0x320000 ≤ off && off < 0x328000 then (s.group (0x324000 ≤ off) (off % 0x4000 / 0x40)).val (off % 0x40 / 8)
  else if 0x340000 ≤ off && off < 0x340800 then
    let e := (aget s.slices ((off - 0x340000) / 32)).getD (0, 0, 0)
    match off % 32 / 8 with
    | 0 => e.1
    | 1 => e.2.1
    | 2 => e.2.2
    | _ => 0
  else if off = 0x340800 then s.slhead.setWidth 64
  else if off = 0x340808 then s.sltail.setWidth 64
  else if off = 0x340810 then s.slskip.setWidth 64
  else if 0x350000 ≤ off && off < 0x358000 then
    let t : PTile := BitVec.ofNat 7 ((off - 0x350000) / 0x100)
    if off % 0x100 < 0x20 then gslotVal ((s.tc t).gslot (off % 0x100 / 8))
    else if off % 0x100 = 0x20 then nd (s.tstateCode t + (if (s.tile t).pend then 8 else 0))
    else 0
  else 0

/-- A hart reads `size` bytes of the window (R368): from U, from S in a block marked M, or other than 8 aligned bytes it is an
access fault; else the value goes to the hart. The standby's harts read as the primary's do (R370). -/
def State.hartRead (s : State) (h : Hart) (off size : Nat) : State :=
  if !s.hartsRun h.die then s
  else if size ≠ 8 || off % 8 ≠ 0 || h.priv = .u || (off < 0x100000 && h.priv = .s) then s.send (.accessFault h.die)
  else s.send (.loaded h.die (s.windowLoad off))

end Sys2Proof.Machine
end

