-- ==== Sys2Proof/Machine/Package.lean ====
section
/-! DEFINITION. The commands of the command ring (R372), boot and firmware fetch (R377–R380), the summary (R382, R384),
power states and the thermal stop (R385), live migration (R388–R390), package reset. -/

namespace Sys2Proof.Machine

/-! ### Arguments of commands -/

/-- Status codes (R372). -/
def stOK : Nat := 0
/-- See `stOK`. -/
def stBADCMD : Nat := 1
/-- See `stOK`. -/
def stREFUSED : Nat := 2
/-- See `stOK`. -/
def stFAULT : Nat := 3
/-- See `stOK`. -/
def stTHERMAL : Nat := 4

/-- The next state of a command that completes. -/
def State.done (s : State) (tag : BitVec 32) (status : Nat) (result : Dbl) : Host.Outcome State Fault Refusal :=
  .next (s.completion tag status result)

/-- A command whose argument has a nonzero reserved bit is BADCMD; otherwise it goes on. -/
def State.cmd (s : State) (tag : BitVec 32) (ok : Bool) (go : Host.Outcome State Fault Refusal) :
    Host.Outcome State Fault Refusal :=
  if ok then go else s.done tag stBADCMD 0

/-- The tiles on which a context is live. -/
def State.liveTiles (s : State) (c : Ctx) : List PTile :=
  (tilesOf false ++ tilesOf true).filter (fun t => (s.tile t).live = some c)

/-! ### INVAL and TXINV (R186, R189, R39) -/

/-- Whether an entry of a context translates a page of a range; a global entry is left (R186). -/
def TlbEntry.doomed (e : TlbEntry) (c : Ctx) (va bytes : Nat) : Bool :=
  e.ctx = c && !e.pte.getLsbD 5 &&
  (bytes = 0 || (e.base < va + bytes && va < e.base + 2 ^ pageShift e.level))

/-- Every issued access of a tile is performed; the progress count restarts where R396 says. -/
def State.settleAll (s : State) (t : PTile) : State :=
  let x := s.tile t
  let heard : Bool := !x.sbuf.isEmpty || !x.tc.vloads.isEmpty || x.tc.fills.any (s.fillHeard t)
  let s := (s.settle t (x.tc.fills.length + x.sbuf.length)).settleV t (x.tc.vloads.length + x.tc.vstores.length)
  if heard then s.progress t else s

/-- An invalidate (R189): every access translated already is performed, then the entries leave every TLB; of a global entry that
is left no frame is known to be dirty, so that a later write sets dirty state anew (R188). -/
def State.invalidate (s : State) (c : Ctx) (va bytes : Nat) : State :=
  let s := (s.liveTiles c).foldl (fun s t => s.settleAll t) s
  let keep (es : List TlbEntry) : List TlbEntry :=
    (es.filter (fun e => !e.doomed c va bytes)).map (fun e => if e.ctx = c then { e with known := [] } else e)
  { s with
    tiles := s.tiles.map (fun e => (e.1, { e.2 with tlb := keep e.2.tlb }))
    die0 := { s.die0 with stlb := keep s.die0.stlb }
    die1 := { s.die1 with stlb := keep s.die1.stlb } }

/-- INVAL. -/
def execInval (tag : BitVec 32) (d1 d2 d3 : Dbl) (s : State) : Host.Outcome State Fault Refusal :=
  s.cmd tag (d1.toNat < 32 && d2.toNat % 0x8000 = 0)
    ((s.invalidate (d1.setWidth 5) d2.toNat (d3.toNat * 0x8000)).done tag stOK 0)

/-- TXINV: the matching parcels leave every tile's text cache, and no others: the spec gives that cache no line size (DESIGN CHOICE,
log 17). -/
def execTxinv (tag : BitVec 32) (d1 d2 d3 : Dbl) (s : State) : Host.Outcome State Fault Refusal :=
  let hit (e : TextParcel) : Bool :=
    e.ctx = d1.setWidth 5 && (d3 = 0 || (e.va < d2.toNat + d3.toNat && d2.toNat < e.va + 2))
  s.cmd tag (d1.toNat < 32)
    (State.done { s with
      tiles := s.tiles.map (fun e => (e.1, { e.2 with text := e.2.text.filter (fun p => !hit p) })) } tag stOK 0)

/-! ### Tiles: TRESUME, TSAVE, FENCE, UNFENCE, SETTX, PREQ, FAILSET -/

/-- A stopped tile resumes (R349): as TRET would, or after a double trap in the handler where it stopped. -/
def State.resumeTile (s : State) (t : PTile) (double : Bool) : State :=
  let s := s.modTile t (fun x => { x with stop := .none })
  if double then
    (s.modTc t (fun q => { q with
      mq := q.mq.map (fun r => { r with fault := none }), xrecs := q.xrecs.map (fun r => { r with fault := none }) })).progress t
  else s.trapReturn t

/-- A command that would take a tile out of its stop: while a full trap ring keeps the tile holding records, the part does not go on
with it (R373). -/
def State.held (s : State) (t : PTile) (go : Host.Outcome State Fault Refusal) : Host.Outcome State Fault Refusal :=
  if (s.tile t).records.isEmpty then go else .next s

/-- TRESUME. -/
def execTresume (tag : BitVec 32) (d1 : Dbl) (s : State) : Host.Outcome State Fault Refusal :=
  let t : PTile := d1.setWidth 7
  s.cmd tag (d1.toNat < 128) (match (s.tile t).stop with
    | .abatal double => s.held t ((s.resumeTile t double).done tag stOK 0)
    | _ => s.done tag stREFUSED 0)

/-- TSAVE: it waits for a task that has exited, for an exchange, and for the fabric units on their way (R352). A tile stopped
for Abatal resumes each engine where it stands (log 28). A save whose image write faults leaves the task on the tile, and the
command completes FAULT (R372, R375), as it does where the save raises MCHECK. -/
def execTsave (tag : BitVec 32) (d1 : Dbl) (s : State) : Host.Outcome State Fault Refusal :=
  let t : PTile := d1.setWidth 7
  s.cmd tag (d1.toNat < 128) (
    if (s.tile t).stop = .fenced || (s.tc t).task.isNone then s.done tag stREFUSED 0
    else if s.exchanging t || !s.taskRuns t then .next s
    else s.held t (match s.stopForSave t with
      | none => .next s
      | some s =>
        let s := s.saveTask t
        s.done tag (if (s.tc t).task.isSome || (s.tile t).stop = .fenced then stFAULT else stOK) 0))

/-- FENCE. -/
def execCmdFence (tag : BitVec 32) (d1 : Dbl) (s : State) : Host.Outcome State Fault Refusal :=
  s.cmd tag (d1.toNat < 128) ((s.machineCheck (d1.setWidth 7) 0).done tag stOK 0)

/-- UNFENCE. -/
def execUnfence (tag : BitVec 32) (d1 : Dbl) (s : State) : Host.Outcome State Fault Refusal :=
  let t : PTile := d1.setWidth 7
  s.cmd tag (d1.toNat < 128) (
    if (s.tile t).stop = .fenced then s.held t ((s.modTile t (fun x => { x with stop := .none })).done tag stOK 0)
    else s.done tag stREFUSED 0)

/-- SETTX: the exchange begins with SETT_EXCHANGE, and the command completes with SETT_EXCHANGE_COMPLETE. A fenced tile
refuses it, and one that exchanges already makes it wait (DESIGN CHOICE, log 29). -/
def execSettx (tag : BitVec 32) (d1 : Dbl) (s : State) : Host.Outcome State Fault Refusal :=
  let t : PTile := d1.setWidth 7
  s.cmd tag (d1.toNat < 128) (
    if (s.tile t).stop = .fenced then s.done tag stREFUSED 0
    else if s.exchanging t then .next s
    else .next { s with settWait := some (t, tag) })

/-- PREQ: cause ABATAL on every tile of the mask on which the context is live. -/
def execPreq (tag : BitVec 32) (d1 d2 d3 : Dbl) (s : State) : Host.Outcome State Fault Refusal :=
  let c : Ctx := d1.setWidth 5
  let mask : BitVec 128 := d3 ++ d2
  let ts := ((List.range 128).filterMap (fun n => if mask.getLsbD n then s.mapTile c n else none)).filter
    (fun t => (s.tile t).live = some c)
  s.cmd tag (d1.toNat < 32) ((ts.foldl (fun s t => s.raise t 3) s).done tag stOK 0)

/-- FAILSET: FAIL bits of a logical tile's counters. It is none of the events that restart a progress count (R396). -/
def execFailset (tag : BitVec 32) (d1 d2 d3 d4 : Dbl) (s : State) : Host.Outcome State Fault Refusal :=
  let c : Ctx := d1.setWidth 5
  let m : BitVec 32 := d3.setWidth 32
  let f (q : TCtx) : TCtx := { q with fails := if d4 = 0 then q.fails ||| m else q.fails &&& ~~~m }
  s.cmd tag (d1.toNat < 32 && d2.toNat < 128 && d3.toNat < 2 ^ 32 && d4.toNat < 2) (
    match (s.mapTile c d2.toNat).bind (fun t => s.onCtx t c f) with
    | some s => s.done tag stOK 0
    | none => s.done tag stREFUSED 0)

/-! ### The leaves of a context (R376) -/

/-- A leaf of a context's tables: its address, level, entry and the entry's address. -/
structure Leaf where
  va : Nat
  level : Nat
  pte : Dbl
  at_ : Nat
  deriving DecidableEq, Repr

/-- The valid leaves below a table (R376). -/
def State.leaves (s : State) (d : Bool) : Nat → Nat → Nat → List Leaf
  | 0, _, _ => []
  | fuel + 1, table, va =>
    let level := fuel
    let (sh, w) := levelBits level
    (List.range (2 ^ w)).flatMap (fun i =>
      let a := table + 8 * i
      let pte := ofBytes (s.physBytes d a 8)
      let va := va + i * 2 ^ sh
      if !pte.getLsbD 0 then []
      else if pte.getLsbD 1 || pte.getLsbD 2 || pte.getLsbD 3 then if leafOk pte level then [⟨va, level, pte, a⟩] else []
      else if level = 0 || pte.extractLsb' 4 5 ≠ 0#5 then []
      else s.leaves d fuel ((pte.extractLsb' 9 43).toNat * 512) va)

/-- The leaves of a context. -/
def State.ctxLeaves (s : State) (d : Bool) (c : Ctx) : List Leaf :=
  s.leaves d 5 (((s.ctx c).ptroot.extractLsb' 11 41).toNat * 2048) 0

/-- The lines of the tables that the walk for `leaves` reads, each by the address of its first entry, with the virtual address at
which that entry's part begins. -/
def State.tableLines (s : State) (d : Bool) : Nat → Nat → Nat → List (Nat × Nat)
  | 0, _, _ => []
  | fuel + 1, table, va =>
    let level := fuel
    let (sh, w) := levelBits level
    (List.range (2 ^ w)).flatMap (fun i =>
      let a := table + 8 * i
      let pte := ofBytes (s.physBytes d a 8)
      let va := va + i * 2 ^ sh
      let below : Bool := pte.getLsbD 0 && !pte.getLsbD 1 && !pte.getLsbD 2 && !pte.getLsbD 3 && level ≠ 0 && pte.extractLsb' 4 5 = 0#5
      (if i % 8 = 0 then [(a, va)] else []) ++
        (if below then s.tableLines d fuel ((pte.extractLsb' 9 43).toNat * 512) va else []))

/-- A unit of die `d` reads the whole of a context's tables, whose lines may be uncorrectable (R387). -/
def State.scansTables (s : State) (d : Bool) (c : Ctx) : State :=
  if s.poison.isEmpty then s else
  (s.tableLines d 5 (((s.ctx c).ptroot.extractLsb' 11 41).toNat * 2048) 0).foldl (fun s p => s.unitReads c p.1 (nd p.2)) s

/-- The physical base of a leaf. -/
def Leaf.base (l : Leaf) : Nat := (l.pte.extractLsb' 16 37).toNat * 2 ^ 15

/-! ### SETTIO and RESUME -/

/-- Whether bytes at a physical address can be reached. -/
def State.reaches (s : State) (a n : Nat) : Bool :=
  a < 2 ^ 52 && s.mapped a && s.mapped (a + n - 1) && n ≤ 0x300000

/-- Write bytes at a physical address, line by line at their homes. -/
def State.physWrite (s : State) : Nat → Nat → List Byte → State
  | 0, _, _ => s
  | n + 1, a, bs =>
    if bs.isEmpty then s else
    let k := 64 - a % 64
    (s.homeWrite a (bs.take k)).physWrite n (a + k) (bs.drop k)

/-- Read a physical line range, every copy written back first (R195). -/
def State.physRead (s : State) (a n : Nat) : State × List Byte :=
  let s := (List.range (n / 64 + 1)).foldl (fun s i =>
    s.bothHome (lineOf (a + 64 * i))) s
  (s, memBytes s.mem a n)

/-- The context image of a tile's Sett, as its exchange saved it (R354), or as it was loaded where its CRC-64 does not match. -/
def State.settImage (s : State) (t : PTile) (q : TCtx) (raw : Option (List Byte)) : List Byte :=
  let cyc := ((q.task.bind (fun k => s.slot (dieOf t) k.slot.toNat)).map (·.cycles)).getD 0
  raw.getD (imageWith (s.tile t).settHead q true false cyc)

/-- The save that an image's header tells of (R354, R355). -/
def headOf (bs task : List Byte) : ImageHead :=
  ⟨dblAt bs 1, dblAt bs 2, dblAt bs 6, (dblAt task 2).extractLsb' 32 18⟩

/-- The slot of a parked task whose context image is loaded: the READY task of the context on the die with the image's
launch block (DEDUCED, log 28). -/
def State.parkedSlot (s : State) (d : Bool) (c : Ctx) (lb : Rec) : Option Nat :=
  ((s.die d).slots.find? (fun e => e.2.ctx = c && e.2.st = .ready && e.2.lb = lb &&
    (match e.2.image with | some (.sett _) => true | _ => false))).map (·.1)

/-- The tile context that a context image holds (R353, R398). A parked task keeps its Thicket slot; of one that is no more, the
pending vector writes land (R129). -/
def State.readContextImage (s : State) (t : PTile) (c : Ctx) (bs : List Byte) : State × TCtx :=
  let ss := readSections (fld (dblAt bs 5) 0 16) (bs.drop 64)
  let task := bodyOf ss 12
  let lb := recOf ((task.drop 24).take 64)
  let grp := bodyOf ss 13
  let base : TCtx := { TCtx.reset with
    xnum := s.fresh, gslots := (List.range 4).map (fun n => (n, gslotOf (dblAt grp n))) }
  let csr := bodyOf ss 1
  let adopt := (((List.range (csr.length / 16)).find? (fun i => dblAt csr (2 * i) = 0x010)).map
    (fun i => dblAt csr (2 * i + 1))).getD 0
  let n := if lb.d0.getLsbD 63 then s.parkedSlot (dieOf t) c lb else none
  let age := ((n.bind (s.slot (dieOf t))).map (·.age)).getD 0
  let q := { base.readImage ss age (fmbOf lb) with
    adVer := adopt.extractLsb' 32 32, adChg := adopt.getLsbD 9, adPol := adopt.extractLsb' 6 2, adIdx := adopt.extractLsb' 0 6
    wdraw := (dblAt task 2).getLsbD 0 }
  let q := { q with recStop := q.fromRecord }
  let q := q.keepFabric base.xnum (((n.bind (s.slot (dieOf t))).map (·.fabric)).getD [])
  match n with
  | some n => (s.modSlot (dieOf t) n (fun e => { e with image := some (.sett t) }),
      { q with task := some ⟨BitVec.ofNat 11 n, lb, dblAt bs 3⟩ })
  | none => (s, q.landAll.dropTask)

/-- Dirty state for `n` bytes at a physical address, in every leaf of a context that maps them (R188, R354; DEDUCED, log 28). -/
def State.dirtyPhys (s : State) (d : Bool) (c : Ctx) (a n : Nat) : State :=
  (s.ctxLeaves d c).foldl (fun s l =>
    let size := 2 ^ pageShift l.level
    ((List.range (n / 4096 + 2)).map (fun i => (a / 4096 + i) * 4096)).foldl (fun s f =>
      if l.base ≤ f && f < l.base + size && f < a + n then
        s.setDirty none c (l.va + (f - l.base)) ⟨c, l.va, l.level, l.pte, l.at_, []⟩
      else s) s) (s.scansTables d c)

/-- The lines of an image that SETTIO loads are read for its context; one that is uncorrectable is reported with its physical address
(R387; DESIGN CHOICE, log 37). -/
def State.readsImage (s : State) (c : Ctx) (a n : Nat) : State :=
  (List.range ((n + 63) / 64)).foldl (fun s i => s.unitReads c (a + 64 * i) (nd (a + 64 * i))) s

/-- SETTIO (R354, R357, R358): the Sett's context image moves to memory or from it; an image whose CRC-64 does not match is
held so, byte for byte, and the exchange finds it (R358). A load of what is no context image is refused. -/
def execSettio (tag : BitVec 32) (d1 d2 d3 : Dbl) (s : State) : Host.Outcome State Fault Refusal :=
  let t : PTile := d1.setWidth 7
  let a := d2.toNat
  s.cmd tag (d1.toNat < 128 && d3.toNat < 2 && a % 4096 = 0) (
    if s.exchanging t then s.done tag stREFUSED 0
    else if d3 = 0 then
      match (s.tile t).sett with
      | none => s.done tag stREFUSED 0
      | some (c, q, raw) =>
        let bs := s.settImage t q raw
        if !s.reaches a bs.length then s.done tag stFAULT 0
        else (((s.dirtyPhys (dieOf t) c a bs.length).physWrite (bs.length / 64 + 2) a bs).modTile t
          (fun x => { x with sett := none })).done tag stOK 0
    else if !s.reaches a 64 then s.done tag stFAULT 0
    else
      let (s, h) := s.physRead a 64
      let len := (dblAt h 4).toNat
      if fld (dblAt h 0) 0 32 ≠ 0x4B39494D || !(dblAt h 0).getLsbD 48 || len < 64 || 0x300000 < len then s.done tag stREFUSED 0
      else if !s.reaches a len then s.done tag stFAULT 0
      else
        let (s, bs) := s.physRead a len
        let c : Ctx := (dblAt bs 2).extractLsb' 16 5
        let s := s.readsImage c a len
        let bad : Bool := crc64 (bs.drop 64) ≠ dblAt bs 7
        if !bad && !imageOk bs then s.done tag stREFUSED 0
        else
          let put (s : State) (q : TCtx) (raw : Option (List Byte)) : State := s.modTile t (fun x => { x with
            sett := some (c, q, raw), settHead := headOf bs (bodyOf (readSections (fld (dblAt bs 5) 0 16) (bs.drop 64)) 12) })
          let r := s.readContextImage t c bs
          (if bad then put s .reset (some bs) else (put r.1 r.2 none).applyHeld t c).done tag stOK 0)

/-- RESUME (R240, R357, R372): admits the task of an image as READY. It waits while 256 slots or fewer are free (R242), and
is refused where none is. ORIGIN names the die; without it the die is free (log 29). -/
def execResume (tag : BitVec 32) (d1 d2 : Dbl) (s : State) : Host.Outcome State Fault Refusal :=
  let c : Ctx := d1.setWidth 5
  s.cmd tag (d1.toNat < 32) (
    match s.readImageAt false c d2.toNat with
    | (s, none) => s.done tag stFAULT 0
    | (s, some bs) =>
      if !imageOk bs || (dblAt bs 0).getLsbD 48 then s.done tag stREFUSED (Config.freeDetail 1) else
      let ss := readSections (fld (dblAt bs 5) 0 16) (bs.drop 64)
      let task := bodyOf ss 12
      let lb := recOf ((task.drop 24).take 64)
      let origin : Option PTile := if (dblAt bs 0).getLsbD 49 then some ((dblAt bs 2).extractLsb' 0 7) else none
      let d : Bool := match origin with
        | some t => dieOf t
        | none => Config.freeDie s.fresh
      if !blockOk lb then s.done tag stREFUSED (Config.freeDetail 2)
      else if s.freeSlots d = 0 then s.done tag stREFUSED (Config.freeDetail 3)
      else if s.freeSlots d ≤ 256 then .next s
      else match s.lowestFree d with
        | none => s.done tag stREFUSED (Config.freeDetail 3)
        | some n =>
          let q := (TCtx.reset.readMatrix (bodyOf ss 6))
          let here : Bool := (dblAt task 2).extractLsb' 32 18 = s.node
          let csr := bodyOf ss 1
          let adopt := (((List.range (csr.length / 16)).find? (fun i => dblAt csr (2 * i) = 0x010)).map
            (fun i => dblAt csr (2 * i + 1))).getD 0
          let hold := if here && (dblAt task 2).getLsbD 1 then some (fld adopt 0 6, adopt.extractLsb' 32 32) else none
          let im : Image := .mem d2 origin hold (if here then q.held else [])
          let s := s.admitTask d c lb (dblAt bs 3) .resume (some im) (dblAt task 1).toNat
          (s.modSlot d n (fun e => { e with st := .ready, deps := [], gateFrom := none })).done tag stOK 0)

/-! ### Power (R385) -/

/-- Whether a tile island holds a live or Sett context. -/
def State.islandHolds (s : State) (i : Nat) : Bool :=
  (List.range 8).any (fun k =>
    let x := s.tile (BitVec.ofNat 7 (8 * i + k))
    x.live.isSome || x.sett.isSome)

/-- Whether OFF is refused for an island. -/
def State.offRefused (s : State) (i : Nat) : Bool :=
  if i < 16 then s.islandHolds i
  else if i < 18 then (List.range 8).any (fun k => (s.island (8 * (i - 16) + k)).on)
  else s.primary = (i = 19)

/-- POWER: the change starts; POWER_CHANGE_COMPLETE writes the completion. -/
def execPower (tag : BitVec 32) (d1 d2 : Dbl) (s : State) : Host.Outcome State Fault Refusal :=
  let i := d1.toNat
  let on := d2.getLsbD 3
  s.cmd tag (i < 20 && d2.toNat < 16) (
    if s.islands.any (fun e => e.2.tstop) then s.done tag stTHERMAL 0
    else if !on && s.offRefused i then s.done tag stREFUSED 0
    else .next { s with
      islands := aset s.islands i { s.island i with busy := true, ton := on, tpt := d2.setWidth 3 }
      powWait := some (BitVec.ofNat 5 i, tag) })

/-! ### Boot (R377–R381) -/

/-- The length of a firmware image, header and body (R378). -/
def firmwareLen (img : List Byte) : Nat := 128 + (dblAt img 2).toNat

/-- Whether a firmware image passes verification (R377, R378). -/
def firmwareOk (d : Bool) (img : List Byte) : Bool :=
  let len := (dblAt img 2).toNat
  dblAt img 0 = 0x4B394657#64 && len ≤ 1835008 && 128 + len ≤ img.length && (dblAt img 3).toNat % 4 = 0 &&
  (dblAt img 3).toNat < len && (img.drop 32).take 32 = List.replicate 32 0#8 &&
  edVerify (Config.fusedKey d) (img.take 64 ++ (img.drop 128).take len) ((img.drop 64).take 64)

/-- The ck of 100 ms and of 10 ms. -/
def retryCk : Nat := 180000000
/-- See `retryCk`. -/
def replyCk : Nat := 18000000

/-- A failed attempt (R377, 5). -/
def State.bootFail (s : State) (d : Bool) : State :=
  s.modDie d (fun x => { x with
    bootPhase := 3, bootTries := if x.bootTries = 0xFFFF#16 then x.bootTries else x.bootTries + 1
    bootImg := [], bootTimer := retryCk })

/-- The verification of a loaded image (R377, 3 and 4): the complex that PRIMARY.DIE names becomes primary. The image is what
its header says, header and body. -/
def State.bootVerify (s : State) (d : Bool) (img : List Byte) : State :=
  if !firmwareOk d img then s.bootFail d else
  let s := s.modDie d (fun x => { x with
    bootPhase := if s.primary = d then 4 else 5, bootImg := img.take (firmwareLen img), bootTimer := 0 })
  if s.primary = d then { s with fwver := dblAt img 1 } else s

/-- A request for a piece of an image from the peer that BOOTSRC names (R379). -/
def State.fwRequest (s : State) (d : Bool) (off tries : Nat) : State :=
  (s.modDie d (fun x => { x with bootOff := off, bootReq := tries, bootTimer := replyCk })).send
    (.fwreq d (s.bootsrc.extractLsb' 8 18) (BitVec.ofNat 32 off))

/-- The boot ROM of a complex starts an attempt from a source (R377, 1 and 2); a complex whose island is off has none (R385). -/
def State.startBoot (s : State) (d peer : Bool) : State :=
  if !s.complexOn d then s else
  let s := s.modDie d (fun x => { x with
    bootPhase := 1, bootSrc := peer, bootImg := [], bootOff := 0, bootTotal := 0, heldReset := false })
  if peer then s.fwRequest d 0 1 else s

/-- The boot ROM goes on (R377, R380), while its island is on (R385): an image from flash is loaded, and a loaded image is
verified. -/
def State.bootStep (s : State) (d : Bool) : State :=
  let x := s.die d
  if !s.complexOn d then s
  else if x.bootPhase = 1 && !x.bootSrc then s.modDie d (fun x => { x with bootPhase := 2, bootImg := Config.flashImage d })
  else if x.bootPhase = 2 then s.bootVerify d x.bootImg
  else s

/-- FWDATA (R379): the piece that the ROM awaits; the reply to the first request tells the total length, and the last piece ends
the load. -/
def execFwdata (die : Bool) (off total : BitVec 32) (data : List Byte) (s : State) : Host.Outcome State Fault Refusal :=
  let x := s.die die
  if !s.complexOn die || x.bootPhase ≠ 1 || !x.bootSrc || off.toNat ≠ x.bootOff then .next s
  else if data.isEmpty then .next (s.bootFail die)
  else
    let img := x.bootImg ++ data
    let len := if off = 0 then total.toNat else x.bootTotal
    let s := s.modDie die (fun x => { x with bootImg := img, bootTotal := len })
    if len ≤ img.length then .next (s.modDie die (fun x => { x with bootPhase := 2, bootTimer := 0 }))
    else .next (s.fwRequest die (x.bootOff + 4096) 1)

/-- FWREQ_TIMEOUT (R379): a request that went unanswered for 10 ms is sent again, three times at most. -/
def execFwreqTimeout (die : Bool) (s : State) : Host.Outcome State Fault Refusal :=
  let x := s.die die
  if !s.complexOn die || x.bootPhase ≠ 1 || !x.bootSrc || x.bootTimer ≠ 0 then .next s
  else if x.bootReq < 3 then .next (s.fwRequest die x.bootOff (x.bootReq + 1))
  else .next (s.bootFail die)

/-- BOOT_RETRY (R377, 5). -/
def execBootRetry (die : Bool) (s : State) : Host.Outcome State Fault Refusal :=
  let x := s.die die
  if x.bootPhase = 3 && x.bootTimer = 0 then .next (s.startBoot die (!x.bootSrc)) else .next s

/-- FWREQ (R373, R379): the request reaches the receive ring, and the primary's firmware answers it from its image. -/
def execFwreq (die : Bool) (off : BitVec 32) (src : BitVec 18) (s : State) : Host.Outcome State Fault Refusal :=
  match s.receive die ⟨off.setWidth 64, 0, 0, 0, 0, 0, 0, 0⟩ with
  | none => .next s
  | some s =>
    let x := s.die s.primary
    if x.bootPhase ≠ 4 then .next s
    else .next (s.send (.fwdata src off (BitVec.ofNat 32 x.bootImg.length) ((x.bootImg.drop off.toNat).take 4096)))

/-- PACKAGE_RESET (R377): every register takes its reset value, and each complex's boot ROM starts from the source that
BOOTSRC names. What memory, the links to the outside and the model's own fields hold stays (log 15). -/
def execPackageReset (s : State) : Host.Outcome State Fault Refusal :=
  let r : State := { State.reset with
    mem := s.mem, poison := s.poison, hdm := s.hdm, bootsrc := s.bootsrc, sensors := s.sensors, sent := s.sent
    sched := s.sched, fresh := s.fresh, cur := s.cur }
  .next ((r.startBoot false (s.bootsrc.getLsbD 0)).startBoot true (s.bootsrc.getLsbD 0))

/-- RESTART (R372, R377): the die's complex boots as standby; refused for the primary, and for one whose island is off (R385; DESIGN
CHOICE, log 61). -/
def execRestart (tag : BitVec 32) (d1 : Dbl) (s : State) : Host.Outcome State Fault Refusal :=
  let d := d1.getLsbD 0
  s.cmd tag (d1.toNat < 2) (
    if d = s.primary || !s.complexOn d then s.done tag stREFUSED 0 else (s.startBoot d (s.bootsrc.getLsbD 0)).done tag stOK 0)

/-- POWER_CHANGE_COMPLETE (R385): the island is at its target, and the POWER command completes; an Abatal island that is on
again boots, and one that is off has no complex. -/
def execPowerChangeComplete (island : BitVec 5) (s : State) : Host.Outcome State Fault Refusal :=
  let i := island.toNat
  let x := s.island i
  match s.powWait with
  | none => .next s
  | some (k, tag) =>
    if k ≠ island then .next s else
    let s := { s with islands := aset s.islands i { x with on := x.ton, pt := x.tpt, busy := false }, powWait := none }
    let s := if 18 ≤ i then
        if !x.ton then s.modDie (i = 19) (fun d => { d with bootPhase := 0, bootTimer := 0 })
        else if !x.on then s.startBoot (i = 19) (s.bootsrc.getLsbD 0) else s
      else s
    s.done tag stOK 0

/-- THERMAL_STOP (R385): a sensor reads; at 110 °C or more the tile islands' clocks stop, the uncore islands go to point 0,
and THERM records the stop. -/
def execThermalStop (sensor reading : Byte) (s : State) : Host.Outcome State Fault Refusal :=
  let s := { s with sensors := aset s.sensors sensor.toNat reading }
  if reading.toNat < 110 then .next s else
  let sec : BitVec 32 := s.ptime.extractLsb' 30 32
  .next { s with
    islands := (List.range 18).foldl (fun m i =>
      aset m i (if i < 16 then { s.island i with tstop := true } else { s.island i with pt := 0, tpt := 0 })) s.islands
    therm := sec ++ (0#15 ++ 1#1 ++ reading ++ sensor) }

/-- THCLR (R385). -/
def execThclr (tag : BitVec 32) (s : State) : Host.Outcome State Fault Refusal :=
  if s.sensors.any (fun e => 100 < e.2.toNat) then s.done tag stREFUSED 0
  else State.done { s with
    islands := (List.range 16).foldl (fun m i =>
      if (s.island i).tstop then aset m i { s.island i with tstop := false, pt := 0, tpt := 0 } else m) s.islands } tag stOK 0

/-! ### The summary (R382, R384) -/

/-- A map of 1,024 queue slots, die 0 first. -/
def State.queueMap (s : State) (f : Queue → Bool) : List Byte :=
  (List.range 128).map (fun i => BitVec.ofNat 8 (((List.range 8).map (fun b =>
    let n := 8 * i + b
    if f (s.queue (512 ≤ n) (n % 512)) then 2 ^ b else 0)).foldl (· + ·) 0))

/-- Tasks in flight of a context on a die. -/
def State.inFlight (s : State) (d : Bool) (c : Ctx) : Nat := ((s.die d).slots.filter (fun e => e.2.ctx = c)).length

/-- A context's 64 bytes; CCTL stands in [31:0] of D0 and TPOS in [63:32] (DESIGN CHOICE, log 30). -/
def State.summaryCtx (s : State) (c : Ctx) : List Byte :=
  let x := s.ctx c
  let work := ((s.die0.queues ++ s.die1.queues).filter (fun (e : Nat × Queue) => e.2.valid && e.2.work && e.2.res && e.2.ctx = c)).length
  dblBytes [x.cctl ||| (x.tposVal <<< 32),
    (match s.curEntry c with | some e => wvtD0 e (s.wvt c e) | none => 0), x.fqctl, nd (x.fqtail - x.fqhead).toNat,
    nd (s.inFlight false c + s.inFlight true c * 65536), nd work, 0, 0]

/-- A tile's 8 bytes. -/
def State.summaryTile (s : State) (t : PTile) : Dbl :=
  let x := s.tile t
  nd ((liveCtx x).toNat + (if x.live.isSome then 32 else 0) + (match x.sett with | some y => y.1.toNat | none => 0) * 64 +
    (if x.sett.isSome then 2048 else 0) + s.roleOf t * 4096 + (if x.pend then 16384 else 0) + s.tstateCode t * 32768)

/-- The structure under a sequence number. -/
def State.summaryBytes (s : State) (seq : Dbl) : List Byte :=
  let body := (List.range 32).flatMap (fun c => s.summaryCtx (BitVec.ofNat 5 c)) ++
    (List.range 128).flatMap (fun t => toBytes (s.summaryTile (BitVec.ofNat 7 t)) 8) ++
    s.queueMap (·.valid) ++ s.queueMap (·.res) ++ s.queueMap (·.faulted) ++
    (List.range 20).flatMap (fun i => natBytes (islandVal (s.island i)).toNat 2) ++ List.replicate 24 0
  let prim := s.primaryVal ||| (bit ((s.die (!s.primary)).bootPhase = 5) 64 <<< 2)
  dblBytes [0x4B395355, seq, s.ptime, s.fwver, prim, s.therm, 3584, crc64 body] ++ body

/-- SUMMARY. -/
def execSummary (tag : BitVec 32) (d1 : Dbl) (s : State) : Host.Outcome State Fault Refusal :=
  let a := d1.toNat
  s.cmd tag (a % 64 = 0) (
    if !s.reaches a 3584 then s.done tag stFAULT 0
    else
      let s := { s with sumseq := s.sumseq + 1 }
      (s.physWrite 58 a (s.summaryBytes s.sumseq)).done tag stOK 0)

/-- SUMMARY_REQUEST (R384). -/
def execSummaryRequest (die : Bool) (requester : Dbl) (seq : BitVec 32) (tag : Dbl) (s : State) :
    Host.Outcome State Fault Refusal :=
  let mac := toBytes requester 8 ++ natBytes seq.toNat 4 ++ List.replicate 4 0#8
  if !s.mgmtset || cmac8 s.mgmtkey mac ≠ tag || seq.toNat ≤ s.sumlast.toNat then
    .next ({ s with sumnack := if s.sumnack = 0xFFFFFFFF#32 then s.sumnack else s.sumnack + 1 }.send (.nack die 1 requester seq))
  else
    let s := { s with sumlast := seq, sumseq := s.sumseq + 1 }
    let body := natBytes seq.toNat 4 ++ List.replicate 4 0#8 ++ s.summaryBytes s.sumseq
    .next (s.send (.summary die seq body (cmac8 s.mgmtkey body)))

/-! ### QRES and CTXDOWN -/

/-- Write records into ring indices from `i` upward. -/
def State.ringWrite (s : State) (d : Bool) (n : Nat) : BitVec 32 → List Rec → Except Cause State
  | _, [] => .ok s
  | i, r :: rest => do
    let (s, pa) ← s.ringAt d n i accW
    (s.homeWrite pa (recBytes r)).ringWrite d n (i + 1) rest

/-- QRES (R284): the slot stands in [8:0] of D1 and the die in [9], as in a handle (PRESUMED, log 30). A slot that holds no
queue is REFUSED, and a queue that has the residence already is OK (DESIGN CHOICE, log 35). Where a ring line cannot be
written, no record is, and the translations that were completed stand (R395). -/
def execQres (tag : BitVec 32) (d1 d2 : Dbl) (s : State) : Host.Outcome State Fault Refusal :=
  let n := (d1.extractLsb' 0 9).toNat
  let d := d1.getLsbD 9
  let q := s.queue d n
  let resident := ((s.die d).queues.filter (fun e => e.2.valid && e.2.res)).length
  s.cmd tag (d1.toNat < 1024 && d2.toNat < 2) (
    if !q.valid then s.done tag stREFUSED 0
    else if d2 = 1 then
      if q.res then s.done tag stOK 0
      else if 256 ≤ resident then s.done tag stREFUSED 0
      else (s.modQueue d n (fun q => { q with res := true, recs := [], refill := none, spill := 0 < q.rcount })).done tag stOK 0
    else if !q.res then s.done tag stOK 0
    else if q.rcap < q.rcount + q.recs.length then s.done tag stREFUSED 0
    else
      let head := q.head - BitVec.ofNat 32 q.recs.length
      match s.ringWrite d n head q.recs with
      | .error _ =>
        (s.touchAll d q.ctx accW ((List.range q.recs.length).map (fun i => q.ringVa (head + BitVec.ofNat 32 i)))).done tag stFAULT 0
      | .ok s => (s.modQueue d n (fun q => { q with res := false, recs := [], refill := none, head := head })).done tag stOK 0)

/-- A tile context whose context goes down: no task, no record and no version held, for every entry is FREE (R311, R315); its other
registers stand, and its pending vector writes do not land (DESIGN CHOICE, log 31). -/
def TCtx.down (c : TCtx) : TCtx := { c.dropTask with xrecs := [], adVer := 0, vloads := [], vstores := [] }

/-- What CTXDOWN leaves of a tile (log 31): the context stays where it is, live or in the Sett, without its tasks. -/
def Tile.without (x : Tile) (c : Ctx) : Tile :=
  let x := if x.live = some c then
      { x with
        tc := x.tc.down, reqs := [], pend := false, due := false, sreq := none, prog := 0, cycles := 0
        stop := match x.stop with | .abatal _ => .none | z => z }
    else x
  match x.sett with
  | some (k, q, bad) => if k = c then { x with sett := some (k, q.down, bad) } else x
  | none => x

/-- CTXDOWN (R307, R311, R372). It waits while a tile on which the context is live holds trap records for a full ring (R373). -/
def execCtxdown (tag : BitVec 32) (d1 : Dbl) (s : State) : Host.Outcome State Fault Refusal :=
  let c : Ctx := d1.setWidth 5
  let die (x : Die) : Die := { x with
    slots := (x.slots.filter (fun (e : Nat × TSlot) => e.2.ctx ≠ c))
    lost := x.lost.filter (fun n => (aget x.slots n).any (fun e => e.ctx ≠ c)), adds := x.adds.filter (fun (a : AddMsg) => a.ctx ≠ c) }
  s.cmd tag (d1.toNat < 32) (
    if (s.liveTiles c).any (fun t => !(s.tile t).records.isEmpty) then .next s else
    let s := (s.liveTiles c).foldl (fun s t => s.writeBackSet t) s
    let s := { s with
      die0 := die s.die0, die1 := die s.die1
      tiles := s.tiles.map (fun (e : Nat × Tile) => (e.1, e.2.without c))
      flying := s.flying.filter (fun (a : AddMsg) => a.ctx ≠ c)
      arrivals := s.arrivals.filter (fun (a : Ctx × BitVec 6 × Arrival) => a.1 ≠ c) }
    (s.modCtx c (fun x => { x with
      valid := false, tpos := 0, tlen := 0, migrating := false
      wvt := x.wvt.map (fun (e : Nat × Wvt) => (e.1, { e.2 with st := .free, cur := false, holders := 0 }))
      mboxes := x.mboxes.map (fun (e : Nat × Mailbox) => (e.1, { e.2 with live := 0 })) })).done tag stOK 0)

/-! ### Migration (R388–R390) -/

/-- The 4 KiB units of a leaf, each with its address and whether it is dirty (R186, R376). -/
def State.leafUnits (s : State) (d : Bool) (c : Ctx) (l : Leaf) : List (Nat × Nat × Bool) :=
  let x := s.ctx c
  let first := x.dbwin.toNat % 2 ^ 40
  let n := x.dbwin.toNat / 2 ^ 40 * 64
  (List.range (2 ^ pageShift l.level / 4096)).map (fun i =>
    let pa := l.base + 4096 * i
    let f := pa / 4096
    let dirty : Bool := if l.level = 0 then l.pte.getLsbD (8 + i)
      else x.dbovf || (first ≤ f && f < first + n &&
        (s.phys d (x.dbbase.toNat + (f - first) / 8)).getLsbD ((f - first) % 8))
    (pa, l.va + 4096 * i, dirty))

/-- The units of a context, all of them or the dirty ones. -/
def State.ctxUnits (s : State) (d : Bool) (c : Ctx) (all : Bool) : List (Nat × Nat) :=
  ((s.ctxLeaves d c).flatMap (fun l => s.leafUnits d c l)).filterMap (fun u => if all || u.2.2 then some (u.1, u.2.1) else none)

/-- The lines of a context's dirty bitmap that a scan for its units reads, each with the address of the first unit whose bit it
holds (R376). -/
def State.bitmapLines (s : State) (d : Bool) (c : Ctx) : List (Nat × Nat) :=
  let x := s.ctx c
  let first := x.dbwin.toNat % 2 ^ 40
  let n := x.dbwin.toNat / 2 ^ 40 * 64
  ((s.ctxLeaves d c).filter (fun l => l.level ≠ 0)).flatMap (fun l =>
    (List.range (2 ^ pageShift l.level / 4096)).filterMap (fun i =>
      let f := l.base / 4096 + i
      let a := x.dbbase.toNat + (f - first) / 8
      if first ≤ f && f < first + n && (i = 0 || f = first || (a % 64 = 0 && (f - first) % 8 = 0)) then
        some (a, l.va + 4096 * i) else none))

/-- A scan of a context's dirty state (R389, 1) reads its tables and its dirty bitmap, whose lines may be uncorrectable (R387). -/
def State.scansDirty (s : State) (d : Bool) (c : Ctx) : State :=
  if s.poison.isEmpty then s else
  (s.bitmapLines d c).foldl (fun s p => s.unitReads c p.1 (nd p.2)) (s.scansTables d c)

/-- Clear the D bits of a context's 32 KiB pages (R389, 1). -/
def State.clearDirty (s : State) (d : Bool) (c : Ctx) : State :=
  (s.ctxLeaves d c).foldl (fun s l =>
    if l.level = 0 && l.pte.extractLsb' 8 8 ≠ 0#8 then
      let s := s.bothHome (lineOf l.at_)
      s.homeWrite l.at_ (toBytes (ofBytes (memBytes s.mem l.at_ 8) &&& 0xFFFFFFFFFFFF00FF#64) 8)
    else s) s

/-- The stream identifier of an engine. -/
def Migr.stream (g : Migr) : BitVec 32 := g.mdest.extractLsb' 32 32

/-- Send a chunk (R390): 4,096 bytes, under the next counter. -/
def State.sendChunk (s : State) (d : Bool) (va kind len : Nat) (plain : List Byte) : State :=
  let g := (s.die d).migr
  let header := dblBytes [nd va, nd g.round, nd kind, nd len]
  let nonce := natBytes g.stream.toNat 4 ++ natBytes g.counter 8
  let body := (List.range 4096).map (fun i => plain.getD i 0)
  let (cipher, tag) := gcmSeal g.mkey nonce header body
  let s := s.modDie d (fun x => { x with migr := { x.migr with counter := x.migr.counter + 1 } })
  s.send (.chunk (g.mdest.extractLsb' 0 18) ⟨g.stream, nd g.counter, header, cipher, tag⟩)

/-- A change to a die's migration engine. -/
def State.modMigr (s : State) (d : Bool) (f : Migr → Migr) : State := s.modDie d (fun x => { x with migr := f x.migr })

/-- MIGR (R389): the engine starts; it is refused while a stream runs, for an engine runs one at a time (R388; DESIGN CHOICE,
log 43). -/
def execMigr (tag : BitVec 32) (d1 : Dbl) (s : State) : Host.Outcome State Fault Refusal :=
  let d := d1.getLsbD 0
  let g := (s.die d).migr
  s.cmd tag (d1.toNat < 2) (
    if 1 ≤ g.phase && g.phase ≤ 3 then s.done tag stREFUSED 0
    else ((s.modMigr d (fun g => { g with phase := 1, round := 0, dirty := 0, counter := 0, todo := [], stage := 0 })).modDie d
      (fun x => { x with acked := 0 })).done tag stOK 0)

/-- The destination acknowledges `n` chunks of a die's stream, of those sent (R389, 4). -/
def State.chunkAck (s : State) (d : Bool) (n : Nat) : State :=
  s.modDie d (fun x => { x with acked := min x.migr.counter (x.acked + n) })

/-- The destination has aborted a die's stream (R390): it ends here too, and the package takes the context's traffic again
(DEDUCED, log 39). -/
def State.chunkAbort (s : State) (d : Bool) : State :=
  let g := (s.die d).migr
  if 1 ≤ g.phase && g.phase ≤ 4 then
    (s.modMigr d (fun g => { g with phase := 5, todo := [] })).modCtx (g.mctx.setWidth 5) (fun x => { x with migrating := false })
  else s

/-- The next unit of a round is read and sent (R389, 3). -/
def State.sendUnit4K (s : State) (d : Bool) (u : Nat × Nat) (rest : List (Nat × Nat)) : State :=
  let (s, bs) := s.physRead u.1 4096
  let c : Ctx := (s.die d).migr.mctx.setWidth 5
  let s := (List.range 64).foldl (fun s i => s.unitReads c (u.1 + 64 * i) (nd (u.2 + 64 * i))) s
  (s.sendChunk d u.2 0 4096 bs).modMigr d (fun g => { g with todo := rest })

/-- The context chunk (R389): the context block up to 0x1BFF and the context's queue descriptors, in pieces of 4,096 bytes
(DEDUCED, log 30). -/
def State.contextChunk (s : State) (d : Bool) (c : Ctx) : State :=
  let block := (List.range 0x380).flatMap (fun i => toBytes (s.contextVal c (8 * i)) 8)
  let queues := [s.die0, s.die1].flatMap (fun x => x.queues.flatMap (fun e =>
    if e.2.valid && e.2.ctx = c then (List.range 6).flatMap (fun r => toBytes (e.2.val r) 8) else []))
  let all := block ++ queues
  (List.range ((all.length + 4095) / 4096)).foldl (fun s i =>
    let p := (all.drop (4096 * i)).take 4096
    s.sendChunk d (4096 * i) 1 p.length p) s

/-- Whether a context has stopped (R389): no task of it runs, none of its context images is in a Sett, no copy record of it is
incomplete, and the Spoors have appended what they can of the records that its tasks have handed over (R322). -/
def State.stopped (s : State) (c : Ctx) : Bool :=
  !s.spoorCan false c && !s.spoorCan true c &&
  (tilesOf false ++ tilesOf true).all (fun t =>
    let x := s.tile t
    (x.live ≠ some c || (x.tc.task.isNone && x.tc.xrecs.isEmpty)) && (x.sett.map (·.1)) ≠ some c)

/-- The context images of a context that are held in Setts go to their areas (R375, R389). A write that faults leaves the tile
stopped, with a record of cause PAGE; once Abatal has resumed the tile, the image is written again. -/
def State.moveSetts (s : State) (c : Ctx) : State :=
  (tilesOf false ++ tilesOf true).foldl (fun s t =>
    match (s.tile t).sett with
    | some (k, q, raw) =>
      let halted : Bool := match (s.tile t).stop with | .abatal _ => true | _ => false
      if k ≠ c || s.exchanging t || halted then s else
      let bs := s.settImage t q raw
      let va := (s.ctx c).imgbase.toNat + (4096 + t.toNat) * 0x300000
      match s.writeImage (dieOf t) c (bs.length / 64 + 1) va bs with
      | (s, none) => s.modTile t (fun x => { x with sett := none })
      | (s, some f) => s.imageFault t f
    | none => s) s

/-- MIGRATION_ROUND (R389): the next step of a die's stream: a scan, its invalidate, or a unit; the stop of the context; the
final round, which scans, clears and invalidates as each round after the first does. A round after the first begins when the
destination has acknowledged every chunk of the one before it. -/
def execMigrationRound (die : Bool) (s : State) : Host.Outcome State Fault Refusal :=
  let g := (s.die die).migr
  let c : Ctx := g.mctx.setWidth 5
  match g.phase with
  | 1 =>
    match g.stage, g.todo with
    | 0, _ =>
      if g.round = 0 then .next ((s.scansTables die c).modMigr die (fun g => { g with todo := s.ctxUnits die c true, stage := 2 }))
      else if (s.die die).acked < g.counter then .next s
      else
        let dirty := s.ctxUnits die c false
        let s := s.scansDirty die c
        if dirty.length ≤ g.mthr.toNat || g.mmaxr.toNat ≤ g.round then
          .next (s.modMigr die (fun g => { g with phase := 2, dirty := dirty.length, stage := 0 }))
        else .next ((s.clearDirty die c).modMigr die (fun g => { g with todo := dirty, dirty := dirty.length, stage := 1 }))
    | 1, _ => .next ((s.invalidate c 0 0).modMigr die (fun g => { g with stage := 2 }))
    | _, u :: rest => .next (s.sendUnit4K die u rest)
    | _, [] => .next (s.modMigr die (fun g => { g with round := g.round + 1, stage := 0 }))
  | 2 =>
    if g.stage = 0 then
      .next (((s.liveTiles c).foldl (fun s t => s.raise t 3) s).modMigr die (fun g => { g with stage := 1 }))
    else
      let s := s.moveSetts c
      if s.stopped c then
        let units := s.ctxUnits die c false
        let s := (s.scansDirty die c).clearDirty die c
        .next ((s.modCtx c (fun x => { x with migrating := true })).modMigr die
          (fun g => { g with phase := 3, todo := units, dirty := units.length, stage := 1 }))
      else .next s
  | 3 =>
    if g.stage = 1 then .next ((s.invalidate c 0 0).modMigr die (fun g => { g with stage := 2 })) else
    match g.todo with
    | u :: rest => .next (s.sendUnit4K die u rest)
    | [] => .next (((s.contextChunk die c).sendChunk die 0 3 0 []).modMigr die (fun g => { g with phase := 4 }))
  | _ => .next s

/-- MIGRATION_CHUNK (R389, R390): the tag is verified before anything is written; a unit is written through the destination's
own context, and each chunk that is taken is acknowledged; a failed tag or a write that faults aborts the stream at both ends,
and of an aborted stream nothing more is written. -/
def execMigrationChunk (die : Bool) (c : Chunk) (s : State) : Host.Outcome State Fault Refusal :=
  let g := (s.die die).migr
  let ctx : Ctx := g.mctx.setWidth 5
  if c.stream ≠ g.stream || g.phase = 5 then .next s else
  let nonce := natBytes c.stream.toNat 4 ++ toBytes c.counter 8
  let abort (s : State) : State := (s.modMigr die (fun g => { g with phase := 5 })).send (.abort die g.stream)
  let taken (s : State) : State := s.send (.chunkAck die g.stream c.counter)
  match gcmOpen g.mkey nonce c.header c.cipher c.tag with
  | none => .next (abort s)
  | some plain =>
    let va := (dblAt c.header 0).toNat
    if (dblAt c.header 2) ≠ 0 then .next (taken s)
    else match s.tableWriteVa die ctx va plain with
      | some s => .next (taken s)
      | none => .next (abort (s.homeTouch die ctx va plain.length accW))

end Sys2Proof.Machine
end

