-- ==== Sys2Proof/Machine/Dispatch.lean ====
section
/-! DEFINITION. The meaning of every instruction, event, command and window store: one arm per constructor. -/

namespace Sys2Proof.Machine

/-- Run one instruction on the acting tile State.cur, or let one event happen. -/
def exec (i : Instr) (s : State) : Host.Outcome State Fault Refusal :=
  match i with
  | .add d a b ka kb => Sys2Proof.Machine.execAdd d a b ka kb s
  | .sub d a b ka kb => Sys2Proof.Machine.execSub d a b ka kb s
  | .mul d a b ka kb => Sys2Proof.Machine.execMul d a b ka kb s
  | .mulh d a b ka kb => Sys2Proof.Machine.execMulh d a b ka kb s
  | .mulhu d a b ka kb => Sys2Proof.Machine.execMulhu d a b ka kb s
  | .divs d a b ka kb => Sys2Proof.Machine.execDivs d a b ka kb s
  | .divu d a b ka kb => Sys2Proof.Machine.execDivu d a b ka kb s
  | .rems d a b ka kb => Sys2Proof.Machine.execRems d a b ka kb s
  | .remu d a b ka kb => Sys2Proof.Machine.execRemu d a b ka kb s
  | .and d a b ka kb => Sys2Proof.Machine.execAnd d a b ka kb s
  | .or d a b ka kb => Sys2Proof.Machine.execOr d a b ka kb s
  | .xor d a b ka kb => Sys2Proof.Machine.execXor d a b ka kb s
  | .shl d a b ka kb => Sys2Proof.Machine.execShl d a b ka kb s
  | .shr d a b ka kb => Sys2Proof.Machine.execShr d a b ka kb s
  | .sha d a b ka kb => Sys2Proof.Machine.execSha d a b ka kb s
  | .min d a b ka kb => Sys2Proof.Machine.execMin d a b ka kb s
  | .max d a b ka kb => Sys2Proof.Machine.execMax d a b ka kb s
  | .minu d a b ka kb => Sys2Proof.Machine.execMinu d a b ka kb s
  | .maxu d a b ka kb => Sys2Proof.Machine.execMaxu d a b ka kb s
  | .mov d a ka => Sys2Proof.Machine.execMov d a ka s
  | .neg d a ka => Sys2Proof.Machine.execNeg d a ka s
  | .not d a ka => Sys2Proof.Machine.execNot d a ka s
  | .clz d a ka => Sys2Proof.Machine.execClz d a ka s
  | .popc d a ka => Sys2Proof.Machine.execPopc d a ka s
  | .sextb d a ka => Sys2Proof.Machine.execSextb d a ka s
  | .sexth d a ka => Sys2Proof.Machine.execSexth d a ka s
  | .sextw d a ka => Sys2Proof.Machine.execSextw d a ka s
  | .zextb d a ka => Sys2Proof.Machine.execZextb d a ka s
  | .zexth d a ka => Sys2Proof.Machine.execZexth d a ka s
  | .zextw d a ka => Sys2Proof.Machine.execZextw d a ka s
  | .addi d a ka imm => Sys2Proof.Machine.execAddi d a ka imm s
  | .andi d a ka imm => Sys2Proof.Machine.execAndi d a ka imm s
  | .ori d a ka imm => Sys2Proof.Machine.execOri d a ka imm s
  | .xori d a ka imm => Sys2Proof.Machine.execXori d a ka imm s
  | .shli d a ka sh => Sys2Proof.Machine.execShli d a ka sh s
  | .shri d a ka sh => Sys2Proof.Machine.execShri d a ka sh s
  | .shai d a ka sh => Sys2Proof.Machine.execShai d a ka sh s
  | .li d imm => Sys2Proof.Machine.execLi d imm s
  | .lih d imm => Sys2Proof.Machine.execLih d imm s
  | .drop q => Sys2Proof.Machine.execDrop q s
  | .qclr q => Sys2Proof.Machine.execQclr q s
  | .qlen d a => Sys2Proof.Machine.execQlen d a s
  | .cmp a b ka kb cc => Sys2Proof.Machine.execCmp a b ka kb cc s
  | .cmpi a ka cc imm => Sys2Proof.Machine.execCmpi a ka cc imm s
  | .b follow off => Sys2Proof.Machine.execB follow off s
  | .bt pk cqv follow off => Sys2Proof.Machine.execBt pk cqv follow off s
  | .bf pk cqv follow off => Sys2Proof.Machine.execBf pk cqv follow off s
  | .call follow off => Sys2Proof.Machine.execCall follow off s
  | .ret follow => Sys2Proof.Machine.execRet follow s
  | .loop lc follow off => Sys2Proof.Machine.execLoop lc follow off s
  | .lcset lc a ka => Sys2Proof.Machine.execLcset lc a ka s
  | .spushm first last => Sys2Proof.Machine.execSpushm first last s
  | .spopm first last => Sys2Proof.Machine.execSpopm first last s
  | .ld m => Sys2Proof.Machine.execLd m s
  | .lds m => Sys2Proof.Machine.execLds m s
  | .lda m => Sys2Proof.Machine.execLda m s
  | .st m => Sys2Proof.Machine.execSt m s
  | .stl m => Sys2Proof.Machine.execStl m s
  | .aadd m => Sys2Proof.Machine.execAadd m s
  | .aand m => Sys2Proof.Machine.execAand m s
  | .aor m => Sys2Proof.Machine.execAor m s
  | .axor m => Sys2Proof.Machine.execAxor m s
  | .amin m => Sys2Proof.Machine.execAmin m s
  | .amax m => Sys2Proof.Machine.execAmax m s
  | .aminu m => Sys2Proof.Machine.execAminu m s
  | .amaxu m => Sys2Proof.Machine.execAmaxu m s
  | .axchg m => Sys2Proof.Machine.execAxchg m s
  | .cas m => Sys2Proof.Machine.execCas m s
  | .fenceFull scope cmask => Sys2Proof.Machine.execFenceFull scope cmask s
  | .fenceSs scope cmask => Sys2Proof.Machine.execFenceSs scope cmask s
  | .fenceLl scope cmask => Sys2Proof.Machine.execFenceLl scope cmask s
  | .twait ctr st a scope ka => Sys2Proof.Machine.execTwait ctr st a scope ka s
  | .tadd ctr st a scope ka => Sys2Proof.Machine.execTadd ctr st a scope ka s
  | .tread d ctr => Sys2Proof.Machine.execTread d ctr s
  | .waitc nl ns nc nt => Sys2Proof.Machine.execWaitc nl ns nc nt s
  | .garv slot st => Sys2Proof.Machine.execGarv slot st s
  | .gwait slot st => Sys2Proof.Machine.execGwait slot st s
  | .gsync slot st => Sys2Proof.Machine.execGsync slot st s
  | .fork v m x => Sys2Proof.Machine.execFork v m x s
  | .exit nsucc abs wri a => Sys2Proof.Machine.execExit nsucc abs wri a s
  | .parm d w => Sys2Proof.Machine.execParm d w s
  | .winset n => Sys2Proof.Machine.execWinset n s
  | .enq d a b ka wait => Sys2Proof.Machine.execEnq d a b ka wait s
  | .deq d a ka wait => Sys2Proof.Machine.execDeq d a ka wait s
  | .qstat d a ka => Sys2Proof.Machine.execQstat d a ka s
  | .wpub a ka => Sys2Proof.Machine.execWpub a ka s
  | .wadoptToken d => Sys2Proof.Machine.execWadoptToken d s
  | .wadoptSeq d => Sys2Proof.Machine.execWadoptSeq d s
  | .whold d a ka => Sys2Proof.Machine.execWhold d a ka s
  | .wdrop a ka => Sys2Proof.Machine.execWdrop a ka s
  | .wqry d a ka => Sys2Proof.Machine.execWqry d a ka s
  | .spapp a ka => Sys2Proof.Machine.execSpapp a ka s
  | .acpt d a b ka kb n => Sys2Proof.Machine.execAcpt d a b ka kb n s
  | .jfrag follow => Sys2Proof.Machine.execJfrag follow s
  | .trap code => Sys2Proof.Machine.execTrap code s
  | .csrr d csr => Sys2Proof.Machine.execCsrr d csr s
  | .csrw csr a ka => Sys2Proof.Machine.execCsrw csr a ka s
  | .outcomePop e => Sys2Proof.Machine.execOutcomePop e s
  | .vadd vd va vb m ty r => Sys2Proof.Machine.execVadd vd va vb m ty r s
  | .vsub vd va vb m ty r => Sys2Proof.Machine.execVsub vd va vb m ty r s
  | .vmul vd va vb m ty r => Sys2Proof.Machine.execVmul vd va vb m ty r s
  | .vmin vd va vb m ty r => Sys2Proof.Machine.execVmin vd va vb m ty r s
  | .vmax vd va vb m ty r => Sys2Proof.Machine.execVmax vd va vb m ty r s
  | .vabs vd va m ty r => Sys2Proof.Machine.execVabs vd va m ty r s
  | .vneg vd va m ty r => Sys2Proof.Machine.execVneg vd va m ty r s
  | .vscale vd va vb m r => Sys2Proof.Machine.execVscale vd va vb m r s
  | .vfma vd va vb vc m ty r => Sys2Proof.Machine.execVfma vd va vb vc m ty r s
  | .vfms vd va vb vc m ty r => Sys2Proof.Machine.execVfms vd va vb vc m ty r s
  | .vfnma vd va vb vc m ty r => Sys2Proof.Machine.execVfnma vd va vb vc m ty r s
  | .vrcp vd va m r => Sys2Proof.Machine.execVrcp vd va m r s
  | .vrsq vd va m r => Sys2Proof.Machine.execVrsq vd va m r s
  | .vsqrt vd va m r => Sys2Proof.Machine.execVsqrt vd va m r s
  | .vexp2 vd va m r => Sys2Proof.Machine.execVexp2 vd va m r s
  | .vlog2 vd va m r => Sys2Proof.Machine.execVlog2 vd va m r s
  | .vcvt vd va vb m ty sub r => Sys2Proof.Machine.execVcvt vd va vb m ty sub r s
  | .vcvtL6 vd va vb m fzi => Sys2Proof.Machine.execVcvtL6 vd va vb m fzi s
  | .vand vd va vb m => Sys2Proof.Machine.execVand vd va vb m s
  | .vor vd va vb m => Sys2Proof.Machine.execVor vd va vb m s
  | .vxor vd va vb m => Sys2Proof.Machine.execVxor vd va vb m s
  | .vnot vd va m => Sys2Proof.Machine.execVnot vd va m s
  | .vshl vd va vb m => Sys2Proof.Machine.execVshl vd va vb m s
  | .vshr vd va vb m => Sys2Proof.Machine.execVshr vd va vb m s
  | .vsha vd va vb m => Sys2Proof.Machine.execVsha vd va vb m s
  | .vsel vd va vb m => Sys2Proof.Machine.execVsel vd va vb m s
  | .vmov vd va m => Sys2Proof.Machine.execVmov vd va m s
  | .vcmp md va vb m ty cc fzi => Sys2Proof.Machine.execVcmp md va vb m ty cc fzi s
  | .vcmpq all va vb m ty cc fzi => Sys2Proof.Machine.execVcmpq all va vb m ty cc fzi s
  | .vtestz va m ty fzi => Sys2Proof.Machine.execVtestz va m ty fzi s
  | .vtestn va m ty fzi => Sys2Proof.Machine.execVtestn va m ty fzi s
  | .vmand d a b => Sys2Proof.Machine.execVmand d a b s
  | .vmor d a b => Sys2Proof.Machine.execVmor d a b s
  | .vmxor d a b => Sys2Proof.Machine.execVmxor d a b s
  | .vmandn d a b => Sys2Proof.Machine.execVmandn d a b s
  | .vmnot d a => Sys2Proof.Machine.execVmnot d a s
  | .vmset d => Sys2Proof.Machine.execVmset d s
  | .vmclr d => Sys2Proof.Machine.execVmclr d s
  | .vrsum vd va m ty seg r => Sys2Proof.Machine.execVrsum vd va m ty seg r s
  | .vrmax vd va m ty seg => Sys2Proof.Machine.execVrmax vd va m ty seg s
  | .vrmin vd va m ty seg => Sys2Proof.Machine.execVrmin vd va m ty seg s
  | .vramax vd va m seg => Sys2Proof.Machine.execVramax vd va m seg s
  | .vscan vd va m ty seg r => Sys2Proof.Machine.execVscan vd va m ty seg r s
  | .vperm vd va vb m => Sys2Proof.Machine.execVperm vd va vb m s
  | .vrot vd va m n => Sys2Proof.Machine.execVrot vd va m n s
  | .vbcast vd va m k => Sys2Proof.Machine.execVbcast vd va m k s
  | .vsort vd va vb m => Sys2Proof.Machine.execVsort vd va vb m s
  | .vrand vd va vb m f32 => Sys2Proof.Machine.execVrand vd va vb m f32 s
  | .vli vd m imm => Sys2Proof.Machine.execVli vd m imm s
  | .vai n imm => Sys2Proof.Machine.execVai n imm s
  | .vaadd n imm => Sys2Proof.Machine.execVaadd n imm s
  | .vaparm n w => Sys2Proof.Machine.execVaparm n w s
  | .vld m => Sys2Proof.Machine.execVld m s
  | .vst m => Sys2Proof.Machine.execVst m s
  | .vldx m => Sys2Proof.Machine.execVldx m s
  | .vstx m => Sys2Proof.Machine.execVstx m s
  | .vmovq d va lane => Sys2Proof.Machine.execVmovq d va lane s
  | .vectorLoadComplete ix => Sys2Proof.Machine.execVectorLoadComplete ix s
  | .pendingWriteLand ix => Sys2Proof.Machine.execPendingWriteLand ix s
  | .mlit6 n => Sys2Proof.Machine.execMlit6 n s
  | .mlit16 n => Sys2Proof.Machine.execMlit16 n s
  | .mlit32 n => Sys2Proof.Machine.execMlit32 n s
  | .mparm w => Sys2Proof.Machine.execMparm w s
  | .mma bf16 fzi fzo bver acc => Sys2Proof.Machine.execMma bf16 fzi fzo bver acc s
  | .mmas fzi fzo bver => Sys2Proof.Machine.execMmas fzi fzo bver s
  | .mzero z => Sys2Proof.Machine.execMzero z s
  | .xlit6 n => Sys2Proof.Machine.execXlit6 n s
  | .xlit16 n => Sys2Proof.Machine.execXlit16 n s
  | .xlit32 n => Sys2Proof.Machine.execXlit32 n s
  | .xparm w => Sys2Proof.Machine.execXparm w s
  | .xfeed q => Sys2Proof.Machine.execXfeed q s
  | .xfmt bank => Sys2Proof.Machine.execXfmt bank s
  | .xbcst publish => Sys2Proof.Machine.execXbcst publish s
  | .xtadd ctr => Sys2Proof.Machine.execXtadd ctr s
  | .copyLineLand rec unit => Sys2Proof.Machine.execCopyLineLand rec unit s
  | .xtaddAdd rec => Sys2Proof.Machine.execXtaddAdd rec s
  | .timelineAdd ix => Sys2Proof.Machine.execTimelineAdd ix s
  | .queueSlotFill t ix => Sys2Proof.Machine.execQueueSlotFill t ix s
  | .storeBufferDrain t ix => Sys2Proof.Machine.execStoreBufferDrain t ix s
  | .l2Eviction die line => Sys2Proof.Machine.execL2Eviction die line s
  | .trapEntry t => Sys2Proof.Machine.execTrapEntry t s
  | .stall t => Sys2Proof.Machine.execStall t s
  | .taskDispatch die => Sys2Proof.Machine.execTaskDispatch die s
  | .taskCompletion die slot => Sys2Proof.Machine.execTaskCompletion die slot s
  | .taskAging die slot => Sys2Proof.Machine.execTaskAging die slot s
  | .workQueueAdmission die => Sys2Proof.Machine.execWorkQueueAdmission die s
  | .refillStart die slot => Sys2Proof.Machine.execRefillStart die slot s
  | .refillComplete die slot => Sys2Proof.Machine.execRefillComplete die slot s
  | .mailboxArrival ix => Sys2Proof.Machine.execMailboxArrival ix s
  | .spoorAppend die ctx => Sys2Proof.Machine.execSpoorAppend die ctx s
  | .forcedSave t => Sys2Proof.Machine.execForcedSave t s
  | .settExchange t => Sys2Proof.Machine.execSettExchange t s
  | .settExchangeComplete t => Sys2Proof.Machine.execSettExchangeComplete t s
  | .mcheck t tval => Sys2Proof.Machine.execMcheck t tval s
  | .notify die handle tail seq tag => Sys2Proof.Machine.execNotify die handle tail seq tag s
  | .enqueue die handle seq tag rec => Sys2Proof.Machine.execEnqueue die handle seq tag rec s
  | .mailboxWrite die ctxByte mboxByte seq tag payload => Sys2Proof.Machine.execMailboxWrite die ctxByte mboxByte seq tag payload s
  | .summaryRequest die requester seq tag => Sys2Proof.Machine.execSummaryRequest die requester seq tag s
  | .xredvUnit u => Sys2Proof.Machine.execXredvUnit u s
  | .xbcstUnit u => Sys2Proof.Machine.execXbcstUnit u s
  | .unitAcknowledge t rec unit => Sys2Proof.Machine.execUnitAcknowledge t rec unit s
  | .ualinkStore ctx va op => Sys2Proof.Machine.execUalinkStore ctx va op s
  | .benrekReceive die msg => Sys2Proof.Machine.execBenrekReceive die msg s
  | .migrationChunk die c => Sys2Proof.Machine.execMigrationChunk die c s
  | .migrationRound die => Sys2Proof.Machine.execMigrationRound die s
  | .fwreq die off src => Sys2Proof.Machine.execFwreq die off src s
  | .fwdata die off total data => Sys2Proof.Machine.execFwdata die off total data s
  | .fwreqTimeout die => Sys2Proof.Machine.execFwreqTimeout die s
  | .bootRetry die => Sys2Proof.Machine.execBootRetry die s
  | .hbeatWrite h which v => Sys2Proof.Machine.execHbeatWrite h which v s
  | .claim h v => Sys2Proof.Machine.execClaim h v s
  | .thermalStop sensor reading => Sys2Proof.Machine.execThermalStop sensor reading s
  | .powerChangeComplete island => Sys2Proof.Machine.execPowerChangeComplete island s
  | .cmdtailWrite h v => Sys2Proof.Machine.execCmdtailWrite h v s
  | .inval tag d1 d2 d3 => Sys2Proof.Machine.execInval tag d1 d2 d3 s
  | .txinv tag d1 d2 d3 => Sys2Proof.Machine.execTxinv tag d1 d2 d3 s
  | .tresume tag d1 => Sys2Proof.Machine.execTresume tag d1 s
  | .tsave tag d1 => Sys2Proof.Machine.execTsave tag d1 s
  | .cmdFence tag d1 => Sys2Proof.Machine.execCmdFence tag d1 s
  | .unfence tag d1 => Sys2Proof.Machine.execUnfence tag d1 s
  | .settx tag d1 => Sys2Proof.Machine.execSettx tag d1 s
  | .settio tag d1 d2 d3 => Sys2Proof.Machine.execSettio tag d1 d2 d3 s
  | .preq tag d1 d2 d3 => Sys2Proof.Machine.execPreq tag d1 d2 d3 s
  | .failset tag d1 d2 d3 d4 => Sys2Proof.Machine.execFailset tag d1 d2 d3 d4 s
  | .resume tag d1 d2 => Sys2Proof.Machine.execResume tag d1 d2 s
  | .power tag d1 d2 => Sys2Proof.Machine.execPower tag d1 d2 s
  | .summary tag d1 => Sys2Proof.Machine.execSummary tag d1 s
  | .qres tag d1 d2 => Sys2Proof.Machine.execQres tag d1 d2 s
  | .ctxdown tag d1 => Sys2Proof.Machine.execCtxdown tag d1 s
  | .restart tag d1 => Sys2Proof.Machine.execRestart tag d1 s
  | .migr tag d1 => Sys2Proof.Machine.execMigr tag d1 s
  | .thclr tag => Sys2Proof.Machine.execThclr tag s
  | .cctlWrite h ctx v => Sys2Proof.Machine.execCctlWrite h ctx v s
  | .tposWrite h ctx v => Sys2Proof.Machine.execTposWrite h ctx v s
  | .wvtAllocate h ctx e v => Sys2Proof.Machine.execWvtAllocate h ctx e v s
  | .queueCreate h die slot v => Sys2Proof.Machine.execQueueCreate h die slot v s
  | .mailboxBind h ctx m v => Sys2Proof.Machine.execMailboxBind h ctx m v s
  | .mgmtkeyWrite h high v => Sys2Proof.Machine.execMgmtkeyWrite h high v s
  | .sltailWrite h v => Sys2Proof.Machine.execSltailWrite h v s
  | .groupEntryRewrite h die g d0 d1 d2 => Sys2Proof.Machine.execGroupEntryRewrite h die g d0 d1 d2 s
  | .registerWrite h off v => Sys2Proof.Machine.execRegisterWrite h off v s
  | .consumerIndexWrite h off v => Sys2Proof.Machine.execConsumerIndexWrite h off v s
  | .creditGrant vc node n => Sys2Proof.Machine.execCreditGrant vc node n s
  | .unitRefusal t rec unit crc => Sys2Proof.Machine.execUnitRefusal t rec unit crc s
  | .nop => Sys2Proof.Machine.execNop s
  | .rdv => Sys2Proof.Machine.execRdv s
  | .yield => Sys2Proof.Machine.execYield s
  | .chkp => Sys2Proof.Machine.execChkp s
  | .scall => Sys2Proof.Machine.execScall s
  | .tret => Sys2Proof.Machine.execTret s
  | .vnop => Sys2Proof.Machine.execVnop s
  | .mnop => Sys2Proof.Machine.execMnop s
  | .mdup => Sys2Proof.Machine.execMdup s
  | .mdrop => Sys2Proof.Machine.execMdrop s
  | .mswap => Sys2Proof.Machine.execMswap s
  | .mover => Sys2Proof.Machine.execMover s
  | .madd => Sys2Proof.Machine.execMadd s
  | .msub => Sys2Proof.Machine.execMsub s
  | .mshl => Sys2Proof.Machine.execMshl s
  | .mmul => Sys2Proof.Machine.execMmul s
  | .mdrain => Sys2Proof.Machine.execMdrain s
  | .mepi => Sys2Proof.Machine.execMepi s
  | .mtopk => Sys2Proof.Machine.execMtopk s
  | .matrixRecordStart => Sys2Proof.Machine.execMatrixRecordStart s
  | .pinnedWindowGrant => Sys2Proof.Machine.execPinnedWindowGrant s
  | .matrixDrain => Sys2Proof.Machine.execMatrixDrain s
  | .xnop => Sys2Proof.Machine.execXnop s
  | .xdup => Sys2Proof.Machine.execXdup s
  | .xdrop => Sys2Proof.Machine.execXdrop s
  | .xswap => Sys2Proof.Machine.execXswap s
  | .xover => Sys2Proof.Machine.execXover s
  | .xadd => Sys2Proof.Machine.execXadd s
  | .xsub => Sys2Proof.Machine.execXsub s
  | .xshl => Sys2Proof.Machine.execXshl s
  | .xmul => Sys2Proof.Machine.execXmul s
  | .xcopy => Sys2Proof.Machine.execXcopy s
  | .xcopy2 => Sys2Proof.Machine.execXcopy2 s
  | .xgath => Sys2Proof.Machine.execXgath s
  | .xscat => Sys2Proof.Machine.execXscat s
  | .xmeta => Sys2Proof.Machine.execXmeta s
  | .xfill => Sys2Proof.Machine.execXfill s
  | .xredv => Sys2Proof.Machine.execXredv s
  | .xkvc => Sys2Proof.Machine.execXkvc s
  | .sliceRequest => Sys2Proof.Machine.execSliceRequest s
  | .sliceBoundary => Sys2Proof.Machine.execSliceBoundary s
  | .packageReset => Sys2Proof.Machine.execPackageReset s

end Sys2Proof.Machine
end

