-- ==== Sys2Proof/Machine/Turns.lean ====
section
/-! DEFINITION. What a turn does: the step of an engine's walk, the command at CMDHEAD, an event of the table, the passing of a ck,
and what the environment does to the package. -/

namespace Sys2Proof.Machine

/-! ### Commands and events -/

/-- A command of the command ring (R372). -/
def isCommand : Instr → Bool
  | .inval .. => true
  | .txinv .. => true
  | .tresume .. => true
  | .tsave .. => true
  | .cmdFence .. => true
  | .unfence .. => true
  | .settx .. => true
  | .settio .. => true
  | .preq .. => true
  | .failset .. => true
  | .resume .. => true
  | .power .. => true
  | .summary .. => true
  | .qres .. => true
  | .ctxdown .. => true
  | .restart .. => true
  | .migr .. => true
  | .thclr .. => true
  | _ => false

/-- An event of the package or a store of a hart: neither an encoded instruction, which an engine runs, nor a command, which
the command ring gives; a message as its rule describes it (R379, R386). -/
def isEvent (i : Instr) : Bool := (encode i).isEmpty && !isCommand i && wellFormed i

/-! ### The walk -/

/-- An engine takes the next step of its walk (R37, R49, R50): it runs the instruction that the parcels it has reached decode
to, or traps ILLEGAL with them. -/
def State.walk (s : State) (t : PTile) (e : Eng) : Host.Outcome State Fault Refusal :=
  match s.walkTo t e with
  | .stop s => .next s
  | .parcels s ps =>
    match decode ps with
    | .ok i => exec i s
    | .error _ => .next (s.takeTrap t e .fault ⟨cILLEGAL, parcelsVal ps⟩)

/-! ### The passing of a ck -/

/-- The counter of its own tile that a copy record adds to (R205, R235). -/
def XRec.ownCtr (s : State) (t : PTile) (r : XRec) : Option Nat :=
  if r.kind = kFEED then none
  else if r.kind = kXTADD then
    match r.target with
    | (0, _, _) => some r.ctr.toNat
    | (1, tile, _) => if s.mapTile (liveCtx (s.tile t)) tile = some t then some r.ctr.toNat else none
    | _ => none
  else some r.ctr.toNat

/-- Whether an incomplete record of the tile names the awaited counter (R396). -/
def State.recordAwaited (s : State) (t : PTile) (n : Nat) : Bool :=
  (s.tc t).xrecs.any (fun r => XRec.ownCtr s t r = some n) || (s.tc t).mq.any (fun r => r.counter = some n)

/-- Whether an engine of a tile stands in a wait that counts as a stall, or at an RDV or EXIT that has not completed, and the next
step of its walk, taken in a new ck, would leave it there: its wait's condition is still unmet (R225, R396). -/
def State.standsOn (s : State) (t : PTile) (e : Eng) : Bool :=
  ((s.tc t).eng e).stands &&
  match (s.modTc t (fun c => { c with c := { c.c with mark := c.seq } })).walk t e with
  | .next s' => ((s'.tc t).eng e).stands
  | _ => true

/-- The progress count of a tile after one more ck (R396). -/
def State.nextProg (s : State) (t : PTile) : Nat :=
  let x := s.tile t
  if x.tc.task.isNone || x.stop ≠ .none || !s.clocked t then x.prog
  else if (match s.awaitedCtr t with | some n => s.recordAwaited t n | none => false) then 0
  else if x.tc.walkers.all (s.standsOn t) then x.prog + 1
  else x.prog

/-- A tile after one more ck: its deadlines (R350), its progress count (R396), its task's tile-cycles (R288), and the place in
the order of the control stream at which the new ck begins (R100). -/
def State.tickTile (s : State) (t : PTile) (x : Tile) : Tile :=
  { x with
    reqs := x.reqs.map (fun r => { r with left := r.left - 1 })
    prog := s.nextProg t
    cycles := if x.tc.task.isSome && x.stop = .none && s.clocked t then x.cycles + 1 else x.cycles
    tc := { x.tc with c := { x.tc.c with mark := x.tc.seq } } }

/-- Whether a ready task's count towards its next PRIO level runs (R245): its context is live on a tile of its role. -/
def State.ages (s : State) (d : Bool) (e : TSlot) : Bool :=
  e.st = .ready && (tilesOf d).any (fun t =>
    (s.tile t).live = some e.ctx && (roleField e.lb = 0 || roleField e.lb = s.roleOf t))

/-- A die after one more ck: the counts of ready tasks, the age of its HBEAT (R381) and its boot ROM's timer (R377, R379). -/
def State.tickDie (s : State) (d : Bool) (x : Die) : Die :=
  { x with
    slots := x.slots.map (fun (e : Nat × TSlot) =>
      if s.ages d e.2 then (e.1, { e.2 with readyCk := e.2.readyCk + 1 }) else e)
    hbAge := x.hbAge + 1
    bootTimer := x.bootTimer - 1 }

/-- What a Thicket still has to do in a ck (R245, R246, R305): the completions that are due, each in its place, then the withdrawals,
then every dispatch that can be made (DEDUCED, log 27). -/
def State.closeDie (s : State) (d : Bool) : State := ((s.completeAll d 64).withdrawals d).dispatchAll d 2112

/-- Both Thickets come to the end of their ck. -/
def State.closeCk (s : State) : State := (s.closeDie false).closeDie true

/-- One ck passes, its withdrawals made (R246): five ninths of a nanosecond (R2, R343). -/
def State.tick (s : State) : State :=
  let s := (s.withdrawals false).withdrawals true
  { s with
    ns9 := s.ns9 + 5
    tiles := s.tiles.map (fun e => (e.1, s.tickTile (BitVec.ofNat 7 e.1) e.2))
    die0 := s.tickDie false s.die0
    die1 := s.tickDie true s.die1
    did := [] }

/-- The PTIME servo sets the timebase (R386); the order in which tiles became free stands (R245). -/
def State.setTime (s : State) (ns9 : Nat) : State :=
  { s with ns9 := ns9, tiles := s.tiles.map (fun e => (e.1, { e.2 with freed := e.2.freed + (ns9 - s.ns9 : Int) })) }

/-! ### Turns -/

/-- The tile whose clocks a turn needs, of those turns that do not ask themselves whether the tile runs: of a step of its own units,
an add to a counter that it holds, live or in its Sett, a trap entry, a save or an exchange (R222, R385). -/
def State.clockOf (s : State) : Turn → Option PTile
  | .vstore t _ => some t
  | .fillText t _ => some t
  | .capSet t => some t
  | .dropLine t _ => some t
  | .dropText t _ => some t
  | .dropTlb t _ => some t
  | .event t i =>
    match i with
    | .vectorLoadComplete _ => some t
    | .pendingWriteLand _ => some t
    | .queueSlotFill p _ => some p
    | .storeBufferDrain p _ => some p
    | .trapEntry p => some p
    | .stall p => some p
    | .settExchangeComplete p => some p
    | .unitAcknowledge p _ _ => some p
    | .unitRefusal p _ _ _ => some p
    | .timelineAdd k => (s.flying[k]?).bind (fun a => if (s.onCtx a.t a.ctx id).isSome then some a.t else none)
    | _ => none
  | _ => none

/-- Whether a command has written its completion, or goes on without the ring: its exchange, its power change or its
completion record is awaited. -/
def State.commandTaken (s s' : State) : Bool :=
  s'.cplprod ≠ s.cplprod || s'.cplWait.isSome || s'.powWait.isSome || s'.settWait.isSome

/-- The record of the command at CMDHEAD (R372). -/
def State.commandAt (s : State) : Rec :=
  recOf (memBytes s.mem ((s.cmdbase.toNat % 2 ^ 52) / 64 * 64 + 64 * (s.cmdhead.toNat % 2 ^ s.cmdlog2.toNat)) 64)

/-- The part serves the command at CMDHEAD (R372): one at a time, in ring order. -/
def State.serveCommand (s : State) : Host.Outcome State Fault Refusal :=
  if s.cmdhead = s.cmdtail || s.cplWait.isSome || s.powWait.isSome || s.settWait.isSome then .next s else
  let out := match decodeCommand s.commandAt with
    | some i => exec i s
    | none => .next (s.completion (s.commandAt.d0.extractLsb' 32 32) stBADCMD 0)
  match out with
  | .next s' => .next (if s.commandTaken s' then { s' with cmdhead := s'.cmdhead + 1 } else s')
  | o => o

/-- What a turn does where clocks run. -/
def State.act (s : State) : Turn → Host.Outcome State Fault Refusal
  | .walk t e => s.walk t e
  | .event t i => if isEvent i then exec i { s with cur := t } else .next s
  | .serve => s.serveCommand
  | .ck => .next s.tick
  | .read t num => .next (s.copyRead t num)
  | .kstep t => .next (s.kstep t)
  | .vstore t i =>
    match (s.tc t).vstores[i]? with
    | some v => .next (if vstoreReady (s.tc t) v then s.performVStore t v else s)
    | none => .next s
  | .fillText t va => .next (s.fillText t va)
  | .capSet t => .next (s.capSet t)
  | .exit t => .next (s.retireExit t)
  | .boot d => .next (s.bootStep d)
  | .report => .next s.reportPoison
  | .soft d => .next (s.softError d)
  | .lose d pa => .next (s.loseLine d pa)
  | .loseScr t off => .next (s.loseScr t off)
  | .home d line => .next ((s.bringHome d line).giveUp d line)
  | .chunkAck d n => .next (s.chunkAck d n)
  | .chunkAbort d => .next (s.chunkAbort d)
  | .bootsrc v => .next { s with bootsrc := v &&& 0x3FFFF01 }
  | .hdm ranges => .next { s with hdm := ranges }
  | .servo ns9 => .next (s.setTime ns9)
  | .hartRead h off size => .next (s.hartRead h off size)
  | .hartStore h off size v => .next (s.hartStore h off size v)
  | .hartMem d n pa data => .next (s.hartMem d n pa data)
  | .hartFence d n => .next (s.hartFence d n)
  | .dropLine t line => .next (s.modTile t (fun x => { x with dcache := adel x.dcache line }))
  | .dropText t i => .next (s.modTile t (fun x => { x with text := x.text.eraseIdx i }))
  | .dropTlb t i => .next (s.modTile t (fun x => { x with tlb := x.tlb.eraseIdx i }))
  | .dropShared d i => .next (s.modDie d (fun x => { x with stlb := x.stlb.eraseIdx i }))

/-- What a turn does: nothing, where it needs the clocks of a tile that a thermal stop holds, which keeps all of its state (R385). -/
def State.turn (s : State) (u : Turn) : Host.Outcome State Fault Refusal :=
  if (s.clockOf u).any s.frozen then .next s else s.act u

end Sys2Proof.Machine
end

