-- ==== Sys2Proof/Machine/Order.lean ====
section
/-! DEFINITION. What may happen next, where the schedule does not say (R397): the turns that a rule forbids at the moment, the
order that R131, R223, R246 and R286 give to the events of one ck, and the choices of the Thicket (R245). -/

namespace Sys2Proof.Machine

/-! ### Turns that a rule forbids at the moment -/

/-- The tiles whose progress count has reached 2^24 with every wait still unmet, so that they trap STALL now (R225, R396). -/
def State.stalled (s : State) : List PTile :=
  (tilesOf false ++ tilesOf true).filter (fun t =>
    2 ^ 24 ≤ (s.tile t).prog && !s.frozen t && (s.tc t).task.isSome && (s.tile t).stop = .none &&
      (s.tc t).walkers.any (fun e => ((s.tc t).eng e).stands) && (s.tc t).walkers.all (s.standsOn t))

/-- Whether the unit of a copy record may land: none before it is in flight whose landing would fault, for the units that have
landed form an unbroken run (R352). -/
def State.landsInOrder (s : State) (t : PTile) (rec unit : Nat) : Bool :=
  match (s.tc t).xrec rec with
  | none => true
  | some r => r.flight.all (fun e => unit ≤ e.1 || (match s.landUnit t r e.1 e.2.1 with
    | .error (.trap _) => false
    | _ => true))

/-- Whether no older task's completion is due on a die in this ck (R246). -/
def State.oldestDue (s : State) (d : Bool) (n : Nat) : Bool :=
  (s.dues d false).all (fun e => e.1 = n || (s.slot d n).all (fun x => x.age ≤ e.2.2.age))

/-- The tiles that have an MCHECK to take for a line that an access of theirs has read, each with its address, and those whose
exchange reads a scratchpad with an uncorrectable line (R387). -/
def State.faulty (s : State) : List (PTile × Dbl) :=
  (tilesOf false ++ tilesOf true).filterMap (fun t =>
    let x := s.tile t
    (x.bad <|> (if s.exchanging t then x.spoiled.head?.map (fun l => 0x00FF00000000 + 64 * l) else none)).map
      (fun a => (t, BitVec.ofNat 64 a)))

/-- The ready tasks whose count towards the next PRIO level is full (R245). -/
def State.ripe (s : State) : List (Bool × Nat) :=
  [false, true].flatMap (fun d =>
    ((s.die d).slots.filter (fun e => e.2.st = .ready && 2 ^ 20 ≤ e.2.readyCk)).map (fun e => (d, e.1)))

/-- Whether the line of an STL must wait in L2 for lines whose writes it comes after (R195). -/
def State.blocked (s : State) (d : Bool) (line : Nat) : Bool := (s.before d line).any (fun l => (s.dirtyLines d).contains l)

/-- Whether a turn may happen now: a set of L2 that holds more lines than its 16 ways gives one up first, for which a line that
another is after goes before it or with it (R12, R195); an MCHECK, a stall and a rise of PRIO that are due come first (R387, R396,
R245); and the order of evictions, landings and completions, which a dispatch follows (R195, R246, R352). No ck passes before the requests and
the boundary of the slice table that are due in it (R359, R383). -/
def State.allowed (s : State) (u : Turn) : Bool :=
  let full := (s.overfull false).map (fun l => (false, l)) ++ (s.overfull true).map (fun l => (true, l))
  if !full.isEmpty then
    match u with
    | .event _ (.l2Eviction d line) => !s.blocked d line && full.any (fun e => e.1 = d && (s.covered d e.2).contains line)
    | .home d line => full.contains (d, line)
    | _ => false
  else if !s.faulty.isEmpty then
    match u with
    | .event _ (.mcheck t v) => s.faulty.contains (t, v)
    | _ => false
  else if !s.stalled.isEmpty then
    match u with
    | .event _ (.stall t) => s.stalled.contains t
    | _ => false
  else if !s.ripe.isEmpty then
    match u with
    | .event _ (.taskAging d n) => s.ripe.contains (d, n.toNat)
    | _ => false
  else
    match u with
    | .event t (.copyLineLand rec unit) => s.landsInOrder t rec unit
    | .event _ (.taskCompletion d n) => s.oldestDue d n.toNat
    | .event _ (.settExchangeComplete t) => !s.due (dieOf t)
    | .event _ (.l2Eviction d line) => !s.blocked d line
    | .ck => s.toAsk.isEmpty && !s.boundaryDue
    | _ => true

/-! ### The order within a ck (R131, R223, R246, R286) -/

/-- Whether the control engine of a tile has gone past an instruction of two parcels that it stood at, with no trap. -/
def retired (s s' : State) (t : PTile) : Bool :=
  (s'.tc t).c.pc = pcAdd (s.tc t).c.pc 2 && (s'.tc t).inh = (s.tc t).inh

/-- An event's place at a Thicket (R246): a completion or failure by the task's age, then the withdrawals, which a dispatch makes
before it, and the dispatch. A task that leaves without having run is withdrawn where the withdrawals are made, and else it fails. -/
def thicketRank (s s' : State) (d : Bool) : Option (Nat × Nat) :=
  let runs (s : State) (n : Nat) (e : TSlot) : Bool := (s.slot d n).any (fun x => x.age = e.age && x.st = .running)
  let began := (s'.die d).slots.any (fun e => e.2.st = .running && !runs s e.1 e.2)
  let withdrew : Bool := !(s.die d).lost.isEmpty && (s'.die d).lost.isEmpty
  let gone := (s.die d).slots.filter (fun e =>
    (e.2.st = .running || !withdrew) && !(s'.slot d e.1).any (fun x => x.age = e.2.age))
  match gone with
  | [] => if began || withdrew then some (1, 0) else none
  | g :: r => some (0, r.foldl (fun m e => min m e.2.age) g.2.age)

/-- The records that a queue holds. -/
def Queue.holds (q : Queue) : Nat := q.recs.length + q.rcount

/-- The queue at which a turn takes a record or brings one, taken and placed or not, with whether it is a take (R286): that of a DEQ
or an ENQ which retires, or of a message that is authentic. -/
def State.handles (s s' : State) (u : Turn) : Option (Bool × Bool × Nat) :=
  let message (h : Dbl) : Option (Bool × Bool × Nat) :=
    ((s.liveQueue h).filter (fun q => (s.queue q.1 q.2).lastseq ≠ (s'.queue q.1 q.2).lastseq)).map (fun q => (false, q))
  match u with
  | .event _ (.notify _ h ..) => message h
  | .event _ (.enqueue _ h ..) => message h
  | .walk t .c =>
    match s.walkTo t .c with
    | .parcels w ps =>
      let named (take : Bool) (a : BitVec 4) (ka : Bool) : Option (Bool × Bool × Nat) :=
        match (w.tc t).readQ [(a, ka)] with
        | .ok vs =>
          if retired s s' t then (s.liveQueue (vs.getD 0 0)).map (fun q => (take, q)) else none
        | .error _ => none
      match decode ps with
      | .ok (.enq _ a _ ka _) => named false a ka
      | .ok (.deq _ a ka _) => named true a ka
      | _ => none
    | _ => none
  | _ => none

/-- An event's place at a hardware queue (R286): a refill's completion, then takes, then arrivals, those of tiles by PTILE and
before Benrek messages; `here` where the turn brings the queue a record, or takes one from it. -/
def queueRank (u : Turn) (here : Option Bool) (q q' : Queue) : Option (Nat × Nat) :=
  match u with
  | .event _ (.refillComplete ..) => if q = q' then none else some (0, 0)
  | .event _ (.workQueueAdmission _) => if q'.holds < q.holds then some (1, 0) else none
  | .event _ (.notify ..) => here.map (fun _ => (2, 128))
  | .event _ (.enqueue ..) => here.map (fun _ => (2, 128))
  | .walk t _ => here.map (fun take => if take then (1, 0) else (2, t.toNat))
  | _ => none

/-- An event's place at a feeder queue (R131): a drain's push before a feed's. -/
def feedRank (u : Turn) (n n' : Nat) : Option (Nat × Nat) :=
  if n' ≤ n then none else
  match u with
  | .event _ (.copyLineLand ..) => some (1, 0)
  | _ => some (0, 0)

/-- The unit of counter n of tile t. -/
def counterUnit (t : PTile) (n : Nat) : Nat := 4096 + 32 * t.toNat + n

/-- The counter that a walk of the control engine reads, for a TREAD, or a TWAIT whose test ends its wait. -/
def State.readsCounter (s s' : State) (u : Turn) : Option Nat :=
  match u with
  | .walk t .c =>
    match s.walkTo t .c with
    | .parcels _ ps =>
      if !retired s s' t then none else
      match decode ps with
      | .ok (.tread _ n) => some (counterUnit t n.toNat)
      | .ok (.twait n ..) => some (counterUnit t n.toNat)
      | _ => none
    | _ => none
  | _ => none

/-- The events at counters (R223): the adds that reach one counter in one ck apply together, so that none comes after a read that has
seen another of them. -/
def counterMarks (u : Turn) (s s' : State) : List (Nat × Nat × Nat) :=
  let adds := s'.tiles.flatMap (fun e =>
    let t : PTile := BitVec.ofNat 7 e.1
    let c := s.tc t
    if (s.tile t).live ≠ e.2.live || c.task ≠ e.2.tc.task then [] else
    ((List.range 32).filter (fun n => c.ctr n < e.2.tc.ctr n)).map (fun n => (counterUnit t n, 1, 0)))
  let reads := (s.readsCounter s' u).toList.filter (fun k => s.did.any (fun m => m.1 = k))
  adds ++ reads.map (fun k => (k, 2, 0))

/-- The units that a turn has an ordered event at, each with the event's place: queue slot n of die d is unit 512 d + n, the
Thicket of die d 1024 + d, feeder queue q of tile t 2048 + 4 t + q, and counter n of tile t 4096 + 32 t + n. -/
def marks (u : Turn) (s s' : State) : List (Nat × Nat × Nat) :=
  let at_ (k : Nat) (r : Option (Nat × Nat)) : List (Nat × Nat × Nat) := (r.map (fun p => (k, p))).toList
  let thickets := [false, true].flatMap (fun d => at_ (1024 + d.toNat) (thicketRank s s' d))
  let goal := s.handles s' u
  let queues := [false, true].flatMap (fun d =>
    (s'.die d).queues.flatMap (fun e => at_ (512 * d.toNat + e.1)
      (queueRank u ((goal.filter (fun g => g.2 = (d, e.1))).map (·.1)) (s.queue d e.1) e.2)))
  let feeds := s'.tiles.flatMap (fun e => (List.range 4).flatMap (fun q =>
    let len (c : TCtx) : Nat := ((aget c.feed q).getD []).length
    at_ (2048 + 4 * e.1 + q) (feedRank u (len (s.tc (BitVec.ofNat 7 e.1))) (len e.2.tc))))
  thickets ++ queues ++ feeds ++ counterMarks u s s'

/-- What the units have handled, with one more event. -/
def marked (did : List (Nat × Nat × Nat)) (m : Nat × Nat × Nat) : List (Nat × Nat × Nat) :=
  did.filter (fun p => p.1 ≠ m.1) ++ [m]

/-- A turn of the free order (R397): it does not happen where a rule forbids it now, or where the ck is past its place. A ck ends
with what its Thickets still have to do; it ends as well where an MCHECK that is to come is past its place in it (R246, R387). -/
def State.freeStep (s : State) (u : Turn) : Host.Outcome State Fault Refusal :=
  if !s.allowed u then .next s else
  if u = .ck then s.closeCk.turn .ck else
  match s.turn u with
  | .next s' =>
    let ms := marks u s s'
    if ms.all (inPlace s.did) then .next { s' with did := ms.foldl marked s'.did }
    else if s.faulty.isEmpty then .next s else s.closeCk.turn .ck
  | o => o

end Sys2Proof.Machine
end

