-- ==== Sys2Proof/Machine/Step.lean ====
section
/-! DEFINITION. One step of the package: the next turn (R397) and what the unit it names does. -/

namespace Sys2Proof.Machine

/-- One step: the turn at the head of the schedule, taken as it stands; or, where the schedule is empty, the free turn, in the
order that the rules give (log 3). -/
def step (s : State) : Host.Outcome State Fault Refusal :=
  match s.sched with
  | u :: rest => { s with sched := rest, fresh := s.fresh + 1 }.turn u
  | [] =>
    match Config.freeTurn s.fresh with
    | some u => { s with fresh := s.fresh + 1 }.freeStep u
    | none => .next { s with fresh := s.fresh + 1 }

/-! ### Placing one instruction -/

/-- The address of the text that withFetchWord places, virtual and physical alike. -/
def textAt : Nat := 0x10000

/-- The engine an instruction's first parcel names (R34). -/
def engOf (p0 : Parcel) : Eng :=
  match (p0Eng p0).toNat with | 0 => .c | 1 => .v | 2 => .m | _ => .x

/-- A running task on tile 0 whose text begins at textAt (log 16). -/
def placedTask : TSlot where
  ctx := 0
  lb := ⟨BitVec.ofNat 64 textAt, 0, 0, 0, 0, 0, 0, 0⟩
  lba := 0
  src := .resume
  age := 0
  st := .running
  prio := 0
  readyCk := 0
  deps := []
  gateFrom := none
  settled := false
  dropped := []
  ran := false
  wdraw := false
  exited := false
  absRange := none
  image := none
  tile := some 0
  cycles := 0
  rels := []
  refused := false
  handed := 0
  fabric := []

/-- The package with one instruction placed as the next that runs: page tables of context 0 that map the lowest GiB onto
itself, the parcels at textAt, and a task of context 0 running on tile 0 whose engine walks there next (log 16). -/
def State.withFetchWord (s : State) (nbits w : Nat) : State :=
  let w := w % 2 ^ nbits
  let ps := [parcelOf w 0, parcelOf w 1, parcelOf w 2, parcelOf w 3]
  let e := engOf (parcelOf w 0)
  let mem := memWrite s.mem 0x1000 (natBytes 0x2001 8)
  let mem := memWrite mem 0x2000 (natBytes 0x3001 8)
  let mem := memWrite mem 0x3000 (natBytes 0x9F 8)
  let mem := memWrite mem textAt (ps.flatMap (fun p => natBytes p.toNat 2))
  let s := { s with mem := mem, sched := [.walk 0 e] }
  let s := s.modCtx 0 (fun x => { x with valid := true, ptroot := 0x1000 })
  let s := s.modDie false (fun x => { x with l2 := [], stlb := [], slots := aset x.slots 0 placedTask })
  let s := s.modTile 0 (fun x => { x with live := some 0, stop := .none, text := [], tlb := [] })
  (s.startSlot 0 0 placedTask).modTc 0 (fun c => c.modEng e (fun g => { g with pc := BitVec.ofNat 48 textAt, walking := true }))

end Sys2Proof.Machine
end

