-- ==== Sys2Proof/Safety.lean ====
section
/-! DEFINITION. What a safe run is, the invariant of the package's memory, and the terms in which the statements speak:
what an instruction reads, what retiring it changes, and what a step leaves as it was. -/

namespace Sys2Proof.Machine

/-! ### Safe runs -/

/-- An outcome is a next state: the machine goes on. -/
def goesOn (o : Host.Outcome State Fault Refusal) : Bool :=
  match o with
  | .next _ => true
  | .fault _ => false
  | .refused _ => false

/-- A run of any number of steps from `s` goes on. -/
def State.Safe (s : State) : Prop := ∀ k, goesOn (Sys2Proof.core.run k s) = true

/-- The home memory stands in its canonical form: addresses rising, no byte that an unlisted address reads as. -/
def State.MemWf (s : State) : Prop := Memory.wf s.mem = true

/-! ### What an instruction needs and does -/

/-- The outcome of an instruction. -/
abbrev Out := Host.Outcome State Fault Refusal

/-- The context state of the acting tile. -/
abbrev State.me (s : State) : TCtx := s.tc s.cur

/-- The queue reads `rs` of an instruction are ready and give `vs` (R98). -/
def State.Reads (s : State) (rs : List Src) (vs : List Dbl) : Prop := s.me.readQ rs = .ok vs

/-- With its reads `rs`, an instruction may push into the queues `ws` (R99). -/
def State.Room (s : State) (rs : List Src) (ws : List (BitVec 4)) : Prop := s.me.roomQ rs ws = .ok ()

/-- The vector sources `codes` have arrived and give `vs` (R128, R131), and the exposure check of R130 finds nothing in the
lanes `reads`. -/
def State.VReads (s : State) (reads : List (BitVec 6 × Mask)) (codes : List (BitVec 6)) (vs : List (List Lane)) : Prop :=
  s.me.exposeCheck reads = .ok () ∧ s.me.vsrcs codes = .ok vs

/-- Lane i of the k-th vector source. -/
def lane (vs : List (List Lane)) (k i : Nat) : Lane := (vs.getD k []).getD i 0

/-- An instruction of `n` parcels of engine `e` retires: the package `s'` that its effect leaves, with the engine gone on. -/
def State.retired (s s' : State) (e : Eng) (n : Nat) : Out := .next (s'.advance s.cur e n true)

/-- The same where the effect is a change to the acting tile's context state. -/
def State.retire (s : State) (e : Eng) (n : Nat) (f : TCtx → TCtx) : Out := s.retired (s.modTc s.cur f) e n

/-- A control instruction that pops its sources `rs` and pushes `v` into queue `d`. -/
def State.pushes (s : State) (n : Nat) (rs : List Src) (d : BitVec 4) (v : Dbl) : Out :=
  s.retire .c n (fun c => (c.popQ rs).pushQ d v)

/-- A vector instruction that writes the active lanes: lane i takes `f i`, exposed `l` ticks, and one tick passes. -/
def State.lanewise (s : State) (n : Nat) (vd : BitVec 6) (m : Msk) (codes : List (BitVec 6)) (l : Nat) (f : Nat → FR) : Out :=
  s.retire .v n (fun c =>
    { (c.vpops codes).expose vd.toNat (c.active m)
        ((List.range 512).map (fun i => if (c.active m).getLsbD i then (f i).bits else 0)) l with
      vflags := (List.range 512).foldl (fun a i => if (c.active m).getLsbD i then a ||| (f i).fl else a) c.vflags
      tick := c.tick + 1 })

/-- A vector instruction that writes every lane. -/
def State.wholly (s : State) (vd : BitVec 6) (codes : List (BitVec 6)) (l : Nat) (vals : List Lane) (fl : Fl) : Out :=
  s.retire .v 3 (fun c =>
    { (c.vpops codes).expose vd.toNat allLanes vals l with vflags := c.vflags ||| fl, tick := c.tick + 1 })

/-- The outcome queue of every follower that FOLLOW names, with the address at which the control engine goes on (R103). -/
def TCtx.tell (c : TCtx) (follow : BitVec 3) (dest : Pc) : TCtx :=
  (c.followers follow).foldl (fun c e => c.modEng e (fun g => { g with oq := g.oq ++ [dest] })) c

/-- A branch of the acting tile may push its outcomes: every follower's queue of 16 has room (R103), and what the push as a
release covers is performed (R83). -/
def State.MayTell (s : State) (follow : BitVec 3) : Prop :=
  (∀ e, e ∈ s.me.followers follow → (s.me.eng e).oq.length < 16) ∧
  (s.me.followers follow = [] ∨ s.controlQuiet s.cur = true)

/-- A branch of `n` parcels retires: the followers are told, and the control engine goes on at `dest`. -/
def State.branches (s : State) (n : Nat) (c : TCtx) (follow : BitVec 3) (dest : Pc) : Out :=
  .next ((s.modTc s.cur (fun _ => c.tell follow dest)).goTo s.cur .c n dest)

/-- The reads, the destination and the parcels of an instruction that reads queues and pushes one result. -/
def computeForm : Instr → Option (List Src × BitVec 4 × Nat)
  | .add d a b ka kb | .sub d a b ka kb | .mul d a b ka kb | .mulh d a b ka kb | .mulhu d a b ka kb
  | .divs d a b ka kb | .divu d a b ka kb | .rems d a b ka kb | .remu d a b ka kb | .and d a b ka kb
  | .or d a b ka kb | .xor d a b ka kb | .shl d a b ka kb | .shr d a b ka kb | .sha d a b ka kb
  | .min d a b ka kb | .max d a b ka kb | .minu d a b ka kb | .maxu d a b ka kb => some ([(a, ka), (b, kb)], d, 2)
  | .mov d a ka | .neg d a ka | .not d a ka | .clz d a ka | .popc d a ka | .sextb d a ka | .sexth d a ka
  | .sextw d a ka | .zextb d a ka | .zexth d a ka | .zextw d a ka | .addi d a ka _ | .andi d a ka _ | .ori d a ka _
  | .xori d a ka _ | .shli d a ka _ | .shri d a ka _ | .shai d a ka _ => some ([(a, ka)], d, 2)
  | .li d _ => some ([], d, 3)
  | .lih d _ => some ([(d, false)], d, 3)
  | .qlen d _ => some ([], d, 2)
  | _ => none

/-- The destination, the sources in pop order and the lanes read of each, of a vector instruction that computes one vector;
`act` gives the active lanes, and `vs` the sources' lanes for a permute that reads where another source says. -/
def vectorForm (act : Msk → Mask) (vs : List (List Lane)) :
    Instr → Option (BitVec 6 × List (BitVec 6) × List (BitVec 6 × Mask))
  | .vadd vd va vb m _ _ | .vsub vd va vb m _ _ | .vmul vd va vb m _ _ | .vmin vd va vb m _ _ | .vmax vd va vb m _ _
  | .vscale vd va vb m _ | .vand vd va vb m | .vor vd va vb m | .vxor vd va vb m | .vshl vd va vb m | .vshr vd va vb m
  | .vsha vd va vb m => some (vd, [va, vb], [(va, act m), (vb, act m)])
  | .vfma vd va vb vc m _ _ | .vfms vd va vb vc m _ _ | .vfnma vd va vb vc m _ _ =>
    some (vd, [va, vb, vc], [(va, act m), (vb, act m), (vc, act m)])
  | .vabs vd va m _ _ | .vneg vd va m _ _ | .vrcp vd va m _ | .vrsq vd va m _ | .vsqrt vd va m _ | .vexp2 vd va m _
  | .vlog2 vd va m _ | .vnot vd va m | .vmov vd va m | .vrsum vd va m _ _ _ | .vscan vd va m _ _ _ | .vrmax vd va m _ _
  | .vrmin vd va m _ _ | .vramax vd va m _ => some (vd, [va], [(va, act m)])
  | .vcvt vd va vb m ty _ _ =>
    if ty = 1 then some (vd, [va, vb], [(va, act m), (vb, act m)]) else some (vd, [va], [(va, act m)])
  | .vcvtL6 vd va vb m _ =>
    some (vd, [va, vb], [(va, act m), (vb, lanesMask (((List.range 4).map (128 * ·)).filter (fun b =>
      (List.range 128).any (fun i => (act m).getLsbD (b + i)))))])
  | .vsel vd va vb m => some (vd, [va, vb], [(va, act m), (vb, ~~~(act m))])
  | .vli vd _ _ => some (vd, [], [])
  | .vperm vd va vb m => some (vd, [va, vb], [(va, readLanes (act m) (fun i => (lane vs 1 i).toNat % 512)), (vb, act m)])
  | .vrot vd va m n => some (vd, [va], [(va, readLanes (act m) (fun i => (i + n.toNat) % 512))])
  | .vbcast vd va _ n => some (vd, [va], [(va, 1#512 <<< n.toNat)])
  | .vrand vd va vb _ _ => some (vd, [va, vb], [(va, 3), (vb, 3)])
  | _ => none

/-- The control access of R193 and R200: the effective address, aligned and below 2^56, and the place to which R76 and R186
lead it. -/
def State.Leads (s : State) (base : Dbl) (off : BitVec 16) (n : Nat) (acc : Acc) (s' : State) (at_ : Loc) : Prop :=
  let a := base + off.signExtend 64
  a.toNat % n = 0 ∧ a.toNat < 2 ^ 56 ∧ s.locate s.cur a n acc = .ok (s', at_)

/-! ### What stays as it was -/

/-- Nothing of the package differs but tile `p`. -/
def State.SameBut (s t : State) (p : PTile) : Prop :=
  { t with tiles := s.tiles } = s ∧ ∀ q, q ≠ p → t.tile q = s.tile q

/-- Nothing of a tile differs but its context state and its progress count. -/
def Tile.SameBut (x y : Tile) : Prop := { y with tc := x.tc, prog := x.prog } = x

/-- Every byte of memory, as an agent of either die reads it, is as it was. -/
def State.SameMem (s t : State) : Prop := t.mem = s.mem ∧ ∀ d a, t.phys d a = s.phys d a

end Sys2Proof.Machine
end

