-- ==== Sys2Proof/Certificates/Slice0/Obligations.lean ====
section
/-! DEFINITION. The statements, in the order of the spec's files. Each says which rules it formalises; what a clause takes from
the model's own choices names the log entry. -/

set_option maxRecDepth 4000

open Sys2Proof Sys2Proof.Machine

/-! ### The decoder (03_encoding.md) -/

/-- R34–R48: decoding the words of a well-formed encoded instruction gives it back, every operand at every value. -/
def Obligations.DecodeEncodeRoundTrip : Prop :=
  ∀ i : Instr, wellFormed i = true → encode i ≠ [] → decode (encode i) = .ok i

/-- R49: what the decoder accepts is well-formed, and its encoding is the LEN + 1 parcels the first parcel announces, so LEN
is the length its form defines and no bit of those parcels is passed over. -/
def Obligations.DecodedIsWellFormed : Prop :=
  ∀ (ps : List Parcel) (i : Instr), decode ps = .ok i →
    wellFormed i = true ∧ ∃ p r, ps = p :: r ∧ encode i = ps.take (parcelCount p)

/-- Words written out from the encodings of R112, R115, R118, R136, R176 and R365, and three that R49 refuses. -/
def Obligations.WordsDecodeAsWritten : Prop :=
  decode [0x1050#16, 0x1200#16] = .ok (.add 4 1 2 false false) ∧
  decode [0x2284#16, 0xCDEF#16, 0x89AB#16] = .ok (.li 1 0x89ABCDEF#32) ∧
  decode [0x14B2#16, 0xFFFE#16] = .ok (.bt true true 4 0xFFFE) ∧
  decode [0x6047#16, 0x0420#16, 0x0000#16] = .ok (.vadd 7 1 2 ⟨0, false⟩ 0 ⟨false, false, 0⟩) ∧
  decode [0x8144#16] = .ok .madd ∧
  decode [0x1F4C#16, 0x0080#16] = .ok (.csrr 3 0x080) ∧
  decode [0x0050#16, 0x1200#16] = .error .badLen ∧
  decode [0x0001#16] = .error .reservedBit ∧
  decode [0x1050#16, 0x12FF#16] = .error .refused

/-! ### Control queues and arithmetic (06_control_class.md) -/

/-- R23, R98: the reads of an instruction of two sources, in field order: two queues, one queue popped by the first read, one
queue peeked by the first read; an empty queue traps QUNDER, and a reserved slot is waited for. R99: an instruction of two
popped sources and one pushed result traps QOVER exactly where the destination's occupancy, less what it pops there, plus the
slot it pushes, exceeds 4. -/
def Obligations.QueueOperandRules : Prop :=
  (∀ (c : TCtx) (a b : BitVec 4) (ka kb : Bool) (x y : Dbl) (ra rb : List Slot) (id : Nat),
     (a ≠ b → c.q a = .filled x :: ra → c.q b = .filled y :: rb → c.readQ [(a, ka), (b, kb)] = .ok [x, y]) ∧
     (c.q a = .filled x :: .filled y :: ra → c.readQ [(a, false), (a, kb)] = .ok [x, y]) ∧
     (c.q a = .filled x :: ra → c.readQ [(a, true), (a, kb)] = .ok [x, x]) ∧
     (c.q a = [] → c.readQ [(a, ka), (b, kb)] = .error (.trap ⟨0x03, a.setWidth 64⟩)) ∧
     (c.q a = [.filled x] → c.readQ [(a, false), (a, kb)] = .error (.trap ⟨0x03, a.setWidth 64⟩)) ∧
     (c.q a = .reserved id :: ra → c.readQ [(a, ka)] = .error .wait)) ∧
  (∀ (c : TCtx) (a b d : BitVec 4),
     c.roomQ [(a, false), (b, false)] [d] =
       if 4 < (c.q d).length - ((if a = d then 1 else 0) + (if b = d then 1 else 0)) + 1
       then .error (.trap ⟨0x02, d.setWidth 64⟩) else .ok ())

/-- R112: the result of each instruction of the ALU family. R59, R112: division and remainder, by zero and −2^63 by −1 among
them; the encodings of the family, and ILLEGAL for any other F. -/
def Obligations.ArithmeticResult : Prop :=
  (∀ (s : State) (d a b : BitVec 4) (ka kb : Bool) (x y : Dbl),
     s.Reads [(a, ka), (b, kb)] [x, y] → s.Room [(a, ka), (b, kb)] [d] →
     let out (v : Dbl) : Out := s.pushes 2 [(a, ka), (b, kb)] d v
     let sh := y.toNat % 64
     exec (.add d a b ka kb) s = out (x + y) ∧
     exec (.sub d a b ka kb) s = out (x - y) ∧
     exec (.mul d a b ka kb) s = out (x * y) ∧
     exec (.mulh d a b ka kb) s = out (BitVec.ofInt 64 (x.toInt * y.toInt / 2 ^ 64)) ∧
     exec (.mulhu d a b ka kb) s = out (BitVec.ofNat 64 (x.toNat * y.toNat / 2 ^ 64)) ∧
     exec (.and d a b ka kb) s = out (x &&& y) ∧
     exec (.or d a b ka kb) s = out (x ||| y) ∧
     exec (.xor d a b ka kb) s = out (x ^^^ y) ∧
     exec (.shl d a b ka kb) s = out (x <<< sh) ∧
     exec (.shr d a b ka kb) s = out (x >>> sh) ∧
     exec (.sha d a b ka kb) s = out (x.sshiftRight sh) ∧
     exec (.min d a b ka kb) s = out (if x.toInt ≤ y.toInt then x else y) ∧
     exec (.max d a b ka kb) s = out (if x.toInt ≤ y.toInt then y else x) ∧
     exec (.minu d a b ka kb) s = out (if x.toNat ≤ y.toNat then x else y) ∧
     exec (.maxu d a b ka kb) s = out (if x.toNat ≤ y.toNat then y else x)) ∧
  (∀ (s : State) (d a b : BitVec 4) (ka kb : Bool) (x y : Dbl),
     let out (v : Dbl) : Out := s.pushes 2 [(a, ka), (b, kb)] d v
     (s.Reads [(a, ka), (b, kb)] [x, y] → s.Room [(a, ka), (b, kb)] [d] → y ≠ 0 →
       exec (.divs d a b ka kb) s = out (BitVec.ofInt 64 (x.toInt.tdiv y.toInt)) ∧
       exec (.divu d a b ka kb) s = out (BitVec.ofNat 64 (x.toNat / y.toNat)) ∧
       exec (.rems d a b ka kb) s = out (BitVec.ofInt 64 (x.toInt.tmod y.toInt)) ∧
       exec (.remu d a b ka kb) s = out (BitVec.ofNat 64 (x.toNat % y.toNat))) ∧
     (s.Reads [(a, ka), (b, kb)] [x, y] → s.Room [(a, ka), (b, kb)] [d] → y = 0 →
       exec (.divs d a b ka kb) s = out 0xFFFFFFFFFFFFFFFF#64 ∧ exec (.divu d a b ka kb) s = out 0xFFFFFFFFFFFFFFFF#64 ∧
       exec (.rems d a b ka kb) s = out x ∧ exec (.remu d a b ka kb) s = out x) ∧
     (s.Reads [(a, ka), (b, kb)] [x, y] → s.Room [(a, ka), (b, kb)] [d] → x = 0x8000000000000000#64 → y = 0xFFFFFFFFFFFFFFFF#64 →
       exec (.divs d a b ka kb) s = out 0x8000000000000000#64 ∧ exec (.rems d a b ka kb) s = out 0) ∧
     (let table : List (BitVec 8 × Instr) := [(0x00, .add d a b ka kb), (0x01, .sub d a b ka kb), (0x02, .mul d a b ka kb),
        (0x03, .mulh d a b ka kb), (0x04, .mulhu d a b ka kb), (0x05, .divs d a b ka kb), (0x06, .divu d a b ka kb),
        (0x07, .rems d a b ka kb), (0x08, .remu d a b ka kb), (0x10, .and d a b ka kb), (0x11, .or d a b ka kb),
        (0x12, .xor d a b ka kb), (0x18, .shl d a b ka kb), (0x19, .shr d a b ka kb), (0x1A, .sha d a b ka kb),
        (0x20, .min d a b ka kb), (0x21, .max d a b ka kb), (0x22, .minu d a b ka kb), (0x23, .maxu d a b ka kb)]
      let p0 : Parcel := 0x1040#16 ||| d.setWidth 16 <<< 2 ||| bit ka 16 <<< 1 ||| bit kb 16
      let p1 (f : BitVec 8) : Parcel := a.setWidth 16 <<< 12 ||| b.setWidth 16 <<< 8 ||| f.setWidth 16
      (∀ p, p ∈ table → encode p.2 = [p0, p1 p.1] ∧ decode [p0, p1 p.1] = .ok p.2) ∧
      (∀ f, f ∉ table.map (·.1) → ∃ e, decode [p0, p1 f] = .error e)) ∧
     ((s.me.q 1).head? = some (.filled x) → (s.me.q 2).length < 4 →
       exec (.sub 2 1 1 true false) s = s.pushes 2 [(1, true), (1, false)] 2 0))

/-- R113, R114, R115: the results of the immediate forms, the unary family and the literals; the encodings of the first two,
and what is ILLEGAL among them. -/
def Obligations.UnaryAndLiteralResult : Prop :=
  ∀ (s : State) (d a : BitVec 4) (ka : Bool) (x : Dbl) (i : BitVec 12) (sh : BitVec 6) (imm : BitVec 32),
    (s.Reads [(a, ka)] [x] → s.Room [(a, ka)] [d] →
      let out (v : Dbl) : Out := s.pushes 2 [(a, ka)] d v
      exec (.addi d a ka i) s = out (x + i.signExtend 64) ∧
      exec (.andi d a ka i) s = out (x &&& i.signExtend 64) ∧
      exec (.ori d a ka i) s = out (x ||| i.signExtend 64) ∧
      exec (.xori d a ka i) s = out (x ^^^ i.signExtend 64) ∧
      exec (.shli d a ka sh) s = out (x <<< sh.toNat) ∧
      exec (.shri d a ka sh) s = out (x >>> sh.toNat) ∧
      exec (.shai d a ka sh) s = out (x.sshiftRight sh.toNat) ∧
      exec (.mov d a ka) s = out x ∧
      exec (.neg d a ka) s = out (0 - x) ∧
      exec (.not d a ka) s = out (~~~x) ∧
      exec (.clz d a ka) s = out (if x = 0 then 64 else BitVec.ofNat 64 (63 - x.toNat.log2)) ∧
      exec (.popc d a ka) s = out (BitVec.ofNat 64 ((List.range 64).countP (fun k => x.getLsbD k))) ∧
      exec (.sextb d a ka) s = out ((x.setWidth 8).signExtend 64) ∧
      exec (.sexth d a ka) s = out ((x.setWidth 16).signExtend 64) ∧
      exec (.sextw d a ka) s = out ((x.setWidth 32).signExtend 64) ∧
      exec (.zextb d a ka) s = out (x &&& 0xFF) ∧
      exec (.zexth d a ka) s = out (x &&& 0xFFFF) ∧
      exec (.zextw d a ka) s = out (x &&& 0xFFFFFFFF)) ∧
    (let p0 (base : Parcel) : Parcel := base ||| d.setWidth 16 <<< 2 ||| bit ka 16 <<< 1
     let p1 (v : Parcel) : Parcel := a.setWidth 16 <<< 12 ||| v
     (∀ p, p ∈ ([(0x10C0, .addi d a ka i), (0x1100, .andi d a ka i), (0x1140, .ori d a ka i), (0x1180, .xori d a ka i)] :
        List (Parcel × Instr)) → encode p.2 = [p0 p.1, p1 (i.setWidth 16)] ∧ decode (encode p.2) = .ok p.2) ∧
     (∀ p, p ∈ ([(0x11C0, .shli d a ka sh), (0x1200, .shri d a ka sh), (0x1240, .shai d a ka sh)] : List (Parcel × Instr)) →
        encode p.2 = [p0 p.1, p1 (sh.setWidth 16)] ∧ decode (encode p.2) = .ok p.2 ∧
        (i.extractLsb' 6 6 ≠ 0#6 → ∃ e, decode [p0 p.1, p1 (i.setWidth 16)] = .error e)) ∧
     (∀ p, p ∈ ([.mov d a ka, .neg d a ka, .not d a ka, .clz d a ka, .popc d a ka, .sextb d a ka, .sexth d a ka, .sextw d a ka,
        .zextb d a ka, .zexth d a ka, .zextw d a ka] : List Instr).zipIdx →
        encode p.1 = [p0 0x1080, p1 (BitVec.ofNat 16 p.2)] ∧ decode (encode p.1) = .ok p.1) ∧
     (∀ f : BitVec 8, 0x0A < f.toNat → ∃ e, decode [p0 0x1080, p1 (f.setWidth 16)] = .error e) ∧
     (∀ (kb : Bool) (b : BitVec 4) (f : BitVec 8), kb = true ∨ b ≠ 0 → ∃ e,
        decode [p0 0x1080 ||| bit kb 16, p1 (b.setWidth 16 <<< 8 ||| f.setWidth 16)] = .error e)) ∧
    (s.Room [] [d] → exec (.li d imm) s = s.pushes 3 [] d (imm.signExtend 64)) ∧
    (s.Reads [(d, false)] [x] → s.Room [(d, false)] [d] →
      exec (.lih d imm) s = s.pushes 3 [(d, false)] d ((imm.setWidth 64 <<< 32) ||| (x &&& 0xFFFFFFFF)))

/-- The frame of R112–R116: an instruction that computes pops its sources, pushes one value at its destination's tail and
moves the control engine past its parcels; every other queue, register, tile and byte of memory is as it was. -/
def Obligations.ComputeFrame : Prop :=
  ∀ (i : Instr) (s : State) (rs : List Src) (d : BitVec 4) (n : Nat) (vs : List Dbl),
    computeForm i = some (rs, d, n) → s.Reads rs vs → s.Room rs [d] →
    ∃ (t : State) (v : Dbl), exec i s = .next t ∧ s.SameBut t s.cur ∧ (s.tile s.cur).SameBut (t.tile s.cur) ∧ s.SameMem t ∧
      { t.me with qs := s.me.qs, c := s.me.c } = s.me ∧ t.me.c.pc = pcAdd s.me.c.pc n ∧
      t.me.c.oq = s.me.c.oq ∧ t.me.c.stack = s.me.c.stack ∧ t.me.c.walking = s.me.c.walking ∧
      ∀ q, t.me.q q = (s.me.q q).drop (taken rs q) ++ (if q = d then [.filled v] else [])

/-- R98, R99, R32: where a source has too few slots the instruction traps QUNDER, where its destination would hold more than 4
slots it traps QOVER, and where a slot it reads is reserved it waits with nothing changed but its engine's mark of waiting.
R101, R103, R104: an empty condition queue and a follower's full outcome queue make a branch wait; a full link stack traps
STKOVER at a CALL and an empty one STKUNDER at a RET. -/
def Obligations.ControlWaitsAndTraps : Prop :=
  (∀ (i : Instr) (s : State) (rs : List Src) (d : BitVec 4) (n : Nat),
     computeForm i = some (rs, d, n) →
     (∀ k, s.me.readQ rs = .error (.trap k) → exec i s = .next (s.takeTrap s.cur .c .fault k) ∧ k.code = 0x03) ∧
     (s.me.readQ rs = .error .wait → exec i s = .next (s.stand s.cur .c)) ∧
     (∀ vs k, s.Reads rs vs → s.me.roomQ rs [d] = .error (.trap k) →
       exec i s = .next (s.takeTrap s.cur .c .fault k) ∧ k = ⟨0x02, d.setWidth 64⟩)) ∧
  (∀ (s : State) (follow : BitVec 3) (off : BitVec 16) (pk cqv : Bool),
     let stand : Out := .next (s.stand s.cur .c)
     let trap (k : Cause) : Out := .next (s.takeTrap s.cur .c .fault k)
     ((if cqv then s.me.cqv else s.me.cqc) = [] →
       exec (.bt pk cqv follow off) s = stand ∧ exec (.bf pk cqv follow off) s = stand) ∧
     ((∃ e, e ∈ s.me.followers follow ∧ 16 ≤ (s.me.eng e).oq.length) → exec (.b follow off) s = stand) ∧
     (8 ≤ s.me.c.stack.length → exec (.call follow off) s = trap ⟨0x04, 0xFFFFFFFFFFFFFFFF#64⟩) ∧
     (s.me.c.stack = [] → exec (.ret follow) s = trap ⟨0x05, 0xFFFFFFFFFFFFFFFF#64⟩))

/-- R111, R116, R117, R120, R267, R270: DROP, QCLR, QLEN, CMP, CMPI, LCSET, NOP, CHKP and WINSET; the encodings of the last
two. -/
def Obligations.QueueAndCompareResult : Prop :=
  ∀ (s : State) (d a b : BitVec 4) (ka kb : Bool) (cc : BitVec 3) (i : BitVec 12) (lc : BitVec 2) (w : BitVec 8) (x y : Dbl),
    let cond (u v : Dbl) : Bool :=
      match cc.toNat with
      | 0 => u = v | 1 => u ≠ v | 2 => u.toInt < v.toInt | 3 => u.toNat < v.toNat | 4 => v.toInt ≤ u.toInt | _ => v.toNat ≤ u.toNat
    (s.Reads [(a, false)] [x] → exec (.drop a) s = s.retire .c 1 (fun c => c.setQ a ((c.q a).drop 1))) ∧
    (let clears (k : Nat) : Prop := ((s.me.q a).take k).all Slot.isFilled = true →
       exec (.qclr a) s = s.retire .c 1 (fun c => c.setQ a ((c.q a).drop k))
     (s.me.c.clearing = none → clears (s.me.q a).length) ∧ ∀ k, s.me.c.clearing = some k → clears k) ∧
    ((s.me.q d).length < 4 → exec (.qlen d a) s = s.pushes 2 [] d
      (BitVec.ofNat 64 ((s.me.q a).length + 8 * (s.me.q a).countP Slot.isFilled))) ∧
    (s.Reads [(a, ka), (b, kb)] [x, y] → s.me.cqc.length < 8 → exec (.cmp a b ka kb cc) s = s.retire .c 2 (fun c =>
      { c.popQ [(a, ka), (b, kb)] with cqc := c.cqc ++ [⟨cond x y, false⟩] })) ∧
    (s.Reads [(a, ka)] [x] → s.me.cqc.length < 8 → exec (.cmpi a ka cc i) s = s.retire .c 2 (fun c =>
      { c.popQ [(a, ka)] with cqc := c.cqc ++ [⟨cond x (i.signExtend 64), false⟩] })) ∧
    (s.Reads [(a, ka)] [x] → exec (.lcset lc a ka) s = s.retire .c 2 (fun c =>
      { c.popQ [(a, ka)] with lcs := aset c.lcs lc.toNat x })) ∧
    (s.me.cqc.length < 8 → exec .chkp s = s.retire .c 1 (fun c =>
      { c with cqc := c.cqc ++ [⟨!(s.tile s.cur).reqs.isEmpty || c.wdraw, false⟩] })) ∧
    (8 ≤ s.me.cqc.length → exec .chkp s = .next (s.stand s.cur .c)) ∧ encode .chkp = [0x0B40#16] ∧
    exec (.winset w) s = s.retire .c 2 (fun c => { c with win := if w = 0 then 64 else 16 * w.toNat }) ∧
    encode (.winset w) = [0x1BC0#16, w.setWidth 16] ∧ decode (encode (.winset w)) = .ok (.winset w) ∧
    (∀ (k : BitVec 6) (p : Parcel), k ≠ 0 ∨ 256 ≤ p.toNat → ∃ e, decode [0x1BC0#16 ||| k.setWidth 16, p] = .error e) ∧
    (∀ n t, (startTask s.me n t).win = (let w := (t.lb.d0.extractLsb' 48 8).toNat; if w = 0 then 64 else 16 * w)) ∧
    exec .nop s = s.retire .c 1 id

/-- R102, R103, R118–R120: what B, BT, BF, CALL, RET and LOOP do to the condition queues, the link stack and the loop
counters, and where the control engine and the followers go on. -/
def Obligations.BranchResult : Prop :=
  ∀ (s : State) (follow : BitVec 3) (off : BitVec 16), s.MayTell follow →
    let c := s.me
    let next (n : Nat) : Pc := c.c.pc + BitVec.ofNat 48 (2 * n)
    let target : Pc := c.c.pc + (off.signExtend 48 <<< 1)
    exec (.b follow off) s = s.branches 2 c follow target ∧
    (off = 0 → target = c.c.pc) ∧ (c.c.pc.getLsbD 0 = false → target.getLsbD 0 = false) ∧
    (∀ (pk cqv : Bool) (e : CEntry) (rest : List CEntry), (if cqv then c.cqv else c.cqc) = e :: rest →
      let c' : TCtx := if pk then c else if cqv then { c with cqv := rest } else { c with cqc := rest }
      exec (.bt pk cqv follow off) s = s.branches 2 c' follow (if e.value then target else next 2) ∧
      exec (.bf pk cqv follow off) s = s.branches 2 c' follow (if e.value then next 2 else target)) ∧
    (c.c.stack.length < 8 → exec (.call follow off) s =
      s.branches 2 { c with c := { c.c with stack := next 2 :: c.c.stack } } follow target) ∧
    (∀ (a : Pc) (rest : List Pc), c.c.stack = a :: rest → exec (.ret follow) s =
      s.branches 1 { c with c := { c.c with stack := rest } } follow a) ∧
    (∀ lc : BitVec 2, exec (.loop lc follow off) s =
      let v := if c.lc lc = 0 then 0 else c.lc lc - 1
      s.branches 2 { c with lcs := aset c.lcs lc.toNat v } follow (if v ≠ 0 then target else next 2))

/-- R102–R105: a branch leaves every register, queue and tile but those its rules name, and every byte of memory, as it was; a
follower's own pc moves only with its OUTCOME_POP. -/
def Obligations.BranchFrame : Prop :=
  ∀ (s t : State) (i : Instr) (follow : BitVec 3) (off : BitVec 16) (pk cqv : Bool) (lc : BitVec 2),
    i = .b follow off ∨ i = .bt pk cqv follow off ∨ i = .bf pk cqv follow off ∨ i = .call follow off ∨ i = .ret follow ∨
      i = .loop lc follow off →
    s.MayTell follow → s.me.c.stack ≠ [] → s.me.c.stack.length < 8 → (if cqv then s.me.cqv else s.me.cqc) ≠ [] →
    exec i s = .next t →
    s.SameBut t s.cur ∧ (s.tile s.cur).SameBut (t.tile s.cur) ∧ s.SameMem t ∧
    { t.me with cqc := s.me.cqc, cqv := s.me.cqv, lcs := s.me.lcs, c := s.me.c, v := s.me.v, m := s.me.m, x := s.me.x } = s.me ∧
    (∀ e, t.me.eng e = { t.me.eng e with walking := (s.me.eng e).walking }) ∧
    (∀ e, e ≠ .c → { t.me.eng e with oq := (s.me.eng e).oq } = s.me.eng e) ∧
    (∀ e, e ≠ .c → e ∈ s.me.followers follow → (t.me.eng e).oq = (s.me.eng e).oq ++ [t.me.c.pc]) ∧
    (∀ e, e ≠ .c → e ∉ s.me.followers follow → t.me.eng e = s.me.eng e)

/-- R37, R103, R104: OUTCOME_POP of a follower at a followed branch: it takes the oldest outcome and goes on there; at a CALL
its mirror stack takes the address after it, at a RET the stack gives its top up; with no outcome it stands, and does not
fetch the branch again. -/
def Obligations.OutcomePopResult : Prop :=
  ∀ (s s' : State) (e : Eng) (p0 : Parcel), s.mayWalk s.cur e = true →
    ((s.me.eng e).fetched = [] ∧ s.fetchFirst s.cur (s.me.eng e).pc = .ok (s', p0) ∨
      (s.me.eng e).fetched.head? = some p0 ∧ s' = s) → meetingOf e p0 = .followed →
    let w := s'.modTc s.cur (fun c => c.modEng e (fun g => { g with fetched := [p0] }))
    let g := s'.me.eng e
    let go (dest : Pc) (rest stack : List Pc) : Out :=
      .next ((w.goTo s.cur e (parcelCount p0) dest).modTc s.cur (fun c =>
        c.modEng e (fun g => { g with oq := rest, stack := stack })))
    (g.oq = [] → exec (.outcomePop e) s = .next (w.stand s.cur e)) ∧
    (∀ dest rest, g.oq = dest :: rest →
      ((p0Op p0).toNat ≠ 0x14 → (p0Op p0).toNat ≠ 0x15 → exec (.outcomePop e) s = go dest rest g.stack) ∧
      ((p0Op p0).toNat = 0x14 → g.stack.length < 8 → exec (.outcomePop e) s = go dest rest (pcAdd g.pc 2 :: g.stack)) ∧
      (∀ a q, (p0Op p0).toNat = 0x15 → g.stack = a :: q → exec (.outcomePop e) s = go dest rest q))

/-- R106, R107, R121: SPUSHM and SPOPM of a run of queues: every double of each line, the queues and SP after each, and that
the queues come back; SPOPM of lines that anything has written restores min(count, 4) values of each and ignores its other
doubles. -/
def Obligations.SpillRoundTrip : Prop :=
  ∀ (s : State) (f l : BitVec 4), f.toNat ≤ l.toNat → s.controlQuiet s.cur = true →
    let n := l.toNat - f.toNat + 1
    let sp := s.me.sp.toNat
    let mine (q : BitVec 4) : Prop := f.toNat ≤ q.toNat ∧ q.toNat ≤ l.toNat
    let dbl (m : Memory) (a i : Nat) : Dbl := ofBytes (memBytes m (a + 8 * i) 8)
    (spillOff s.me.spbase + 64 * n ≤ sp → (∀ q, mine q → s.me.q q = []) →
      ∃ u, exec (.spopm f l) s = .next u ∧ u.me.sp.toNat = sp - 64 * n ∧ u.me.scratch = s.me.scratch ∧
        (∀ q, mine q → let line := sp - 64 * (l.toNat - q.toNat + 1)
          let k := min (dbl s.me.scratch line 0 &&& 7#64).toNat 4
          (u.me.q q).length = k ∧ ∀ i, i < k → (u.me.q q)[i]? = some (.filled (dbl s.me.scratch line (1 + i)))) ∧
        (∀ q, ¬ mine q → u.me.q q = s.me.q q) ∧ s.SameBut u s.cur ∧
        { u.me with qs := s.me.qs, sp := s.me.sp, c := s.me.c } = s.me) ∧
    (s.me.scratch.wf = true → (∀ q, mine q → (s.me.q q).length ≤ 4 ∧ (s.me.q q).all Slot.isFilled = true) →
    sp + 64 * n ≤ spillOff s.me.splim → spillOff s.me.spbase ≤ sp →
    ∃ t u : State, exec (.spushm f l) s = .next t ∧ exec (.spopm f l) t = .next u ∧
      t.me.sp.toNat = sp + 64 * n ∧ u.me.sp = s.me.sp ∧
      (∀ q, mine q → t.me.q q = [] ∧ u.me.q q = s.me.q q ∧
        let line := sp + 64 * (q.toNat - f.toNat)
        dbl t.me.scratch line 0 = BitVec.ofNat 64 (s.me.q q).length ∧
        (∀ i, i < 4 → dbl t.me.scratch line (1 + i) = (match (s.me.q q)[i]? with | some (.filled v) => v | _ => 0)) ∧
        (∀ i, 5 ≤ i → i < 8 → dbl t.me.scratch line i = 0)) ∧
      (∀ q, ¬ mine q → t.me.q q = s.me.q q ∧ u.me.q q = s.me.q q) ∧
      (∀ a, ¬ (sp ≤ a ∧ a < sp + 64 * n) → memGet t.me.scratch a = memGet s.me.scratch a) ∧
      u.me.scratch = t.me.scratch ∧ s.SameBut t s.cur ∧ s.SameBut u s.cur ∧
      { t.me with qs := s.me.qs, scratch := s.me.scratch, sp := s.me.sp, c := s.me.c } = s.me)

/-! ### Memory (05_memory_model.md, 09_memory_class.md) -/

/-- R76: a window address is decoded before translation: an own scratchpad offset, a tile of the map, and the traps beyond.
R186, R187, R188: a translation through the tile's TLB gives the page's physical address to an access that the entry's
permissions allow and PROT to another, and without a translation the access traps PAGE; a read changes nothing. -/
def Obligations.AccessAddressing : Prop :=
  (∀ (s : State) (t : PTile) (va : Dbl) (n : Nat) (acc : Acc), 0 < n → n ≤ 64 →
     let a := va.toNat
     let k := (a - 0x00FE00000000) / 0x200000
     let o := (a - 0x00FE00000000) % 0x200000
     (0x00FF00000000 ≤ a → a + n ≤ 0x00FF00200000 → s.locate t va n acc = .ok (s, .scr t (a - 0x00FF00000000))) ∧
     (0x00FF00000000 ≤ a → a < 0x010000000000 → 0x00FF00200000 < a + n →
       s.locate t va n acc = .error (.trap ⟨0x08, va⟩)) ∧
     (0x00FE00000000 ≤ a → a < 0x00FE10000000 → o + n ≤ 0x200000 →
       (s.mapTile (liveCtx (s.tile t)) k = some t → s.locate t va n acc = .ok (s, .scr t o)) ∧
       (s.mapTile (liveCtx (s.tile t)) k = none → s.locate t va n acc = .error (.trap ⟨0x08, va⟩)) ∧
       (∀ p, p ≠ t → s.mapTile (liveCtx (s.tile t)) k = some p →
         ((s.tile p).stop = .none → s.locate t va n acc = .ok (s, .scr p o)) ∧
         ((s.tile p).stop = .fenced → s.locate t va n acc = .error (.trap ⟨0x0A, va⟩)))) ∧
     (0x00FE00000000 ≤ a → a < 0x00FF00000000 → (0x00FE10000000 ≤ a ∨ 0x200000 < o + n) →
       s.locate t va n acc = .error (.trap ⟨0x08, va⟩))) ∧
  (∀ (s : State) (t : PTile) (va : Dbl) (n : Nat) (acc : Acc) (e : TlbEntry),
     let a := va.toNat
     (a < 0x00FE00000000 ∨ 0x010000000000 ≤ a) →
     ((s.tile t).tlb.find? (fun e => e.hits (liveCtx (s.tile t)) a) = some e →
       let allowed : Bool := (!acc.r || e.pte.getLsbD 1) && (!acc.w || e.pte.getLsbD 2) && (!acc.x || e.pte.getLsbD 3)
       let pa := (e.pte.extractLsb' 16 37).toNat * 2 ^ 15 + a % 2 ^ (match e.level with | 0 => 15 | 1 => 21 | _ => 30)
       (allowed = false → s.locate t va n acc = .error (.trap ⟨0x08, va⟩)) ∧
       (allowed = true → s.mapped pa = false → s.locate t va n acc = .error (.trap ⟨0x08, va⟩)) ∧
       (allowed = true → s.mapped pa = true → acc.d = false → s.locate t va n acc = .ok (s, .mem pa)) ∧
       (allowed = true → s.mapped pa = true → acc.d = true → ∃ s', s.locate t va n acc = .ok (s', .mem pa))) ∧
     (s.findTlb (dieOf t) (some t) (liveCtx (s.tile t)) a = none → s.locate t va n acc = .error (.trap ⟨0x07, va⟩)))

/-- R97, R193, R194, R200: LD, LDS and LDA pop the address, reserve a slot in Q[D] and leave the access pending; PARM reserves
one for the double at D2 + 8w (R269). The model's reading of caching at the fill is log 32. R84–R86, R89, R97, R191, R194,
R196, R396: QUEUE_SLOT_FILL of a pending value, of a load and of an AMO on a scratchpad, and of a load of memory, whose lines
are not uncorrectable: the slot takes the value, sign- or zero-extended, the fill is gone, and the progress count restarts
where a count of R226 falls or a waiting engine awaits the queue. At ENG or TILE scope a load of memory reads the line that
the control data cache holds, or has it take the die's; at QUAD scope or wider it passes the cache. The fill of an LDA: at
QUAD scope or wider the cache is emptied, the lines of a release with which it synchronizes join the tile's set, and at PKG
scope or wider the set of the location's last releaser goes home first. -/
def Obligations.LoadResult : Prop :=
  (∀ (s s' : State) (m : CLoad) (x : Dbl) (at_ : Loc),
     (s.Reads [(m.a, m.ka)] [x] → s.Room [(m.a, m.ka)] [m.d] → s.Leads x m.off (2 ^ m.sz.toNat) accR s' at_ →
       let out (sx acq : Bool) : Out := s.retired (s'.modTc s.cur (fun c =>
         (c.popQ [(m.a, m.ka)]).reserve m.d m.cls.toNat m.scope.toNat (.load at_ (2 ^ m.sz.toNat) sx acq))) .c 3
       exec (.ld m) s = out false false ∧ exec (.lds m) s = out true false ∧ exec (.lda m) s = out false true) ∧
     (∀ (k : Task) (w : BitVec 6) (d : BitVec 4), s.me.task = some k → (s.me.q d).length < 4 →
       k.lb.d2.toNat % 64 = 0 → k.lb.d2.toNat + 512 ≤ 2 ^ 56 →
       s.locate s.cur (k.lb.d2 + 8 * w.setWidth 64) 8 accR = .ok (s', at_) →
       exec (.parm d w) s = s.retired (s'.modTc s.cur (fun c => c.reserve d 15 0 (.load at_ 8 false false))) .c 2)) ∧
  (∀ (s : State) (t : PTile) (i : Nat) (f : Fill), (s.tc t).fills[i]? = some f → fillReady (s.tile t) f = true →
     (s.tile t).bad = none →
     let out (u : State) (v : Dbl) : Out :=
       .next (let w := u.modTc t (fun c => fillSlot c f.id v); if s.fillHeard t f then w.progress t else w)
     let sound (pa n : Nat) : Prop := ∀ k, k < n → s.poison.contains (lineOf (pa + k)) = false
     let whole (p : PTile) (off n : Nat) : Prop := ∀ k, k < n → (s.tile p).spoiled.contains (lineOf (off + k)) = false
     let fwd (at_ : Loc) (n : Nat) : Prop :=
       ∀ b, b ∈ (s.tile t).sbuf → b.seq < f.seq → b.cls = f.cls → overlaps at_ n b.at_ b.n = false
     (∀ v, f.op = .value v → exec (.queueSlotFill t i) s = out s v) ∧
     (∀ p off n sx, f.op = .load (.scr p off) n sx false → fwd (.scr p off) n →
       let v := ofBytes (memBytes (s.tc p).scratch off n)
       whole p off n → exec (.queueSlotFill t i) s = out s (if sx then sext v (8 * n) else v)) ∧
     (∀ pa n sx, f.op = .load (.mem pa) n sx false → fwd (.mem pa) n → 2 ≤ f.scope → sound pa n →
       let v := ofBytes (s.physBytes (dieOf t) pa n)
       exec (.queueSlotFill t i) s = out (s.dropCached t (.mem pa)) (if sx then sext v (8 * n) else v)) ∧
     (∀ pa n sx, f.op = .load (.mem pa) n sx false → fwd (.mem pa) n → f.scope ≤ 1 → pa % 64 + n ≤ 64 →
       let l := pa / 64
       (∀ line, aget (s.tile t).dcache l = some line →
         let v := ofBytes ((line.drop (pa % 64)).take n)
         exec (.queueSlotFill t i) s = out s (if sx then sext v (8 * n) else v)) ∧
       (aget (s.tile t).dcache l = none → sound pa n → ∃ u, exec (.queueSlotFill t i) s = .next u ∧
         (let v := ofBytes (s.physBytes (dieOf t) pa n)
          u.tc t = fillSlot (s.tc t) f.id (if sx then sext v (8 * n) else v)) ∧ s.SameMem u ∧
         ((s.tile t).dcache.length < 1024 → aget (u.tile t).dcache l = some (s.physBytes (dieOf t) (64 * l) 64)))) ∧
     (∀ p off n sx, f.op = .load (.scr p off) n sx true → fwd (.scr p off) n → whole p off n →
       let v := ofBytes (memBytes (s.tc p).scratch off n)
       exec (.queueSlotFill t i) s = out (if 2 ≤ f.scope then s.modTile t (fun x => { x with dcache := [] }) else s)
         (if sx then sext v (8 * n) else v)) ∧
     (∀ pa n, f.op = .load (.mem pa) n false true → fwd (.mem pa) n → sound pa n → 2 ≤ f.scope →
       let lazy := (s.releases pa).find? (fun r => 4 ≤ r.scope)
       ∃ u v, exec (.queueSlotFill t i) s = .next u ∧ u.tc t = fillSlot (s.tc t) f.id v ∧ (u.tile t).dcache = [] ∧
         (f.scope ≤ 3 ∨ lazy = none → v = ofBytes (s.physBytes (dieOf t) pa n) ∧ s.SameMem u) ∧
         (f.scope ≤ 3 → ∀ r l, r ∈ s.releases pa → r.unit = false → r.t ≠ t → dieOf r.t = dieOf t → inScope f.scope t r.t = true →
           inScope r.scope r.t t = true → l ∈ r.lines → (s.die (dieOf t)).l2.any (fun c => lineOf c.1 = l) = true →
           l ∈ (u.tile t).rset) ∧
         (4 ≤ f.scope → s.MemWf → ∀ r, lazy = some r → ((s.die (dieOf r.t)).l2.map (·.1)).Nodup →
           ∀ a, lineOf a ∈ r.lines → memGet u.mem a = s.phys (dieOf r.t) a)) ∧
     (∀ p off n aop v, f.op = .amo (.scr p off) n aop v → (s.tile t).rset = [] → f.scope ≤ 1 → whole p off n →
       let old := ofBytes (memBytes (s.tc p).scratch off n)
       exec (.queueSlotFill t i) s = out (s.writeLoc t (.scr p off) (toBytes (amoOp aop n old v) n)) (zext old (8 * n))))

/-- R196, R197: an AMO pops its address and its operand, a CAS its address, E and N; each reserves a slot in Q[D] for the old
value and leaves the operation pending. R196: what each AOP stores, at the access size. R87, R88, R196, R197: QUEUE_SLOT_FILL
of an AMO on memory and of a CAS: the slot takes the old value, zero-extended; an AMO at DIE scope and narrower writes its
bytes where its die reads them and records its release, a wider one at the home, after the write-backs of the line; a CAS
writes N exactly where the old value is E; none of the lines that it reads is uncorrectable. The last clause but one takes a
page whose dirty state the TLB holds, so that no entry in memory is written; that the home keeps a release per aligned double
is log 32. -/
def Obligations.AtomicResult : Prop :=
  (∀ (s s' : State) (at_ : Loc) (x v e n : Dbl),
     (∀ m : CAmo, let sz := if m.dbl then 8 else 4
       let rs : List Src := [(m.a, m.ka), (m.d, m.kd)]
       s.Reads rs [x, v] → s.Room rs [m.d] → s.Leads x 0 sz accRW s' at_ →
       let out (aop : Nat) : Out := s.retired (s'.modTc s.cur (fun c =>
         (c.popQ rs).reserve m.d m.cls.toNat m.scope.toNat (.amo at_ sz aop v))) .c 3
       exec (.aadd m) s = out 0 ∧ exec (.aand m) s = out 1 ∧ exec (.aor m) s = out 2 ∧ exec (.axor m) s = out 3 ∧
       exec (.amin m) s = out 4 ∧ exec (.amax m) s = out 5 ∧ exec (.aminu m) s = out 6 ∧ exec (.amaxu m) s = out 7 ∧
       exec (.axchg m) s = out 8) ∧
     (∀ m : CCas, let sz := if m.dbl then 8 else 4
       let rs : List Src := [(m.a, m.ka), (m.e, false), (m.n, false)]
       s.Reads rs [x, e, n] → s.Room rs [m.d] → s.Leads x 0 sz accCas s' at_ →
       exec (.cas m) s = s.retired (s'.modTc s.cur (fun c =>
         (c.popQ rs).reserve m.d m.cls.toNat m.scope.toNat (.cas at_ sz x.toNat e n))) .c 3)) ∧
  ((∀ (old v : Dbl),
     amoOp 0 8 old v = old + v ∧ amoOp 1 8 old v = old &&& v ∧ amoOp 2 8 old v = old ||| v ∧ amoOp 3 8 old v = old ^^^ v ∧
     amoOp 4 8 old v = (if v.toInt < old.toInt then v else old) ∧ amoOp 5 8 old v = (if old.toInt < v.toInt then v else old) ∧
     amoOp 6 8 old v = (if v.toNat < old.toNat then v else old) ∧ amoOp 7 8 old v = (if old.toNat < v.toNat then v else old) ∧
     amoOp 8 8 old v = v ∧
     (let x : BitVec 32 := old.setWidth 32
      let y : BitVec 32 := v.setWidth 32
      let w (aop : Nat) : BitVec 32 := (amoOp aop 4 old v).setWidth 32
      w 0 = x + y ∧ w 1 = x &&& y ∧ w 2 = x ||| y ∧ w 3 = x ^^^ y ∧ w 4 = (if y.toInt < x.toInt then y else x) ∧
      w 5 = (if x.toInt < y.toInt then y else x) ∧ w 6 = (if y.toNat < x.toNat then y else x) ∧
      w 7 = (if x.toNat < y.toNat then y else x) ∧ w 8 = y)) ∧
   (∀ (s : State) (t : PTile) (i : Nat) (f : Fill), (s.tc t).fills[i]? = some f → fillReady (s.tile t) f = true →
     (s.tile t).bad = none →
     let sound (pa n : Nat) : Prop := ∀ k, k < n → s.poison.contains (lineOf (pa + k)) = false
     let filled (u : State) (n : Nat) (old : Dbl) : Prop := u.tc t = fillSlot (s.tc t) f.id (zext old (8 * n))
     let writes (u : State) (pa n : Nat) (v : Dbl) : Prop := u.mem = s.mem ∧
       (∀ k, k < n → u.phys (dieOf t) (pa + k) = v.extractLsb' (8 * k) 8) ∧
       (∀ a, ¬ (pa ≤ a ∧ a < pa + n) → u.phys (dieOf t) a = s.phys (dieOf t) a) ∧ (∀ a, u.phys (!dieOf t) a = s.phys (!dieOf t) a)
     ((s.tile t).rset.length ≤ 4096 → f.scope ≤ 3 →
       (∀ pa n aop v, f.op = .amo (.mem pa) n aop v → sound pa n →
         let old := ofBytes (s.physBytes (dieOf t) pa n)
         ∃ u, exec (.queueSlotFill t i) s = .next u ∧ filled u n old ∧ writes u pa n (amoOp aop n old v) ∧
           ∃ r, aget u.dir (pa / 8) = some r ∧ r.t = t ∧ r.unit = false ∧ r.scope = f.scope ∧ (0 < n → lineOf pa ∈ r.lines)) ∧
       (∀ pa n va e v, f.op = .cas (.mem pa) n va e v → sound pa n →
         let old := ofBytes (s.physBytes (dieOf t) pa n)
         ∃ u, exec (.queueSlotFill t i) s = .next u ∧ filled u n old ∧
           (old ≠ zext e (8 * n) → u.mem = s.mem ∧ ∀ d a, u.phys d a = s.phys d a) ∧
           (∀ y, old = zext e (8 * n) → (s.tile t).tlb.find? (·.hits (liveCtx (s.tile t)) va) = some y → y.allows accW = true →
             s.mapped (y.pa va) = true → y.known.contains (y.pa va / 4096) = true → writes u pa n v))) ∧
     ((s.tile t).rset.length ≤ 4096 → 4 ≤ f.scope → s.MemWf → ∀ pa n aop v, f.op = .amo (.mem pa) n aop v → s.releases pa = [] →
       sound pa n →
       let home := (s.bothHome (lineOf pa)).mem
       let old := ofBytes (memBytes home pa n)
       ∃ u, exec (.queueSlotFill t i) s = .next u ∧ filled u n old ∧
         (∀ k, k < n → memGet u.mem (pa + k) = (amoOp aop n old v).extractLsb' (8 * k) 8) ∧
         (∀ a, ¬ (pa ≤ a ∧ a < pa + n) → memGet u.mem a = memGet home a) ∧
         (∀ d a, lineOf a = lineOf pa → u.phys d a = memGet u.mem a)) ∧
     (∀ p off n va e v, f.op = .cas (.scr p off) n va e v → (s.tile t).rset = [] → f.scope ≤ 1 →
       (∀ k, k < n → (s.tile p).spoiled.contains (lineOf (off + k)) = false) →
       let old := ofBytes (memBytes (s.tc p).scratch off n)
       let u := if old = zext e (8 * n) then s.writeLoc t (.scr p off) (toBytes v n) else s
       exec (.queueSlotFill t i) s = .next ((u.modTc t (fun c => fillSlot c f.id (zext old (8 * n)))).progress t))))

/-- R193, R195, R191: ST pops its address and its value and enters the store buffer, where there is room; memory is as it was
until the store leaves the buffer. That every plain store passes through the buffer is the model's choice (log 8). R84, R191:
a store that leaves the buffer writes its bytes, little-endian, into the scratchpad or into the L2 of its die, where its line
joins the release set; every other byte reads as before. -/
def Obligations.StoreResult : Prop :=
  (∀ (s s' : State) (m : CStore) (x v : Dbl) (at_ : Loc),
     let rs : List Src := [(m.a, m.ka), (m.d, m.kd)]
     s.Reads rs [x, v] → s.Leads x m.off (2 ^ m.sz.toNat) accW s' at_ →
     ((s.tile s.cur).sbuf.length < 16 → ∃ t, exec (.st m) s = .next t ∧
       t.mem = s'.mem ∧ t.die0 = s'.die0 ∧ t.die1 = s'.die1 ∧ (∀ q, (t.tc q).scratch = (s'.tc q).scratch) ∧
       (t.tile s.cur).sbuf = (s'.tile s.cur).sbuf ++
         [⟨(s'.tc s.cur).seq, m.cls.toNat, m.scope.toNat, at_, 2 ^ m.sz.toNat, v⟩] ∧
       { t.me with qs := (s'.tc s.cur).qs, seq := (s'.tc s.cur).seq, c := (s'.tc s.cur).c } = s'.tc s.cur ∧
       (∀ q, t.me.q q = ((s'.tc s.cur).q q).drop (taken rs q)) ∧ t.me.c.pc = pcAdd (s'.tc s.cur).c.pc 3) ∧
     (16 ≤ (s.tile s.cur).sbuf.length → exec (.st m) s = .next (s.pause s.cur .c))) ∧
  (∀ (s : State) (t : PTile) (i : Nat) (b : BufStore), (s.tile t).sbuf[i]? = some b → storeReady (s.tile t) b = true →
     ∃ u, exec (.storeBufferDrain t i) s = .next u ∧ (∀ c, c ∈ (u.tile t).sbuf → c.seq ≠ b.seq) ∧ u.mem = s.mem ∧
     (∀ pa, b.at_ = .mem pa →
       (∀ k, k < b.n → u.phys (dieOf t) (pa + k) = b.v.extractLsb' (8 * k) 8) ∧
       (∀ a, ¬ (pa ≤ a ∧ a < pa + b.n) → u.phys (dieOf t) a = s.phys (dieOf t) a) ∧
       (∀ a, u.phys (!dieOf t) a = s.phys (!dieOf t) a) ∧
       (0 < b.n → lineOf pa ∈ (u.tile t).rset) ∧ (∀ q, (u.tc q).scratch = (s.tc q).scratch)) ∧
     (∀ p off, b.at_ = .scr p off → Memory.wf (s.tc p).scratch = true →
       (∀ k, k < b.n → memGet (u.tc p).scratch (off + k) = b.v.extractLsb' (8 * k) 8) ∧
       (∀ a, ¬ (off ≤ a ∧ a < off + b.n) → memGet (u.tc p).scratch a = memGet (s.tc p).scratch a) ∧
       (∀ q, q ≠ p → (u.tc q).scratch = (s.tc q).scratch) ∧ (∀ d a, u.phys d a = s.phys d a)))

/-- R85, R88, R195: STL waits until the earlier accesses of its stream are performed, then its bytes stand and its release is
recorded with its own line among the lines; at DIE scope and narrower no byte of either die but its own changes. That the
store's own line is among the released lines is the model's reading (log 32). R90, R195: an STL to a scratchpad window writes
its tile's release set back first, then its bytes into that scratchpad. -/
def Obligations.StoreReleaseResult : Prop :=
  (∀ (s s' : State) (m : CStore) (x v : Dbl) (pa : Nat),
    let rs : List Src := [(m.a, m.ka), (m.d, m.kd)]
    s.Reads rs [x, v] → s.Leads x m.off (2 ^ m.sz.toNat) accW s' (.mem pa) →
    (s.controlQuiet s.cur = false → exec (.stl m) s = .next (s.pause s.cur .c)) ∧
    (s.controlQuiet s.cur = true → ∃ t, exec (.stl m) s = .next t ∧
      (∀ k, k < 2 ^ m.sz.toNat → t.phys (dieOf s.cur) (pa + k) = v.extractLsb' (8 * k) 8) ∧
      (∃ r, aget t.dir (pa / 8) = some r ∧ r.t = s.cur ∧ r.unit = false ∧ r.scope = m.scope.toNat ∧ lineOf pa ∈ r.lines) ∧
      (∀ q, t.me.q q = ((s'.tc s.cur).q q).drop (taken rs q)) ∧
      (m.scope.toNat ≤ 3 → (s'.tile s.cur).rset.length ≤ 4096 →
        (∀ a, ¬ (pa ≤ a ∧ a < pa + 2 ^ m.sz.toNat) → t.phys (dieOf s.cur) a = s'.phys (dieOf s.cur) a) ∧
        (∀ a, t.phys (!dieOf s.cur) a = s'.phys (!dieOf s.cur) a)))) ∧
  (∀ (s s' : State) (m : CStore) (x v : Dbl) (p : PTile) (off : Nat),
    let rs : List Src := [(m.a, m.ka), (m.d, m.kd)]
    s.Reads rs [x, v] → s.Leads x m.off (2 ^ m.sz.toNat) accW s' (.scr p off) → Memory.wf (s'.tc p).scratch = true →
    (s.controlQuiet s.cur = false → exec (.stl m) s = .next (s.pause s.cur .c)) ∧
    (s.controlQuiet s.cur = true → ∃ t, exec (.stl m) s = .next t ∧
      (∀ k, k < 2 ^ m.sz.toNat → memGet (t.tc p).scratch (off + k) = v.extractLsb' (8 * k) 8) ∧
      (∀ a, ¬ (off ≤ a ∧ a < off + 2 ^ m.sz.toNat) → memGet (t.tc p).scratch a = memGet (s'.tc p).scratch a) ∧
      (∀ q, q ≠ p → (t.tc q).scratch = (s'.tc q).scratch) ∧ (t.tile s.cur).rset = [] ∧
      t.mem = (s'.writeBackSet s.cur).mem ∧ (∀ q, t.me.q q = ((s'.tc s.cur).q q).drop (taken rs q))))

/-- R89, R86: a write-back of a line puts the bytes of its mask, and no others, at their homes, takes the line out of the mask
and of every release set of the die, and leaves what the die itself reads as it was; L2_EVICTION is one. -/
def Obligations.WriteBackRule : Prop :=
  ∀ (s : State) (d : Bool) (line : Nat), ((s.die d).l2.map (·.1)).Nodup → s.MemWf →
    ∃ t, exec (.l2Eviction d line) s = .next t ∧
      (∀ a, lineOf a = line → memGet t.mem a = s.phys d a ∧ aget (t.die d).l2 a = none) ∧
      (∀ a, lineOf a ≠ line → memGet t.mem a = memGet s.mem a ∧ aget (t.die d).l2 a = aget (s.die d).l2 a) ∧
      (∀ a, t.phys d a = s.phys d a) ∧ t.die (!d) = s.die (!d) ∧
      (∀ q, dieOf q = d → line ∉ (t.tile q).rset) ∧
      (∀ q l, l ≠ line → (l ∈ (t.tile q).rset ↔ l ∈ (s.tile q).rset)) ∧ (∀ q, t.tc q = s.tc q)

/-- R81, R226, R232, R236: a FENCE issues when no earlier access of its kind and of a class in CMASK is outstanding, WAITC
when no count exceeds its limit; below PKG scope neither changes anything but the engine's place. -/
def Obligations.FenceAndWaitcResult : Prop :=
  ∀ (s : State) (scope : BitVec 3) (cmask : BitVec 16) (nl ns nc nt : BitVec 4),
    let loads (f : Fill) : Bool := f.isAccess && cmask.getLsbD f.cls
    let done : State := if 4 ≤ scope.toNat then s.writeBackSet s.cur else s
    let noStores : Prop := ∀ b, b ∈ (s.tile s.cur).sbuf → cmask.getLsbD b.cls = false
    ((∀ f, f ∈ s.me.fills → loads f = false) → exec (.fenceLl scope cmask) s = s.retired done .c 2) ∧
    ((∀ f, f ∈ s.me.fills → f.releases = true → loads f = false) → noStores →
      exec (.fenceSs scope cmask) s = s.retired done .c 2) ∧
    ((∀ f, f ∈ s.me.fills → loads f = false) → noStores → exec (.fenceFull scope cmask) s = s.retired done .c 2) ∧
    ((∃ f, f ∈ s.me.fills ∧ loads f = true) → exec (.fenceFull scope cmask) s = .next (s.pause s.cur .c)) ∧
    (s.loadCount s.cur ≤ nl.toNat → s.storeCount s.cur ≤ ns.toNat → s.me.copyCount ≤ nc.toNat →
      s.me.matrixCount ≤ nt.toNat → exec (.waitc nl ns nc nt) s = s.retired s .c 2) ∧
    (nl.toNat < s.loadCount s.cur → exec (.waitc nl ns nc nt) s = .next (s.stand s.cur .c))

/-! ### Synchronisation (10_sync_class.md) -/

/-- R223, R225, R233, R234: TWAIT of a met condition, TADD with its saturating add, and TREAD. That TADD ends with an empty
release set at every SCOPE is the model's reading of R90 (log 11). -/
def Obligations.CounterResult : Prop :=
  ∀ (s : State) (ctr : BitVec 5) (st ka : Bool) (a d : BitVec 4) (scope : BitVec 3) (v : Dbl),
    let n := ctr.toNat
    let fail : Bool := s.me.fails.getLsbD n
    let push (c : TCtx) (ok : Bool) : TCtx := if st then { c with cqc := c.cqc ++ [⟨ok, !ok⟩] } else c
    (s.Reads [(a, ka)] [v] → (st = true → s.me.cqc.length < 8) →
      (v.toNat ≤ (s.me.ctr n).toNat → exec (.twait ctr st a scope ka) s =
        s.retired ((s.modTc s.cur (fun c => push (c.popQ [(a, ka)]) true)).acquireCache s.cur scope.toNat) .c 2) ∧
      ((s.me.ctr n).toNat < v.toNat → fail = true → st = true → exec (.twait ctr st a scope ka) s =
        s.retire .c 2 (fun c => push (c.popQ [(a, ka)]) false)) ∧
      ((s.me.ctr n).toNat < v.toNat → fail = true → st = false → exec (.twait ctr st a scope ka) s =
        .next (s.takeTrap s.cur .c .fault ⟨0x0A, ctr.setWidth 64⟩)) ∧
      ((s.me.ctr n).toNat < v.toNat → fail = false → exec (.twait ctr st a scope ka) s = .next (s.stand s.cur .c)) ∧
      (s.controlQuiet s.cur = true → ∃ t, exec (.tadd ctr st a scope ka) s = .next t ∧
        (t.me.ctr n).toNat = min ((s.me.ctr n).toNat + v.toNat) (2 ^ 64 - 1) ∧
        (∀ k, k ≠ n → t.me.ctr k = s.me.ctr k) ∧ t.me.fails = s.me.fails ∧
        (∀ q, t.me.q q = (s.me.q q).drop (taken [(a, ka)] q)) ∧
        t.me.cqc = s.me.cqc ++ (if st then [⟨!fail, fail⟩] else []) ∧ (t.tile s.cur).rset = [] ∧
        { t.me with ts := s.me.ts, qs := s.me.qs, cqc := s.me.cqc, c := s.me.c } = s.me)) ∧
    ((s.me.q d).length < 4 → exec (.tread d ctr) s =
      s.retire .c 2 (fun c => c.reserve d 0 0 (.value (s.me.ctr n)))) ∧
    (let p0 : Parcel := 0x1900#16 ||| ctr.setWidth 16 <<< 1
     encode (.tread d ctr) = [p0, d.setWidth 16 <<< 12] ∧ decode (encode (.tread d ctr)) = .ok (.tread d ctr) ∧
     ∀ (t : Bool) (k : BitVec 12), t = true ∨ k ≠ 0 →
      ∃ e, decode [p0 ||| bit t 16, d.setWidth 16 <<< 12 ||| k.setWidth 16] = .error e)

/-- R228, R229, R231, R237: GARV with no arrival held writes its release set back, arrives and goes on, and waits where one is
held or an access that the release covers is not performed; GSYNC arrives as GARV does and then waits as GWAIT does, and where
it is the last member to arrive it completes with the phase released. GWAIT, and GSYNC after its arrival, wait while an
arrival of the tile is counted or held; then, by the release that ended the wait, or by the entry's latest where they waited
for none, they acquire and push OK, or, where it failed, push ERR without an acquire or trap PEERFAIL with the TVAL of R231. A
slot that names no entry traps PROT. R229: an arrival of a slot with none counted sets the slot's ARR and the entry's bit of
the tile's logical number, one of a slot with one counted is held, and the arrival of the last member releases the phase:
PHASE flips, no arrival is counted and every member's ARR is clear. The release of a phase: where the members that have
arrived and the failed members that have not are all of them, PHASE flips, every member's ARR clears, and each HELD arrival
moves to ARR and is counted in the new phase; a member that waits on a cleared arrival learns how the release ended; where
they are not all, nothing changes. That FAILED stands through a release is the model's reading (log 31), as are that the wait
of GARV at HELD is no stall (log 47), and that an entry counts arrivals whether or not it is VALID (log 51). -/
def Obligations.GroupResult : Prop :=
  (∀ (s : State) (slot : BitVec 2) (st : Bool),
     let n := slot.toNat
     let g := s.me.gslot n
     let x := s.group g.die g.entry.toNat
     let gone := x.failed &&& x.members
     let failed : Bool := match g.fail with | some b => b | none => x.fail
     let bad : Out := .next (s.takeTrap s.cur .c .fault ⟨0x08, BitVec.ofNat 64 n⟩)
     let wait : Out := .next (s.stand s.cur .c)
     let hold : Out := .next (s.pause s.cur .c)
     let done (ok : Bool) (c : TCtx) : TCtx :=
       let c := c.modGslot n (fun y => { y with fail := none, synced := false })
       if st then { c with cqc := c.cqc ++ [⟨ok, !ok⟩] } else c
     (g.valid = false → exec (.garv slot st) s = bad ∧ exec (.gwait slot st) s = bad ∧
       (g.synced = false → exec (.gsync slot st) s = bad)) ∧
     (g.valid = true → (st = true → s.me.cqc.length < 8) →
       (g.held = true ∨ s.controlQuiet s.cur = false →
         exec (.garv slot st) s = hold ∧ (g.synced = false → exec (.gsync slot st) s = hold)) ∧
       (g.held = false → s.controlQuiet s.cur = true →
         let u := (s.writeBackSet s.cur).arrive s.cur n
         exec (.garv slot st) s = s.retired (u.modTc s.cur (fun c =>
           c.status st ((u.group g.die g.entry.toNat).failed &&& (u.group g.die g.entry.toNat).members = 0))) .c 1 ∧
         (∃ t, exec (.garv slot st) s = .next t ∧ t.me.c.pc = pcAdd s.me.c.pc 1 ∧
           t.me.cqc.length = s.me.cqc.length + (if st then 1 else 0)) ∧
         (g.synced = false → exec (.gsync slot st) s =
           exec (.gsync slot st) (u.modTc s.cur (fun c => c.modGslot n (fun y => { y with synced := true }))))) ∧
       (g.held = false → s.controlQuiet s.cur = true → g.synced = false → g.arr = false → g.fail = none →
         ∀ k, s.logical x.ctx s.cur = k → x.members.getLsbD k = true → s.mapTile x.ctx k = some s.cur →
         (s.tile s.cur).live = some x.ctx → gone = 0 → s.me.c.waiting = false →
         count128 (x.arr ||| 1#128 <<< k) = count128 x.members → (∀ m, s.memberHeld g.die g.entry.toNat m = false) → ∃ t,
           exec (.gsync slot st) s = .next t ∧ t.me.c.pc = pcAdd s.me.c.pc 1 ∧
           t.me.cqc = s.me.cqc ++ (if st then [⟨true, false⟩] else []) ∧ (t.tile s.cur).rset = [] ∧
           (t.group g.die g.entry.toNat).phase = !x.phase ∧ (t.group g.die g.entry.toNat).arr = 0 ∧
           (t.me.gslot n).arr = false ∧ (t.me.gslot n).synced = false) ∧
       (g.arr = true ∨ g.held = true →
         exec (.gwait slot st) s = wait ∧ (g.synced = true → exec (.gsync slot st) s = wait)) ∧
       (g.arr = false → g.held = false →
         (failed = false → exec (.gwait slot st) s =
           s.retired ((s.modTc s.cur (done true)).acquireCache s.cur x.scope.toNat) .c 1) ∧
         (failed = true → st = true → exec (.gwait slot st) s = s.retire .c 1 (done false)) ∧
         (failed = true → st = false → ∃ v : Dbl, exec (.gwait slot st) s = .next (s.takeTrap s.cur .c .fault ⟨0x0A, v⟩) ∧
           v.extractLsb' 0 8 = g.entry ∧ v.getLsbD 8 = true ∧ v.extractLsb' 9 7 = 0 ∧ v.extractLsb' 23 41 = 0 ∧
           ∀ k, k < 128 → gone.getLsbD k = true → (∀ m, m < k → gone.getLsbD m = false) → v.extractLsb' 16 7 = BitVec.ofNat 7 k) ∧
         (g.synced = true → exec (.gsync slot st) s = exec (.gwait slot st) s)))) ∧
  ((∀ (s : State) (n : Nat),
     let g := s.me.gslot n
     let i := g.entry.toNat
     let x := s.group g.die i
     let ar := x.arr ||| 1#128 <<< s.logical (liveCtx (s.tile s.cur)) s.cur
     let gone := x.failed &&& x.members
     let count := count128 ar + count128 (gone &&& ~~~ar)
     let t := s.arrive s.cur n
     t.mem = s.mem ∧
     (g.arr = true → t.me.gslot n = { g with held := true } ∧ t.group g.die i = x) ∧
     (g.arr = false → count ≠ count128 x.members → t.me.gslot n = { g with arr := true } ∧ t.group g.die i = { x with arr := ar }) ∧
     (g.arr = false → count = count128 x.members → (∀ m, s.memberHeld g.die i m = false) →
       (t.group g.die i).phase = !x.phase ∧ (t.group g.die i).arr = 0 ∧ (t.group g.die i).fail = (gone != 0) ∧
       ∀ m p k, x.members.getLsbD m = true → m < 128 → s.mapTile x.ctx m = some p → (s.tile p).live = some x.ctx →
         ((s.tc p).gslot k).names g.die i = true → ((t.tc p).gslot k).arr = false ∧ ((t.tc p).gslot k).held = false)) ∧
   (∀ (s : State) (d : Bool) (g : Nat),
     let x := s.group d g
     let gone := x.failed &&& x.members
     let count := count128 x.arr + count128 (gone &&& ~~~x.arr)
     let t := s.testRelease d g 1
     (count ≠ count128 x.members → t = s) ∧
     (count = count128 x.members →
       (t.group d g).phase = !x.phase ∧ (t.group d g).members = x.members ∧ (t.group d g).failed = x.failed ∧
       (t.group d g).fail = (gone != 0) ∧
       (∀ n, n < 128 → ((t.group d g).arr.getLsbD n = true ↔ x.members.getLsbD n = true ∧ s.memberHeld d g n = true)) ∧
       ∀ n p k, x.members.getLsbD n = true → n < 128 → s.mapTile x.ctx n = some p →
         (∀ m, m < 128 → s.mapTile x.ctx m = some p → m = n) → (s.tile p).live = some x.ctx →
         ((s.tc p).gslot k).names d g = true →
         let y := (s.tc p).gslot k
         let y' := (t.tc p).gslot k
         let e := (s.tc p).c
         y'.arr = y.held ∧ y'.held = false ∧ (e.waiting = false ∨ y.arr = false ∨ y.held = true → y'.fail = y.fail) ∧
         ∀ (slot : BitVec 2) (st : Bool), slot.toNat = k → y.arr = true → y.held = false → e.waiting = true →
           e.fetched ≠ [] → decode e.fetched = .ok (.gwait slot st) ∨ decode e.fetched = .ok (.gsync slot st) →
           y'.fail = some (gone != 0))))

/-! ### Tasks (11_task_class.md) -/

/-- R82, R89, R259–R261, R263, R264: FORK, which first writes back a set above 4,096 lines (R89, 2), starts each engine named
that does not walk, at its own address, and every walk count returns to 0; an RDV at which every walking engine stands, with
nothing outstanding, moves each past its own. -/
def Obligations.ForkAndRdvResult : Prop :=
  ∀ (s : State) (v m x : Bool), s.me.inh = false → s.me.c.walking = true →
    let named (e : Eng) : Bool := match e with | .c => false | .v => v | .m => m | .x => x
    ((s.controlQuiet s.cur = true ∨ ∀ e, named e = true → (s.me.eng e).walking = true) →
      ∃ t, exec (.fork v m x) s = .next t ∧ t.me.c.pc = pcAdd s.me.c.pc 1 ∧
        (∀ e, (t.me.eng e).walking = ((s.me.eng e).walking || named e)) ∧
        (∀ e, (t.me.eng e).walking = true → (t.me.eng e).count = 0) ∧
        (∀ e, named e = true → (s.me.eng e).walking = false →
          t.me.eng e = { Engine.reset with pc := s.me.c.pc, walking := true }) ∧
        (∀ e, e ≠ .c → (s.me.eng e).walking = true → t.me.eng e = { s.me.eng e with count := 0 }) ∧
        ((s.tile s.cur).rset.length ≤ 4096 → s.SameBut t s.cur ∧ s.SameMem t) ∧
        (4096 < (s.tile s.cur).rset.length → ∀ e, named e = true → (s.me.eng e).walking = false → (t.tile s.cur).rset = []) ∧
        { t.me with c := s.me.c, v := s.me.v, m := s.me.m, x := s.me.x } = s.me) ∧
    ((∀ e, e ≠ .c → (s.me.eng e).walking = true → (s.me.eng e).meet = .rdv) →
      (s.rdvQuiet s.cur = true → ∃ t, exec .rdv s = .next t ∧
        (∀ e, (s.me.eng e).walking = true →
          t.me.eng e = { s.me.eng e with
            pc := pcAdd (s.me.eng e).pc 1, meet := .none, waiting := false, count := 0, fetched := [] }) ∧
        (∀ e, (s.me.eng e).walking = false → t.me.eng e = s.me.eng e) ∧ s.SameBut t s.cur ∧ s.SameMem t ∧
        { t.me with c := s.me.c, v := s.me.v, m := s.me.m, x := s.me.x } = s.me) ∧
      (s.rdvQuiet s.cur = false → exec .rdv s = .next (s.meetAt s.cur .c .rdv)))

/-- R129, R248, R260, R265: an EXIT without successors at which every walking engine stands, with R248 met, ends the task's
walks, lands every pending vector write and marks the task as exited; with WDRAW set its ABS is ignored. -/
def Obligations.ExitResult : Prop :=
  ∀ (s : State) (k : Task) (e : TSlot) (abs : Bool) (wri : BitVec 2),
    s.me.inh = false → s.me.task = some k → s.slot (dieOf s.cur) k.slot.toNat = some e → s.me.c.walking = true →
    (abs = true → (rangesOf k.lb).any (fun g => g.idx = wri.toNat && g.write) = true) →
    (∀ g, g ≠ .c → (s.me.eng g).walking = true → (s.me.eng g).meet = .exit) → s.exitQuiet s.cur = true →
    ∃ t, exec (.exit 0 abs wri 0) s = .next t ∧
      (∀ g, (t.me.eng g).walking = false) ∧ t.me.pending = [] ∧ t.me.task = some k ∧ t.me.qs = s.me.qs ∧
      (∃ e', t.slot (dieOf s.cur) k.slot.toNat = some e' ∧ e'.exited = true ∧
        e'.absRange = (if abs && !s.me.wdraw then some wri else none) ∧ e'.st = e.st) ∧ s.SameMem t

/-- R242, R243, R265: an EXIT with one successor admits its launch block, with the parent's TAG, into the lowest free slot. -/
def Obligations.ExitAdmitsSuccessor : Prop :=
  ∀ (s : State) (k : Task) (e : TSlot) (a : BitVec 4) (va : Dbl) (off n : Nat),
    s.me.inh = false → s.me.wdraw = false → s.me.task = some k → s.slot (dieOf s.cur) k.slot.toNat = some e →
    s.me.c.walking = true → s.Reads [(a, false)] [va] → va.toNat = 0x00FF00000000 + off → off % 64 = 0 → off + 64 ≤ 0x200000 →
    let b := recOf (memBytes s.me.scratch off 64)
    blockOk b = true → (∀ g, g ≠ .c → (s.me.eng g).walking = true → (s.me.eng g).meet = .exit) →
    s.exitQuiet s.cur = true → s.lowestFree (dieOf s.cur) = some n → (s.die (dieOf s.cur)).slots.length < 2048 →
    ∃ t e', exec (.exit 1 false 0 a) s = .next t ∧ t.slot (dieOf s.cur) n = some e' ∧
      e'.lb = { b with d7 := (0#32 ++ k.lb.d7.extractLsb' 0 32 : BitVec 64) } ∧ e'.lba = va ∧ e'.src = .exit e.age ∧
      e'.ctx = liveCtx (s.tile s.cur) ∧ (e'.st = .ready ↔ e'.deps = []) ∧ n ≠ k.slot.toNat ∧
      (∃ e'', t.slot (dieOf s.cur) k.slot.toNat = some e'' ∧ e''.exited = true)

/-! ### Queues (14_queue_class.md) -/

/-- R97, R278, R280, R281, R283, R286, R293, R296–R298, R346: ENQ into a resident queue with room on the die, DEQ of its head,
QSTAT; and the full, empty and faulted queue. An ENQ or DEQ reserves its slots once, as it issues, and keeps them while it
waits; their values come when it retires. That ENQ ends with an empty release set is the model's reading of R90 (log 11), that
its wait for earlier accesses is no stall that of R396 (log 47). R278: an ENQ, DEQ or QSTAT whose handle names no live queue,
or a live queue of another context, traps QHANDLE with the handle. R287: so does DEQ of a work queue. -/
def Obligations.QueueInstructionResult : Prop :=
  (∀ (s : State) (d a b : BitVec 4) (ka wait : Bool) (h : Dbl) (r : Rec) (dd : Bool) (n : Nat),
     s.liveQueue h = some (dd, n) → some (s.queue dd n).ctx = (s.tile s.cur).live →
     let q := s.queue dd n
     let ops : List Src := (a, ka) :: (List.range 8).map (fun i => (b + BitVec.ofNat 4 i, false))
     let eight : List (BitVec 4) := (List.range 8).map (fun i => d + BitVec.ofNat 4 i)
     let id : Nat := match s.me.c.await with | some (_, i) => i | none => s.me.seq
     let slots (rs : List Src) (ws : List (BitVec 4)) (t : State) : Prop := ∀ p,
       let mine := (ws.zipIdx.filter (fun w : BitVec 4 × Nat => w.1 = p)).map (fun w => Slot.reserved (id + w.2))
       t.me.q p = (s.me.q p ++ (if s.me.c.await = none then mine else [])).drop (taken rs p)
     let gives (t : State) (vs : List Dbl) : Prop :=
       t.me.fills = s.me.fills ++ vs.mapIdx (fun i v => ⟨id + i, id + i, 0, 0, .value v⟩) ∧ t.me.c.await = none ∧
         t.me.c.pc = pcAdd s.me.c.pc 2
     let waits (o : Out) (ws : List (BitVec 4)) (stall : Bool) : Prop := ∃ t k, o = .next t ∧ slots [] ws t ∧ t.me.fills = s.me.fills ∧
       t.me.c.await = some (k, id) ∧ t.me.c.waiting = stall ∧ t.me.c.pc = s.me.c.pc ∧ t.me.cqc = s.me.cqc ∧ t.die0 = s.die0 ∧
       t.die1 = s.die1
     (s.Reads ops (h :: recDoubles r) → (s.me.c.await = none → s.Room ops [d]) →
       let enq := exec (.enq d a b ka wait) s
       (q.faulted = false → q.placement = .onDie → s.controlQuiet s.cur = true → ∃ t,
         enq = .next t ∧ (t.queue dd n).recs = q.recs ++ [r] ∧ (t.queue dd n).tail = q.tail ∧
         slots ops [d] t ∧ gives t [0] ∧ (t.tile s.cur).rset = [] ∧
         (∀ m, m ≠ n → t.queue dd m = s.queue dd m) ∧ (∀ m, t.queue (!dd) m = s.queue (!dd) m)) ∧
       (q.faulted = false → q.placement = .onDie → s.controlQuiet s.cur = false → waits enq [d] false) ∧
       (q.faulted = true → ∃ t, enq = .next t ∧ slots ops [d] t ∧ gives t [2] ∧ t.die0 = s.die0 ∧ t.die1 = s.die1) ∧
       (q.faulted = false → q.placement = .full →
         (wait = false → ∃ t, enq = .next t ∧ slots ops [d] t ∧ gives t [1] ∧ t.die0 = s.die0 ∧ t.die1 = s.die1) ∧
         (wait = true → waits enq [d] true))) ∧
     (s.Reads [(a, ka)] [h] →
       ((s.me.c.await = none → s.Room [(a, ka)] eight) → s.me.cqc.length < 8 → q.work = false →
         let deq := exec (.deq d a ka wait) s
         (∀ rest, q.res = true → q.recs = r :: rest → ∃ t, deq = .next t ∧ t.queue dd n = { q with recs := rest } ∧
           t.me.cqc = s.me.cqc ++ [⟨true, false⟩] ∧ (t.tile s.cur).dcache = [] ∧ slots [(a, ka)] eight t ∧ gives t (recDoubles r)) ∧
         (q.res = true → q.recs = [] → q.faulted = false → q.rcount = 0 → q.refill = none →
           (wait = false → ∃ t, deq = .next t ∧ t.queue dd n = q ∧ t.me.cqc = s.me.cqc ++ [⟨false, false⟩] ∧
             slots [(a, ka)] eight t ∧ gives t (List.replicate 8 0)) ∧
           (wait = true → waits deq eight true)) ∧
         (q.res = true → q.recs = [] → q.refill.isSome = true → waits deq eight wait) ∧
         (q.res = true → q.recs = [] → q.faulted = true → q.refill = none → ∃ t, deq = .next t ∧ t.queue dd n = q ∧
           t.me.cqc = s.me.cqc ++ [⟨false, true⟩] ∧ slots [(a, ka)] eight t ∧ gives t (List.replicate 8 0))) ∧
       (s.Room [(a, ka)] [d] → exec (.qstat d a ka) s = s.retire .c 2 (fun c => (c.popQ [(a, ka)]).reserve d 0 0 (.value
         (BitVec.ofNat 64 (q.recs.length % 64 + (if q.spill then 64 else 0) + (if q.faulted then 128 else 0) +
           (if q.res then 256 else 0) + (if q.work then 512 else 0) + q.rcount % 2 ^ 25 * 65536))))))) ∧
  (∀ (s : State) (d a b : BitVec 4) (ka wait : Bool) (h : Dbl) (vs : List Dbl),
     let ops : List Src := (a, ka) :: (List.range 8).map (fun i => (b + BitVec.ofNat 4 i, false))
     let trap : Out := .next (s.takeTrap s.cur .c .fault ⟨0x13, h⟩)
     let eight : List (BitVec 4) := (List.range 8).map (fun i => d + BitVec.ofNat 4 i)
     ((∀ dd n, s.liveQueue h = some (dd, n) → some (s.queue dd n).ctx ≠ (s.tile s.cur).live) →
       (s.Reads ops (h :: vs) → s.Room ops [d] → exec (.enq d a b ka wait) s = trap) ∧
       (s.Reads [(a, ka)] [h] →
         (s.Room [(a, ka)] eight → exec (.deq d a ka wait) s = trap) ∧ (s.Room [(a, ka)] [d] → exec (.qstat d a ka) s = trap))) ∧
     (∀ dd n, s.liveQueue h = some (dd, n) → (s.queue dd n).work = true → s.Reads [(a, ka)] [h] → s.Room [(a, ka)] eight →
       exec (.deq d a ka wait) s = trap))

/-! ### Numbers (04_numbers.md) -/

/-- R56, R57: an F32 rounding that does not overflow delivers a multiple of its unit in the last place that is nearest to the
exact value (even on ties), or the next one toward zero, toward −∞ or toward +∞, as RM says; NX is raised exactly where it
differs. Both values are compared in units of the smaller exponent. -/
def Obligations.RoundingRule : Prop :=
  ∀ (rm : BitVec 2) (neg : Bool) (m : Nat) (e : Int), m ≠ 0 →
    let r := fround 24 rm false neg m e false
    r.fl.getLsbD 2 = false →
    ∃ (m' : Nat) (e' : Int), unpack false r.bits = .fin neg m' e' ∧ m' < 2 ^ 24 ∧ (e' = -149 ∨ 2 ^ 23 ≤ m') ∧
      let x := m * 2 ^ (e - min e e').toNat
      let y := m' * 2 ^ (e' - min e e').toNat
      let u := 2 ^ (e' - min e e').toNat
      (rm = 0 → 2 * x ≤ 2 * y + u ∧ 2 * y ≤ 2 * x + u ∧ (2 * x = 2 * y + u ∨ 2 * y = 2 * x + u → m' % 2 = 0)) ∧
      (rm = 1 ∨ rm = 2 ∧ neg = false ∨ rm = 3 ∧ neg = true → y ≤ x ∧ x < y + u) ∧
      (rm = 2 ∧ neg = true ∨ rm = 3 ∧ neg = false → x ≤ y ∧ y < x + u) ∧
      (r.fl.getLsbD 0 = true ↔ x ≠ y)

/-! ### The vector engine (07_vector_class.md) -/

/-- R132, R136, R137: VADD, VSUB, VMUL, VFMA, VFMS, VFNMA and VSCALE in each active lane, by TY: F32, both BF16 halves, or
integers; exposures 4, 5 and 6. -/
def Obligations.VectorArithmeticResult : Prop :=
  ∀ (s : State) (vd va vb vc : BitVec 6) (m : Msk) (ty : BitVec 3) (r : Rnd) (vs : List (List Lane)),
    let act := s.me.active m
    let up (x : Lane) : FV := unpack r.fzi x
    let by_ (f : Nat → FV → FV → FV → FR) (g : Lane → Lane → Lane → Lane) (i : Nat) : FR :=
      let a := lane vs 0 i
      let b := lane vs 1 i
      let c := lane vs 2 i
      if ty = 0 then f 24 (up a) (up b) (up c)
      else if ty = 1 then joinB (f 8 (up (loF a)) (up (loF b)) (up (loF c))) (f 8 (up (hiF a)) (up (hiF b)) (up (hiF c)))
      else ⟨g a b c, 0⟩
    (s.VReads [(va, act), (vb, act)] [va, vb] vs →
      let out (l : Nat) (f : Nat → FR) : Out := s.lanewise 3 vd m [va, vb] l f
      exec (.vadd vd va vb m ty r) s = out 4 (by_ (fun p a b _ => fadd p r.rm r.fzo a b) (fun a b _ => a + b)) ∧
      exec (.vsub vd va vb m ty r) s = out 4 (by_ (fun p a b _ => fadd p r.rm r.fzo a b.neg) (fun a b _ => a - b)) ∧
      exec (.vmul vd va vb m ty r) s = out 5 (by_ (fun p a b _ => fmul p r.rm r.fzo a b) (fun a b _ => a * b)) ∧
      exec (.vscale vd va vb m r) s =
        out 4 (fun i => scaleBy r.rm r.fzo (up (lane vs 0 i)) ((lane vs 1 i).setWidth 8))) ∧
    (s.VReads [(va, act), (vb, act), (vc, act)] [va, vb, vc] vs →
      let out (f : Nat → FR) : Out := s.lanewise 3 vd m [va, vb, vc] 6 f
      exec (.vfma vd va vb vc m ty r) s = out (by_ (fun p => ffma p r.rm r.fzo) (fun a b c => a * b + c)) ∧
      exec (.vfms vd va vb vc m ty r) s =
        out (by_ (fun p a b c => ffma p r.rm r.fzo a b c.neg) (fun a b c => a * b - c)) ∧
      exec (.vfnma vd va vb vc m ty r) s =
        out (by_ (fun p a b c => ffma p r.rm r.fzo a.neg b c) (fun a b c => c - a * b)))

/-- R58, R136, R138, R139: VMIN, VMAX, VABS and VNEG, the five functions of F32, and each pair of VCVT but .L6.F32. The flags
of conversions out of range are the model's readings (log 34). -/
def Obligations.VectorFunctionResult : Prop :=
  ∀ (s : State) (vd va vb : BitVec 6) (m : Msk) (ty : BitVec 3) (r : Rnd) (vs : List (List Lane)),
    let act := s.me.active m
    let a (i : Nat) : Lane := lane vs 0 i
    let b (i : Nat) : Lane := lane vs 1 i
    let up (x : Lane) : FV := unpack r.fzi x
    let on (f g : Lane → Lane → Lane) (i : Nat) : FR :=
      let go (x y : Lane) : FR := flushOut r.fzo (f (flushIn r.fzi x) (flushIn r.fzi y))
      if ty = 0 then go (a i) (b i)
      else if ty = 1 then joinHi (go (loF (a i)) (loF (b i))) (go (hiF (a i)) (hiF (b i)))
      else ⟨g (a i) (b i), 0⟩
    let less (x y : Lane) : Bool := if ty = 2 then x.toInt < y.toInt else x.toNat < y.toNat
    let keep (f : Lane → Lane) (x : Lane) : Lane := if isNanL x then 0x7FC00000#32 else f x
    (s.VReads [(va, act), (vb, act)] [va, vb] vs →
      exec (.vmin vd va vb m ty r) s = s.lanewise 3 vd m [va, vb] 4 (on (fpick false) (fun x y => if less x y then x else y)) ∧
      exec (.vmax vd va vb m ty r) s = s.lanewise 3 vd m [va, vb] 4 (on (fpick true) (fun x y => if less x y then y else x)) ∧
      exec (.vcvt vd va vb m 1 0 r) s = s.lanewise 3 vd m [va, vb] 5
        (fun i => joinB (deliver 8 r.rm r.fzo (up (a i))) (deliver 8 r.rm r.fzo (up (b i))))) ∧
    (s.VReads [(va, act)] [va] vs →
      let out (l : Nat) (f : Nat → FR) : Out := s.lanewise 3 vd m [va] l f
      exec (.vabs vd va m ty r) s = out 2
        (on (fun x _ => keep (fun x => x &&& 0x7FFFFFFF#32) x) (fun x _ => if x.toInt < 0 then -x else x)) ∧
      exec (.vneg vd va m ty r) s = out 2 (on (fun x _ => keep (fun x => x ^^^ 0x80000000#32) x) (fun x _ => -x)) ∧
      exec (.vrcp vd va m r) s = out 10 (fun i => frcp r.rm r.fzo (up (a i))) ∧
      exec (.vrsq vd va m r) s = out 10 (fun i => frsq r.rm r.fzo (up (a i))) ∧
      exec (.vsqrt vd va m r) s = out 14 (fun i => fsqrt r.rm r.fzo (up (a i))) ∧
      exec (.vexp2 vd va m r) s = out 12 (fun i => fexp2 r.rm r.fzo (up (a i))) ∧
      exec (.vlog2 vd va m r) s = out 12 (fun i => flog2 r.rm r.fzo (up (a i))) ∧
      exec (.vcvt vd va vb m 0 1 r) s = out 5 (fun i => deliver 24 r.rm r.fzo (up (loF (a i)))) ∧
      exec (.vcvt vd va vb m 0 4 r) s = out 5 (fun i => deliver 24 0 r.fzo (l6Val ((a i).setWidth 6))) ∧
      exec (.vcvt vd va vb m 0 5 r) s = out 5 (fun i => ⟨ofE8 ((a i).setWidth 8), 0⟩) ∧
      exec (.vcvt vd va vb m 0 2 r) s = out 5 (fun i => ofInt32 r.rm r.fzo (a i).toInt) ∧
      exec (.vcvt vd va vb m 0 3 r) s = out 5 (fun i => ofInt32 r.rm r.fzo (a i).toNat) ∧
      exec (.vcvt vd va vb m 2 0 r) s = out 5 (fun i => toInt32 true r.rm (up (a i))) ∧
      exec (.vcvt vd va vb m 3 0 r) s = out 5 (fun i => toInt32 false r.rm (up (a i))) ∧
      exec (.vcvt vd va vb m 2 3 r) s = out 5 (fun i => if 2 ^ 31 ≤ (a i).toNat then ⟨0x7FFFFFFF#32, 16⟩ else ⟨a i, 0⟩) ∧
      exec (.vcvt vd va vb m 3 2 r) s = out 5 (fun i => if (a i).toInt < 0 then ⟨0, 16⟩ else ⟨a i, 0⟩) ∧
      exec (.vcvt vd va vb m 5 0 r) s =
        out 5 (fun i => ⟨((a i).extractLsb' 23 8).setWidth 32, if isNanL (a i) then 16 else 0⟩))

/-- R123, R135, R141–R143, R145, R148, R150, R151: logic, shifts, VMOV, VLI, VSEL, VCMP, the mask operations, the permutes,
VRAND and VNOP. -/
def Obligations.VectorLogicResult : Prop :=
  ∀ (s : State) (vd va vb : BitVec 6) (m : Msk) (d p q : BitVec 3) (imm : BitVec 16) (n : BitVec 9) (ty cc : BitVec 3)
    (fzi f32 : Bool) (vs : List (List Lane)),
    let act := s.me.active m
    let a (i : Nat) : Lane := lane vs 0 i
    let b (i : Nat) : Lane := lane vs 1 i
    let mask (x : Mask) : Out := s.retire .v 3 (fun c => { c.setMask d x with tick := c.tick + 1 })
    let perm (f : Nat → Nat) : Nat → FR := fun i => ⟨a (f i), 0⟩
    (s.VReads [(va, act), (vb, act)] [va, vb] vs →
      let out (f : Nat → Lane) : Out := s.lanewise 3 vd m [va, vb] 2 (fun i => ⟨f i, 0⟩)
      exec (.vand vd va vb m) s = out (fun i => a i &&& b i) ∧ exec (.vor vd va vb m) s = out (fun i => a i ||| b i) ∧
      exec (.vxor vd va vb m) s = out (fun i => a i ^^^ b i) ∧
      exec (.vshl vd va vb m) s = out (fun i => a i <<< ((b i).toNat % 32)) ∧
      exec (.vshr vd va vb m) s = out (fun i => a i >>> ((b i).toNat % 32)) ∧
      exec (.vsha vd va vb m) s = out (fun i => (a i).sshiftRight ((b i).toNat % 32)) ∧
      exec (.vcmp d va vb m ty cc fzi) s = s.retire .v 3 (fun c =>
        { (c.vpops [va, vb]).setMask d (condMask act (fun i => vcond ty cc fzi (a i) (b i))) with tick := c.tick + 1 })) ∧
    (s.VReads [(va, act)] [va] vs →
      exec (.vnot vd va m) s = s.lanewise 3 vd m [va] 2 (fun i => ⟨~~~(a i), 0⟩) ∧
      exec (.vmov vd va m) s = s.lanewise 3 vd m [va] 2 (fun i => ⟨a i, 0⟩)) ∧
    (s.VReads [] [] vs → exec (.vli vd m imm) s = s.lanewise 3 vd m [] 2 (fun _ => ⟨imm.signExtend 32, 0⟩)) ∧
    (s.VReads [(va, act), (vb, ~~~act)] [va, vb] vs → exec (.vsel vd va vb m) s =
      s.wholly vd [va, vb] 2 ((List.range 512).map (fun i => if act.getLsbD i then a i else b i)) 0) ∧
    exec (.vmand d p q) s = mask (s.me.maskReg p &&& s.me.maskReg q) ∧
    exec (.vmor d p q) s = mask (s.me.maskReg p ||| s.me.maskReg q) ∧
    exec (.vmxor d p q) s = mask (s.me.maskReg p ^^^ s.me.maskReg q) ∧
    exec (.vmandn d p q) s = mask (s.me.maskReg p &&& ~~~(s.me.maskReg q)) ∧
    exec (.vmnot d p) s = mask (~~~(s.me.maskReg p)) ∧
    exec (.vmset d) s = mask (BitVec.allOnes 512) ∧ exec (.vmclr d) s = mask 0 ∧
    (s.VReads [(va, readLanes act (fun i => (b i).toNat % 512)), (vb, act)] [va, vb] vs →
      exec (.vperm vd va vb m) s = s.lanewise 3 vd m [va, vb] 5 (perm (fun i => (b i).toNat % 512))) ∧
    (s.VReads [(va, readLanes act (fun i => (i + n.toNat) % 512))] [va] vs →
      exec (.vrot vd va m n) s = s.lanewise 3 vd m [va] 5 (perm (fun i => (i + n.toNat) % 512))) ∧
    (s.VReads [(va, 1#512 <<< n.toNat)] [va] vs →
      exec (.vbcast vd va m n) s = s.lanewise 3 vd m [va] 3 (perm (fun _ => n.toNat))) ∧
    (s.VReads [(va, 3), (vb, 3)] [va, vb] vs →
      let key : BitVec 64 := a 1 ++ a 0
      let ctr : BitVec 64 := b 1 ++ b 0
      let u (i : Nat) : Lane := (fmix64 (key ^^^ (ctr + BitVec.ofNat 64 i))).extractLsb' 32 32
      exec (.vrand vd va vb m f32) s =
        s.lanewise 3 vd m [va, vb] 8 (fun i => ⟨if f32 then drawF32 (u i) else u i, 0⟩)) ∧
    exec .vnop s = s.retire .v 1 (fun c => { c with tick := c.tick + 1 }) ∧ encode .vnop = [0x4000#16] ∧
    encode (.vli vd m imm) = [0x6A80#16 ||| vd.setWidth 16, m.msk.setWidth 16 <<< 1 ||| bit m.mneg 16, imm]

/-- R71, R72, R140, R146, R147: the reductions over one segment of 512 lanes or eight of 64, VSCAN, and VCVT.L6.F32 by blocks
of 128 lanes. That VSCAN and VRSUM deliver the canonical NaN is the model's reading (log 34). R73, R149: VSORT gives V(VD) the
keys and V(VD + 1) the indices, both exposed 16 ticks; each segment of 64 lanes is a reordering of its pairs, and where every
lane is active and no key is a NaN the keys descend and equal keys keep lane order. -/
def Obligations.VectorReductionResult : Prop :=
  (∀ (s : State) (vd va vb : BitVec 6) (m : Msk) (ty : BitVec 3) (seg fzi : Bool) (r : Rnd) (vs : List (List Lane)),
     let act := s.me.active m
     let v := vs.getD 0 []
     let segs : List (List Nat) := if seg then (List.range 8).map (fun k => (List.range 64).map (fun i => 64 * k + i)) else [List.range 512]
     let each (f : List Nat → Lane) : List Lane := segs.flatMap (fun ls => List.replicate ls.length (f ls))
     let operands (ls : List Nat) : List Lane := ls.map (sumOperand ty r act v)
     let flags (f : List Nat → Fl) : Fl := segs.foldl (fun a ls => a ||| f ls) 0
     (s.VReads [(va, act)] [va] vs →
       let tree (ls : List Nat) : Lane × Fl := treeSum (sumOp ty r) 9 (operands ls)
       let scan (ls : List Nat) : List Lane × Fl := scanGo (sumOp ty r) ls.length 9 1 (operands ls)
       exec (.vrsum vd va m ty seg r) s = s.wholly vd [va] 9 (each (fun ls => (tree ls).1)) (flags (fun ls => (tree ls).2)) ∧
       exec (.vrmax vd va m ty seg) s = s.wholly vd [va] 9 (each (extreme true ty act v)) 0 ∧
       exec (.vrmin vd va m ty seg) s = s.wholly vd [va] 9 (each (extreme false ty act v)) 0 ∧
       exec (.vramax vd va m seg) s = s.wholly vd [va] 9 (each (argMax act v)) 0 ∧
       exec (.vscan vd va m ty seg r) s =
         s.wholly vd [va] 11 (segs.flatMap (fun ls => (scan ls).1)) (flags (fun ls => (scan ls).2))) ∧
     (s.VReads [(va, act), (vb, lanesMask (((List.range 4).map (128 * ·)).filter (fun b =>
         (List.range 128).any (fun i => act.getLsbD (b + i)))))] [va, vb] vs →
       let x (i : Nat) : FV := unpack fzi (lane vs 0 i)
       let scale (b : Nat) : Byte :=
         if vb = 56 then l6Scale (((List.range 128).filter (fun i => act.getLsbD (128 * b + i))).map (fun i => x (128 * b + i)))
         else if (lane vs 1 (128 * b)).setWidth 8 = 255#8 then 254 else (lane vs 1 (128 * b)).setWidth 8
       exec (.vcvtL6 vd va vb m fzi) s = s.lanewise 3 vd m [va, vb] 5 (fun i =>
         let e := scale (i / 128)
         ⟨0#16 ++ e ++ 0#2 ++ (l6code (x i) e).1, (l6code (x i) e).2⟩))) ∧
  (∀ (s : State) (vd va vb : BitVec 6) (m : Msk) (vs : List (List Lane)),
     s.VReads [(va, allLanes), (vb, allLanes)] [va, vb] vs →
     ∃ keys idx : List Lane, keys.length = 512 ∧ idx.length = 512 ∧
       exec (.vsort vd va vb m) s = s.retire .v 3 (fun c =>
         let c' := c.vpops [va, vb]
         { c' with
           pending := c'.pending ++ [⟨vd.toNat, allLanes, keys, c'.tick, c'.tick + 16⟩,
             ⟨vd.toNat + 1, allLanes, idx, c'.tick, c'.tick + 16⟩]
           tick := c'.tick + 1 }) ∧
       ∀ g, g < 8 →
         let at_ (i : Nat) : Nat := 64 * g + i
         ((List.range 64).map (fun i => (keys.getD (at_ i) 0, idx.getD (at_ i) 0))).Perm
           ((List.range 64).map (fun i => (lane vs 0 (at_ i), lane vs 1 (at_ i)))) ∧
         ((∀ i, i < 64 → (s.me.active m).getLsbD (at_ i) = true ∧ isNanL (lane vs 0 (at_ i)) = false) →
           (∀ i j, i < j → j < 64 → fkey (keys.getD (at_ j) 0) ≤ fkey (keys.getD (at_ i) 0)) ∧
           ((∀ i, i < 64 → lane vs 1 (at_ i) = BitVec.ofNat 32 (at_ i)) → ∀ i j, i < j → j < 64 →
             fkey (keys.getD (at_ j) 0) = fkey (keys.getD (at_ i) 0) → (idx.getD (at_ i) 0).toNat < (idx.getD (at_ j) 0).toNat)))

/-- R101, R144, R156: VCMPQ, VTESTZ and VTESTN push one entry into CQV and VMOVQ one lane into Q[D]; a full queue makes the
vector engine wait, and no tick passes. -/
def Obligations.VectorHandOffResult : Prop :=
  ∀ (s : State) (va vb : BitVec 6) (m : Msk) (d : BitVec 4) (n : BitVec 9) (ty cc : BitVec 3) (fzi all : Bool)
    (vs : List (List Lane)),
    let act := s.me.active m
    let on (f : Nat → Bool) (every : Bool) : Bool :=
      if every then (List.range 512).all (fun i => !act.getLsbD i || f i)
      else (List.range 512).any (fun i => act.getLsbD i && f i)
    let push (codes : List (BitVec 6)) (v : Bool) : Out := s.retire .v 3 (fun c =>
      { c.vpops codes with cqv := c.cqv ++ [⟨v, false⟩], tick := c.tick + 1 })
    let zero (x : Lane) : Bool := (flushIn fzi x).extractLsb' 0 31 = 0#31
    (s.VReads [(va, act), (vb, act)] [va, vb] vs → s.me.cqv.length < 8 → s.vectorQuiet s.cur = true →
      exec (.vcmpq all va vb m ty cc fzi) s =
        push [va, vb] (on (fun i => vcond ty cc fzi (lane vs 0 i) (lane vs 1 i)) all)) ∧
    (s.VReads [(va, act)] [va] vs →
      (8 ≤ s.me.cqv.length → exec (.vtestz va m ty fzi) s = .next (s.stand s.cur .v)) ∧
      (s.me.cqv.length < 8 → s.vectorQuiet s.cur = true →
        exec (.vtestz va m ty fzi) s = push [va] (on (fun i =>
          let x := lane vs 0 i
          if ty = 0 then zero x else if ty = 1 then zero (loF x) && zero (hiF x) else x = 0) true) ∧
        exec (.vtestn va m ty fzi) s = push [va] (on (fun i =>
          lane vs 0 i = if ty = 1 then 0xFF80FF80#32 else 0xFF800000#32) true))) ∧
    (s.VReads [(va, 1#512 <<< n.toNat)] [va] vs →
      (4 ≤ (s.me.q d).length → exec (.vmovq d va n) s = .next (s.stand s.cur .v)) ∧
      ((s.me.q d).length < 4 → s.vectorQuiet s.cur = true → exec (.vmovq d va n) s = s.retire .v 2 (fun c =>
        { (c.vpops [va]).reserve d 0 0 (.value ((lane vs 0 n.toNat).setWidth 64)) with tick := c.tick + 1 })))

/-- R133, R134, R152–R155: VAI, VAADD and VAPARM; VLD, VLDX, VST and VSTX of lanes that all lead somewhere leave a load in
flight or a store to be performed; the 17th load waits. The bytes of each lane are those of its element. The lanes are the
active ones in ascending order, their element is that of SZ, or of the format of the bank of the first address (VLD, VST) or
of VAn (VLDX, VSTX), and lane l lies at VAn + offset × 64 + l elements of its size, or at VAn + index × size: in the own
scratchpad, in another tile's, or, where its page stands in the tile's TLB, in memory at the address that the page gives. -/
def Obligations.VectorMemoryIssues : Prop :=
  ∀ (s s' : State) (n : BitVec 3) (w : BitVec 6) (imm : BitVec 32) (off : BitVec 16) (v : Dbl) (m : VMem) (x : VMemX)
    (e : VElem) (lanes : List (Nat × Loc)) (vs : List (List Lane)),
    let out (u : State) (k : Nat) (f : TCtx → TCtx) : Out := u.retired (u.modTc s.cur (fun c => { f c with tick := c.tick + 1 })) .v k
    let load (cls : BitVec 4) (scope : BitVec 3) (vd : BitVec 6) (c : TCtx) : TCtx :=
      { c with seq := c.seq + 1
               vloads := if lanes = [] then c.vloads
                 else c.vloads ++ [⟨c.seq, cls.toNat, scope.toNat, vd.toNat, e, lanes, c.tick⟩] }
    let store (cls : BitVec 4) (scope : BitVec 3) (k : Nat) (c : TCtx) : TCtx :=
      { c with seq := c.seq + 1
               vstores := if lanes = [] then c.vstores else c.vstores ++
                 [⟨c.seq, cls.toNat, scope.toNat, lanes.flatMap (fun p => storeBytes e p.1 p.2 (lane vs k p.1))⟩] }
    s'.cur = s.cur →
    exec (.vai n imm) s = out s 3 (fun c => { c with vas := aset c.vas n.toNat (imm.signExtend 64) }) ∧
    exec (.vaadd n off) s = out s 2 (fun c => { c with vas := aset c.vas n.toNat (c.va n + off.signExtend 64 * 64) }) ∧
    (s.paramWord s.cur w = .ok (s', v) → s.vectorQuiet s.cur = true →
      exec (.vaparm n w) s = out s' 2 (fun c => { c with vas := aset c.vas n.toNat v })) ∧
    (s.lineAccess m accR = .ok (s', e, lanes) →
      (s.me.vloads.length < 16 → exec (.vld m) s = out s' 3 (load m.cls m.scope m.v)) ∧
      (16 ≤ s.me.vloads.length → exec (.vld m) s = .next (s.pause s.cur .v))) ∧
    (s.VReads [(x.vi, s.me.active x.m)] [x.vi] vs → s.gatherAccess x (vs.getD 0 []) accR = .ok (s', e, lanes) →
      s.me.vloads.length < 16 → exec (.vldx x) s = out s' 3 (load x.cls x.scope x.v)) ∧
    (s.VReads [(m.v, s.me.active m.m)] [m.v] vs → s.lineAccess m accW = .ok (s', e, lanes) →
      exec (.vst m) s = out s' 3 (fun c => store m.cls m.scope 0 (c.vpops [m.v]))) ∧
    (s.VReads [(x.vi, s.me.active x.m), (x.v, s.me.active x.m)] [x.vi, x.v] vs →
      s.gatherAccess x (vs.getD 0 []) accW = .ok (s', e, lanes) →
      exec (.vstx x) s = out s' 3 (fun c => store x.cls x.scope 1 (c.vpops [x.vi, x.v]))) ∧
    ∀ (acc : Acc) (idx : List Lane),
      let cx := liveCtx (s.tile s.cur)
      let size : Nat := match e with | .w32 => 4 | .h16 => 2 | _ => 1
      let kind (sz : BitVec 2) (first : Dbl) : VElem :=
        if sz = 0 then .w32 else if sz = 1 then .h16 else if sz = 2 then .s8 else
        ([.w32, .w32, .h16, .w32, .s8, .l6, .u8] : List VElem).getD (s.fmtAt s.cur first) .w32
      let own (a : Nat) : Prop := 0x00FF00000000 ≤ a ∧ a < 0x010000000000
      let pool (a : Nat) : Prop := 0x00FE00000000 ≤ a ∧ a < 0x00FF00000000
      let page (a : Nat) : Option TlbEntry := (s.tile s.cur).tlb.find? (fun y => y.hits cx a)
      let leads (act : Mask) (addr : Nat → Dbl) : Prop :=
        lanes.map (·.1) = (List.range 512).filter (fun l => act.getLsbD l) ∧
        ((∀ l, l < 512 → act.getLsbD l = true → let a := (addr l).toNat
            own a ∨ pool a ∨ (page a).isSome = true) →
          ∀ p, p ∈ lanes → let a := (addr p.1).toNat
            (own a → p.2 = .scr s.cur (a - 0x00FF00000000)) ∧
            (∀ u, pool a → s.mapTile cx ((a - 0x00FE00000000) / 0x200000) = some u →
              p.2 = .scr u ((a - 0x00FE00000000) % 0x200000)) ∧
            (∀ y, ¬ own a → ¬ pool a → page a = some y → p.2 = .mem ((y.pte.extractLsb' 16 37).toNat * 2 ^ 15 +
              a % 2 ^ (match y.level with | 0 => 15 | 1 => 21 | _ => 30))))
      (s.lineAccess m acc = .ok (s', e, lanes) → let ea := s.me.va m.areg + m.off.signExtend 64 * 64
        e = kind m.sz ea ∧
        leads (s.me.active m.m) (fun l => ea + BitVec.ofNat 64 (if e = .l6 then 6 * l / 8 else size * l))) ∧
      (s.gatherAccess x idx acc = .ok (s', e, lanes) → let b := s.me.va x.areg
        e = kind x.sz b ∧ e ≠ .l6 ∧
        leads (s.me.active x.m) (fun l => b + (idx.getD l 0).signExtend 64 * BitVec.ofNat 64 size))

/-- R126, R132, R133: what readers see of a result. An instruction that writes lanes at tick t with exposure L leaves every
register as it was for a reader of a tick below t + L, the lanes it does not write for every reader, and from t + L on, unless
a write due later was issued before, its own lanes read as it computed them. A load that completes gives its lanes at once;
PENDING_WRITE_LAND of a due write changes what no later reader sees. R126, R133, R153: VECTOR_LOAD_COMPLETE of a load whose
earlier accesses are performed, of lines none of which is uncorrectable (R387: one that is, in memory or in a scratchpad,
raises MCHECK), gives each lane its element's value, visible to every later issue; PENDING_WRITE_LAND of the oldest due write
changes nothing that an instruction can read. That TVAL is the address of a byte of the line, through the own window for the
own scratchpad, is the model's choice (log 37). -/
def Obligations.ExposureRule : Prop :=
  (∀ (c : TCtx) (vd l : Nat) (mask : Mask) (vals : List Lane), vals.length = 512 →
     let c' := c.expose vd mask vals l
     (∀ n u, n ≠ vd → c'.vread n u = c.vread n u) ∧
     (∀ u, u < c.tick + l → c'.vread vd u = c.vread vd u) ∧
     (∀ u i, mask.getLsbD i = false → (c'.vread vd u).getD i 0 = (c.vread vd u).getD i 0) ∧
     (∀ u i, c.tick + l ≤ u → i < 512 → mask.getLsbD i = true →
       (∀ w, w ∈ c.pending → w.reg = vd → w.vis ≤ c.tick + l ∧ w.iss ≤ c.tick) → (c'.vread vd u).getD i 0 = vals.getD i 0)) ∧
  (∀ (s : State) (i : Nat),
     let lost (at_ : Loc) (k : Nat) : Bool := match at_ with
       | .mem pa => s.poison.contains (lineOf (pa + k))
       | .scr q off => (s.tile q).spoiled.contains (lineOf (off + k))
     (∀ l, s.me.vloads[i]? = some l → vloadReady s.me l = true → (s.tile s.cur).bad = none →
       (∀ p k, p ∈ l.lanes → k < elemBytes l.elem p.1 → lost p.2 k = false) →
       ∃ t, exec (.vectorLoadComplete i) s = .next t ∧
       t.me.vloads = s.me.vloads.filter (fun y => y.seq ≠ l.seq) ∧
       (∃ vals, t.me.pending = s.me.pending ++ [⟨l.reg, lanesMask (l.lanes.map (·.1)), vals, l.iss, l.iss + 1⟩] ∧
         ∀ p, p ∈ l.lanes → p.1 < 512 → (l.lanes.map (·.1)).Nodup →
           vals.getD p.1 0 = elemLane l.elem p.1 (s.readLoc s.cur p.2 (elemBytes l.elem p.1))) ∧
       { t.me with vloads := s.me.vloads, pending := s.me.pending } = s.me ∧ s.SameBut t s.cur ∧ s.SameMem t) ∧
     (∀ l p k, s.me.vloads[i]? = some l → vloadReady s.me l = true → (s.tile s.cur).bad = none → p ∈ l.lanes →
       k < elemBytes l.elem p.1 → lost p.2 k = true →
       ∃ (u : State) (x : Nat), exec (.vectorLoadComplete i) s = .next (u.machineCheck s.cur (BitVec.ofNat 64 x)) ∧
         ∃ q g, q ∈ l.lanes ∧ g < elemBytes l.elem q.1 ∧ lost q.2 g = true ∧ (∀ pa, q.2 = .mem pa → x = pa + g) ∧
           ∀ off, q.2 = .scr s.cur off → x = 0x00FF00000000 + off + g) ∧
     (∀ w, s.me.pending[i]? = some w → w.vis ≤ s.me.tick → (∀ l, l ∈ s.me.vloads → l.reg ≠ w.reg) →
       (∀ x, x ∈ s.me.pending → x.reg = w.reg → x ≠ w → w.before x = true ∧ x.before w = false) → s.me.pending.Nodup →
       ∃ t, exec (.pendingWriteLand i) s = .next t ∧ t.me.pending = s.me.pending.eraseIdx i ∧
         (∀ n u, s.me.tick ≤ u → t.me.vread n u = s.me.vread n u) ∧
         { t.me with pending := s.me.pending, vregs := s.me.vregs } = s.me ∧ s.SameBut t s.cur ∧ s.SameMem t))

/-- R123, R126, R128: the frame of the vector instructions that compute one vector: no other vector register changes for any
reader, and no register for a reader of an earlier tick; masks, address registers, queues, the other engines, other tiles and
every byte of memory are as they were; one tick passes, and the engine goes on past three parcels. -/
def Obligations.VectorFrame : Prop :=
  ∀ (i : Instr) (s : State) (vd : BitVec 6) (codes : List (BitVec 6)) (reads : List (BitVec 6 × Mask)) (vs : List (List Lane)),
    vectorForm s.me.active vs i = some (vd, codes, reads) → s.VReads reads codes vs →
    ∃ t, exec i s = .next t ∧ s.SameBut t s.cur ∧ (s.tile s.cur).SameBut (t.tile s.cur) ∧ s.SameMem t ∧
      (∀ k u, k ≠ vd.toNat → t.me.vread k u = s.me.vread k u) ∧ (∀ k u, u ≤ s.me.tick → t.me.vread k u = s.me.vread k u) ∧
      t.me.tick = s.me.tick + 1 ∧ t.me.v.pc = s.me.v.pc + 6 ∧ t.me.v.stack = s.me.v.stack ∧ t.me.v.oq = s.me.v.oq ∧
      (∀ k, k ∉ codes.map (fun x => x.toNat % 4) → aget t.me.feed k = aget s.me.feed k) ∧
      { t.me with v := s.me.v, pending := s.me.pending, vflags := s.me.vflags, tick := s.me.tick, feed := s.me.feed } = s.me

/-! ### The matrix and the copy engine (08_matrix_class.md, 09_memory_class.md) -/

/-- R48, R175, R176, R209, R210, R218: the literals, parameter words and stack operations of the matrix and the copy engine,
with b the top of a stack and a the entry below it; XFMT; STKOVER at a ninth entry and STKUNDER below what an instruction
needs. -/
def Obligations.StackResult : Prop :=
  ∀ (s s' : State) (k : BitVec 6) (h : BitVec 16) (w : BitVec 32) (bank : BitVec 5) (v : Dbl),
    let m := s.me.mstack
    let x := s.me.xstack
    let putM (n : Nat) (st : List Dbl) : Out := s.retire .m n (fun c => { c with mstack := st })
    let putX (n : Nat) (st : List Dbl) : Out := s.retire .x n (fun c => { c with xstack := st })
    let full (e : Eng) : Out := .next (s.takeTrap s.cur e .fault ⟨0x04, 0xFFFFFFFFFFFFFFFF#64⟩)
    let under (e : Eng) : Out := .next (s.takeTrap s.cur e .fault ⟨0x05, 0xFFFFFFFFFFFFFFFF#64⟩)
    exec .mnop s = s.retired s .m 1 ∧ exec .xnop s = s.retired s .x 1 ∧
    (m.length < 8 → exec (.mlit6 k) s = putM 1 (k.setWidth 64 :: m) ∧ exec (.mlit16 h) s = putM 2 (h.signExtend 64 :: m) ∧
      exec (.mlit32 w) s = putM 3 (w.signExtend 64 :: m) ∧
      (s.paramWord s.cur k = .ok (s', v) → exec (.mparm k) s =
        s.retired (s'.modTc s.cur (fun c => { c with mstack := v :: c.mstack })) .m 1)) ∧
    (x.length < 8 → exec (.xlit6 k) s = putX 1 (k.setWidth 64 :: x) ∧ exec (.xlit16 h) s = putX 2 (h.signExtend 64 :: x) ∧
      exec (.xlit32 w) s = putX 3 (w.signExtend 64 :: x) ∧
      (s.paramWord s.cur k = .ok (s', v) → exec (.xparm k) s =
        s.retired (s'.modTc s.cur (fun c => { c with xstack := v :: c.xstack })) .x 1)) ∧
    (m.length = 8 → exec (.mlit6 k) s = full .m ∧ exec .mdup s = full .m ∧ exec .mover s = full .m) ∧
    (x.length = 8 → exec (.xlit6 k) s = full .x ∧ exec .xdup s = full .x ∧ exec .xover s = full .x) ∧
    (m = [] → exec .mdup s = under .m ∧ exec .mdrop s = under .m) ∧
    (m.length < 2 → ∀ i, i ∈ [Instr.mswap, .mover, .madd, .msub, .mshl, .mmul] → exec i s = under .m) ∧
    (x = [] → exec .xdup s = under .x ∧ exec .xdrop s = under .x ∧ exec (.xfmt bank) s = under .x) ∧
    (x.length < 2 → ∀ i, i ∈ [Instr.xswap, .xover, .xadd, .xsub, .xshl, .xmul] → exec i s = under .x) ∧
    (∀ p, p ∈ [Instr.mdup, .mdrop, .mswap, .mover, .madd, .msub, .mshl, .mmul].zipIdx →
      encode p.1 = [0x8140#16 ||| BitVec.ofNat 16 p.2]) ∧
    (∀ p, p ∈ [Instr.xdup, .xdrop, .xswap, .xover, .xadd, .xsub, .xshl, .xmul].zipIdx →
      encode p.1 = [0xC140#16 ||| BitVec.ofNat 16 p.2]) ∧
    (∀ b r, m = b :: r → m.length ≤ 8 → exec .mdrop s = putM 1 r ∧ (m.length < 8 → exec .mdup s = putM 1 (b :: b :: r))) ∧
    (∀ b a r, m = b :: a :: r → m.length ≤ 8 →
      exec .mswap s = putM 1 (a :: b :: r) ∧ (m.length < 8 → exec .mover s = putM 1 (a :: b :: a :: r)) ∧
      exec .madd s = putM 1 ((a + b) :: r) ∧ exec .msub s = putM 1 ((a - b) :: r) ∧
      exec .mshl s = putM 1 ((a <<< (b.toNat % 64)) :: r) ∧ exec .mmul s = putM 1 ((a * b) :: r)) ∧
    (∀ b r, x = b :: r → x.length ≤ 8 → exec .xdrop s = putX 1 r ∧ (x.length < 8 → exec .xdup s = putX 1 (b :: b :: r)) ∧
      (b.toNat < 2 ^ 25 → b.toNat % 16 ≤ 6 → exec (.xfmt bank) s = s.retire .x 1 (fun c =>
        { c with xstack := r, bfmt := aset c.bfmt bank.toNat (b.setWidth 25) }))) ∧
    (∀ b a r, x = b :: a :: r → x.length ≤ 8 →
      exec .xswap s = putX 1 (a :: b :: r) ∧ (x.length < 8 → exec .xover s = putX 1 (a :: b :: a :: r)) ∧
      exec .xadd s = putX 1 ((a + b) :: r) ∧ exec .xsub s = putX 1 ((a - b) :: r) ∧
      exec .xshl s = putX 1 ((a <<< (b.toNat % 64)) :: r) ∧ exec .xmul s = putX 1 ((a * b) :: r))

/-- R160, R172, R177–R184: the operands of MMA and MMAS against R178 and R180, with the trap of each: ILLEGAL for a field that
is refused, STALEVER for a FREE version, PROT for the lowest byte of A, of B with BVER 0 or of the drain area beyond the
scratchpad, for B beyond its version, a format code that differs from TY and an entry with 65,535 holders, PAGE for a B that
has no translation, PINOVER for a window above the quota or with more than 14 lines of a set; one whose operands pass enters
the queue of four as a record that holds them, and with BVER 1 as a holder of its version (R164); a full queue makes the
matrix engine wait. The same for MZERO, MDRAIN, MEPI and MTOPK. That M or N above 128 is ILLEGAL, the area of an MDRAIN behind
other records, the order of PROT's conditions (logs 22, 24, 40), that PINOVER of lines is found before PINOVER of ways (log
37), and what a BASE in a window range reaches (log 62) are the model's choices. -/
def Obligations.MatrixIssueResult : Prop :=
  ∀ (s s1 s2 : State) (sparse bf16 fzi fzo bver acc : Bool) (z2 : BitVec 2) (sh b a z v : Dbl) (rest : List Dbl),
    let t := s.cur
    let cx := liveCtx (s.tile t)
    let q := s.me.mq
    let f (d : Dbl) (lo n : Nat) : Nat := d.toNat / 2 ^ lo % 2 ^ n
    let trap (code : Byte) (tval : Dbl) : Out := .next (s.takeTrap t .m .fault ⟨code, tval⟩)
    let out (op : Nat) (fl : BitVec 6) (ops st : List Dbl) : Out := s.retire .m 1 (fun c =>
      { c with mq := c.mq ++ [⟨op, fl, c.m.pc, ops, 0, 0, false, false, [], none, none⟩], mstack := st })
    let enters (i : Instr) (op : Nat) (fl : BitVec 6) (ops st : List Dbl) : Prop :=
      (q.length < 4 → exec i s = out op fl ops st) ∧ (4 ≤ q.length → exec i s = .next (s.stand t .m))
    let beyond (off stride len count y : Nat) : Prop :=
      0x200000 ≤ y ∧ ∃ k, k < count ∧ off + k * stride ≤ y ∧ y < off + k * stride + len
    let lowest (p : Nat → Prop) (y : Nat) : Prop := p y ∧ ∀ w, p w → y ≤ w
    let zOk (z : Dbl) : Prop := f z 62 2 = 0 ∧ f z 53 3 = 0 ∧ f z 6 26 = 0 ∧ f z 32 21 % 64 = 0 ∧ (f z 2 2 ≠ 1 → f z 4 2 = 0) ∧
      (f z 61 1 = 0 → f z 56 5 = 0)
    let descOk (d : Dbl) : Prop := f d 40 24 = 0 ∧ f d 21 3 = 0 ∧ f d 0 21 % 16 = 0 ∧ f d 24 16 % 16 = 0
    (s.me.mstack = sh :: b :: a :: z :: rest → rest.length ≤ 4 →
      let ops := [sh, b, a, z]
      let ty := bf16 && !sparse
      let i : Instr := if sparse then .mmas fzi fzo bver else .mma bf16 fzi fzo bver acc
      let op := if sparse then 7 else 6
      let fl : BitVec 6 := mmaFlags ty fzi fzo bver (acc && !sparse)
      let M := f sh 0 8 + 1
      let N := f sh 8 8 + 1
      let K := f sh 16 16 * 32
      let row := if ty then 2 * K else 3 * K / 4
      let cb := if ty then 2 * K else if sparse then 3 * K / 8 else 3 * K / 4
      let off := f b 0 48
      let w := s.wvt cx (f b 48 8)
      let base := w.base.toNat + off
      let good : Prop := (if sparse then f sh 44 20 = 0 ∧ 16 * f sh 32 12 + N * (K / 8) ≤ 65536 else f sh 32 32 = 0) ∧
        M ≤ 128 ∧ N ≤ 128 ∧ K ≠ 0 ∧ (ty = false → K % 128 = 0 ∧ (acc && !sparse) = false ∧
          (f z 2 2 = 0 → sparse = false ∧ K = 128)) ∧ descOk a ∧
        (if bver then f b 56 8 = 0 ∧ f b 48 8 ≤ 63 ∧ off % 16 = 0 else descOk b) ∧ zOk z
      let out_ (y : Nat) : Prop := beyond (f a 0 21) (f a 24 16) row M y ∨
        (bver = false ∧ beyond (f b 0 21) (f b 24 16) cb N y) ∨ (f z 2 2 = 2 ∧ beyond (f z 32 21) 512 (4 * N) M y)
      (¬ good → exec i s = trap 0x01 (parcelsVal (encode i))) ∧
      (good → bver = true → w.st = .free → exec i s = trap 0x0C b) ∧
      (good → (bver = true → w.st ≠ .free) →
        (∀ y, lowest out_ y → exec i s = trap 0x08 (BitVec.ofNat 64 (0x00FF00000000 + y))) ∧
        ((∀ y, ¬ out_ y) →
          (bver = false → enters i op fl ops rest) ∧
          (bver = true →
            let len := w.length.toNat
            let fits : Prop := off + N * cb ≤ len
            let code : Prop := w.fmt = (if ty then 2#4 else 5#4)
            (¬ fits → exec i s = trap 0x08 (w.base.setWidth 64 + w.length.setWidth 64)) ∧
            (fits → ¬ code → exec i s = trap 0x08 b) ∧ (fits → code → w.holders = 65535 → exec i s = trap 0x08 b) ∧
            (fits → code → w.holders < 65535 →
              (base < 2 ^ 56 → isWindow base = false → base / 0x8000 = (base + N * cb - 1) / 0x8000 → s.findTlb (dieOf t) (some t) cx base = none →
                exec i s = trap 0x07 (BitVec.ofNat 64 base)) ∧
              (let x := mshape op fl ops
               ∀ lines ways, s.pagesOk t base (N * cb) = .ok s1 → s1.windowSizes t x (K / (if ty then 32 else 128)) 0 = .ok (s2, lines, ways) →
                let quota := (if dieOf t then (s2.ctx cx).quota1 else (s2.ctx cx).quota0).toNat
                (s2.tc t).mstack = s.me.mstack → exec i s =
                  if quota < lines then trap 0x09 (BitVec.ofNat 64 lines)
                  else if 14 < ways then trap 0x09 (BitVec.ofNat 64 (lines + 2 ^ 32))
                  else if 4 ≤ (s2.tc t).mq.length then .next (s.stand t .m)
                  else s.retired ((s2.modTc t (fun c =>
                    { c with mq := c.mq ++ [⟨op, fl, c.m.pc, ops, 0, 0, true, false, [], none, none⟩], mstack := rest })).modWvt
                    cx (f b 48 8) (fun w => { w with holders := w.holders + 1 })) .m 1)))))) ∧
    (s.me.mstack.length ≤ 8 → enters (.mzero z2) 8 (z2.setWidth 6) [] s.me.mstack) ∧
    (s.me.mstack = v :: rest → rest.length < 8 →
      (¬ zOk v ∨ f v 2 2 = 0 → exec .mdrain s = trap 0x01 (parcelsVal (encode .mdrain))) ∧
      (zOk v → f v 2 2 = 1 ∨ f v 2 2 = 3 → enters .mdrain 9 0 [v] rest) ∧
      (zOk v → f v 2 2 = 2 →
        let zt := s.me.ztile (f v 0 2)
        (f v 32 21 + 512 * 127 + 4 * 128 ≤ 0x200000 → zt.m ≤ 128 → zt.n ≤ 128 →
          (∀ r, r ∈ q → r.isMma = true → r.shape.m ≤ 128 ∧ r.shape.n ≤ 128) → enters .mdrain 9 0 [v] rest) ∧
        ((∀ r, r ∈ q → r.isMma = false ∧ r.op ≠ 8) →
          (∀ y, lowest (beyond (f v 32 21) 512 (4 * zt.n) zt.m) y →
            exec .mdrain s = trap 0x08 (BitVec.ofNat 64 (0x00FF00000000 + y))) ∧
          ((∀ y, ¬ beyond (f v 32 21) 512 (4 * zt.n) zt.m y) → enters .mdrain 9 0 [v] rest))) ∧
      (let bad : Prop := 2 ^ 48 ≤ v.toNat ∨ f v 7 1 = 1 ∨ 127 < f v 8 8
       (bad → exec .mepi s = trap 0x01 (parcelsVal (encode .mepi))) ∧ (¬ bad → enters .mepi 10 0 [v] rest)) ∧
      (let bad : Prop := v.toNat % 64 ≠ 0 ∨ 2 ^ 21 ≤ v.toNat
       let size (rows k : Nat) : Prop :=
         (0x200000 < v.toNat + 8 * rows * k → exec .mtopk s = trap 0x08 0x00FF00200000#64) ∧
         (v.toNat + 8 * rows * k ≤ 0x200000 → enters .mtopk 11 0 [v] rest)
       (bad → exec .mtopk s = trap 0x01 (parcelsVal (encode .mtopk))) ∧
       (¬ bad → (∀ r, r ∈ q → r.op ≠ 10) → size s.me.heap.rows s.me.heap.k) ∧
       (¬ bad → ∀ r pre post, q = pre ++ r :: post → r.op = 10 → (∀ e, e ∈ post → e.op ≠ 10) → let g := r.ops.getD 0 0
         size (f g 8 8 + 1) (f g 0 6 + 1))))

/-- R159, R161, R167–R169, R181–R184: what the start of a record at the head of the queue does to its accumulator tile and the
drain latch; a vector of a drain into its feeder queue, whose rows, of a BF16 tile, the heap is offered (R170); the grant of a
pinned window, whose lines count against the quota beside every pinned window of the context on the die, a line that two
windows of one operation share once for each (the model's reading, log 40). R183, R184: the start of an MEPI and of an MTOPK,
whose pairs lie row by row. That an event whose condition fails changes nothing is the model's choice (log 4). R64, R66, R162,
R163, R179, R180: what a k-step of the running operation adds to each cell of its accumulator tile, its operands in the own
scratchpad; and R65, R168, R179: at the end of a block whose drain is not held up, the drain takes the cells as F32 and clears
them. The products of L6 are those of R64. R168–R170: a drain to the scratchpad writes a row of F32 values and no other byte;
the rows of a BF16 tile are offered to the heap, in either form of drain, and a row of the heap keeps the k best. -/
def Obligations.MatrixEventResult : Prop :=
  (∀ (s : State) (r : MRec) (rest : List MRec), s.recordsRun s.cur = true → s.me.mq = r :: rest →
     (r.started = false → r.holder = false →
       (r.op = 8 → ∃ t, exec .matrixRecordStart s = .next t ∧ t.me.mq = rest ∧
         t.me.ztile (r.flags.toNat % 4) = ⟨.empty, 128, 128, []⟩ ∧
         ∀ n, n ≠ r.flags.toNat % 4 → t.me.ztile n = s.me.ztile n) ∧
       (r.op = 10 → let v := r.ops.getD 0 0
         let k := (v.extractLsb' 0 6).toNat + 1
         let rows := (v.extractLsb' 8 8).toNat + 1
         ∃ t, exec .matrixRecordStart s = .next t ∧ t.me.mq = rest ∧ t.me.heap = ⟨k, rows, v.extractLsb' 16 32, v.getLsbD 6,
           if s.me.heap.k = k ∧ s.me.heap.rows = rows then s.me.heap.entries else []⟩) ∧
       (r.op = 11 → Memory.wf s.me.scratch = true → let off := (r.ops.getD 0 0).toNat
         let h := s.me.heap
         ∃ t, exec .matrixRecordStart s = .next t ∧ t.me.mq = rest ∧ t.me.heap = { h with entries := [] } ∧
           (∀ i g b, i < h.rows → g < h.k → b < 8 → let p := (h.entries.getD i []).getD g (0xFFFFFFFF#32, 0xFF800000#32)
             memGet t.me.scratch (off + 8 * (h.k * i + g) + b) = (p.2 ++ p.1).extractLsb' (8 * b) 8) ∧
           (∀ a, ¬ (off ≤ a ∧ a < off + 8 * (h.rows * h.k)) → memGet t.me.scratch a = memGet s.me.scratch a)) ∧
       (r.op = 9 → s.me.drain = none → let v := r.ops.getD 0 0
         let z := s.me.ztile (zOf v)
         ∃ t, exec .matrixRecordStart s = .next t ∧ t.me.mq = { r with started := true } :: rest ∧
           t.me.drain = some ⟨v, z.tag = .bf16, z.m, z.n, z.values z.m z.n, 0⟩ ∧ (t.me.ztile (zOf v)).tag = .empty ∧
           (z.n ≤ 128 → (z.cells.map (·.1)).Pairwise (· < ·) → ∀ i j, i < z.m → j < z.n → (t.me.ztile (zOf v)).cell i j = 0)) ∧
       (r.isMma = true → let x := r.shape
         let z := s.me.ztile (zOf x.zspec)
         ∃ t, exec .matrixRecordStart s = .next t ∧ t.me.mq = { r with started := true } :: rest ∧
           let z' := t.me.ztile (zOf x.zspec)
           z'.tag = (if x.bf16 then .bf16 else .l6) ∧ z'.m = x.m ∧ z'.n = x.n ∧
           (x.n ≤ 128 → (z.cells.map (·.1)).Pairwise (· < ·) → ∀ i j, i < x.m → j < x.n →
             z'.cell i j = if x.bf16 && x.acc then (z.f32 i j).setWidth 40 else 0))) ∧
     (∀ d, s.me.drain = some d → dmode d.zspec = 1 → let q := (aget s.me.feed (dqOf d.zspec)).getD []
       (q.length < 4 → ∃ t, exec .matrixDrain s = .next t ∧
         aget t.me.feed (dqOf d.zspec) = some (q ++ [(List.range 512).map (fun l => (d.vals.getD (4 * d.next + l / 128) []).getD (l % 128) 0)]) ∧
         t.me.heap = (if d.bf16 then ([0, 1, 2, 3] : List Nat).foldl (fun h i =>
           if 4 * d.next + i < d.m then h.feed (4 * d.next + i) (d.vals.getD (4 * d.next + i) []) else h) s.me.heap else s.me.heap) ∧
         (d.next + 1 < (d.m + 3) / 4 → t.me.drain = some { d with next := d.next + 1 } ∧ t.me.ts = s.me.ts ∧ t.me.mq = s.me.mq) ∧
         ((d.m + 3) / 4 ≤ d.next + 1 → t.me.drain = none ∧ (d.zspec.getLsbD 61 = true →
           let n := (d.zspec.extractLsb' 56 5).toNat
           (t.me.ctr n).toNat = min ((s.me.ctr n).toNat + 1) (2 ^ 64 - 1)) ∧
           (r.op = 9 → r.holder = false → t.me.mq = rest))) ∧
       (4 ≤ q.length → exec .matrixDrain s = .next s)) ∧
     (∀ a s' ls, r.ask = some a → r.fault = none → let t := s.cur
       let x := r.shape
       let d := dieOf t
       let cx := liveCtx (s.tile t)
       s.windowLines t x r.asked (max r.kstep (x.blk * r.asked)) = .ok (s', ls) →
       (∀ e, e ∈ s.tiles → dieOf (BitVec.ofNat 7 e.1) = d → ∀ q, q ∈ e.2.tc.mq → ∀ b, q.ask = some b → a ≤ b) →
       let pins := s'.diePins d
       ((pins.filter (fun p => p.1 = cx)).map (fun p => p.2.length)).sum + ls.length ≤ s'.quota d cx →
       waysMax (ls ++ pins.flatMap (·.2)).dedup (ls ++ pins.flatMap (·.2)).dedup ≤ 14 →
       ∃ u r', exec .pinnedWindowGrant s = .next u ∧ u.me.mq.head? = some r' ∧ r'.pins = r.pins ++ [(r.asked, ls)] ∧
         r'.kstep = r.kstep ∧ r'.ops = r.ops)) ∧
  ((∀ a b : BitVec 6,
     let log (c : BitVec 6) : Int := (c.extractLsb' 0 5).toInt
     let p := log a + log b
     (log a = -16 ∨ log b = -16 → l6Prod a b = 0) ∧
     (log a ≠ -16 → log b ≠ -16 → l6Prod a b = (if a.getLsbD 5 = b.getLsbD 5 then 1 else -1) *
       (([32768, 38968, 46341, 55109] : List Int).getD (p % 4).toNat 0 * 2 ^ (p / 4 + 8).toNat))) ∧
   (∀ (s : State) (r : MRec) (rest : List MRec), s.recordsRun s.cur = true → s.me.mq = r :: rest →
     let x := r.shape
     let k := r.kstep
     let zn := zOf x.zspec
     let z := s.me.ztile zn
     let bits (base at_ n : Nat) : Nat := readBits (memGet s.me.scratch) base at_ n
     let w := if x.bf16 then 16 else 6
     let a (i q : Nat) : Nat := bits (descOff x.adesc + i * descStride x.adesc) (w * q) w
     let b (j : Nat) : Nat := bits (descOff x.bdesc + j * descStride x.bdesc) (x.bBits * k) (x.bBits * x.stride)
     let nib (j : Nat) : Nat := (memGet s.me.side (x.side + j * (x.k / 8) + k / 8)).toNat / (if k / 4 % 2 = 1 then 16 else 1) % 16
     let code (n : Nat) : BitVec 6 := BitVec.ofNat 6 n
     let cell (i j : Nat) : BitVec 40 :=
       if x.bf16 then ((ffma 24 0 x.fzo (unpackB x.fzi (BitVec.ofNat 16 (a i k))) (unpackB x.fzi (BitVec.ofNat 16 (b j)))
         (unpack false ((z.cell i j).setWidth 32))).bits).setWidth 40
       else if x.sparse then z.cell i j + BitVec.ofInt 40 (l6Prod (code (a i (k + nib j % 4))) (code (b j)) +
         l6Prod (code (a i (k + nib j / 4 % 4))) (code (b j / 64)))
       else z.cell i j + BitVec.ofInt 40 (l6Prod (code (a i k)) (code (b j)))
     let ends : Bool := if x.bf16 then k + x.stride = x.k else (k + x.stride) % 128 = 0
     let f32 (v : BitVec 40) : Lane := if x.bf16 then v.setWidth 32
       else if v.toInt = 0 then 0 else (fround 24 0 false (v.toInt < 0) v.toInt.natAbs (-23) false).bits
     r.started = true → r.isMma = true → k < x.k → r.fault = none → r.holder = false → r.pins = [] → x.bver = false →
     s.me.drain = none → (s.tile s.cur).spoiled = [] → x.m ≤ 128 → x.n ≤ 128 → (z.cells.map (·.1)).Pairwise (· < ·) →
     z.tag = (if x.bf16 then .bf16 else .l6) →
     ∃ t, s.turn (.kstep s.cur) = .next t ∧ s.SameMem t ∧ t.me.scratch = s.me.scratch ∧ t.me.heap = s.me.heap ∧
       (∀ n, n ≠ zn → t.me.ztile n = s.me.ztile n) ∧
       (∀ i j, j < 128 → ¬ (i < x.m ∧ j < x.n) → (t.me.ztile zn).cell i j = z.cell i j) ∧
       ((ends = false ∨ dmode x.zspec = 0) →
         (∀ i j, i < x.m → j < x.n → (t.me.ztile zn).cell i j = cell i j) ∧ (t.me.ztile zn).tag = z.tag ∧ t.me.drain = none ∧
         t.me.mq = if k + x.stride = x.k then rest else { r with kstep := k + x.stride } :: rest) ∧
       (ends = true → dmode x.zspec ≠ 0 →
         (∀ i j, i < x.m → j < x.n → (t.me.ztile zn).cell i j = 0) ∧
         (t.me.ztile zn).tag = (if k + x.stride = x.k then .empty else z.tag) ∧
         t.me.mq = { r with kstep := k + x.stride, drains := r.drains + 1 } :: rest ∧
         t.me.drain = some ⟨x.zspec, x.bf16, x.m, x.n,
           (List.range x.m).map (fun i => (List.range x.n).map (fun j => f32 (cell i j))), 0⟩)) ∧
   (∀ (s : State) (d : Drain), s.recordsRun s.cur = true → s.me.drain = some d →
     let row := d.vals.getD d.next []
     let off := drainOff d.zspec + 512 * d.next
     (dmode d.zspec = 2 ∨ dmode d.zspec = 3) → Memory.wf s.me.scratch = true → ∃ t, exec .matrixDrain s = .next t ∧
       (dmode d.zspec = 2 → (∀ j g, j < row.length → g < 4 →
           memGet t.me.scratch (off + 4 * j + g) = (row.getD j 0).extractLsb' (8 * g) 8) ∧
         (∀ a, ¬ (off ≤ a ∧ a < off + 4 * row.length) → memGet t.me.scratch a = memGet s.me.scratch a)) ∧
       (dmode d.zspec = 3 → t.me.scratch = s.me.scratch) ∧ t.me.feed = s.me.feed ∧
       t.me.drain = (if d.next + 1 < d.m then some { d with next := d.next + 1 } else none) ∧
       t.me.heap = (if d.bf16 && decide (d.next < d.m) then s.me.heap.feed d.next row else s.me.heap) ∧
       (d.m ≤ d.next + 1 → d.zspec.getLsbD 61 = true → let n := (d.zspec.extractLsb' 56 5).toNat
         (t.me.ctr n).toNat = min ((s.me.ctr n).toNat + 1) (2 ^ 64 - 1))) ∧
   (∀ (h : Heap) (i : Nat) (row : List Lane),
     let pairs := row.zipIdx.map (fun p => (h.base + BitVec.ofNat 32 p.2, p.1))
     (h.en = false ∨ h.rows ≤ i → h.feed i row = h) ∧
     (h.en = true → i < h.rows →
       (h.feed i row).entries.getD i [] = pairs.foldl (fun q p => offer h.k q p) (h.entries.getD i []) ∧
       (∀ g, g < h.rows → g ≠ i → (h.feed i row).entries.getD g [] = h.entries.getD g []) ∧
       { h.feed i row with entries := h.entries } = h)) ∧
   (∀ (k : Nat) (row : List (BitVec 32 × Lane)) (p : BitVec 32 × Lane),
     let before (q g : BitVec 32 × Lane) : Bool := fkey g.2 < fkey q.2 || (fkey q.2 = fkey g.2 && decide (q.1.toNat ≤ g.1.toNat))
     (isNanL p.2 = true → offer k row p = row) ∧
     (isNanL p.2 = false → row.Pairwise (fun q g => before q g = true) →
       offer k row p = (row.filter (fun q => before q p) ++ p :: row.filter (fun q => !before q p)).take k ∧
       (offer k row p).Pairwise (fun q g => before q g = true))))

/-- R204, R205, R211–R219, R235, R328, R330, R331: a copy instruction whose operands pass its checks takes a record of 32 that
holds them in pop order; with no free record the engine waits. What the checks give for operands outside the own scratchpad,
and ALIGN for the offset of XMETA and the strides of XCOPY2 that are no multiples of 64 (R219). The checks of XCOPY's length
and of XTADD's scope are the model's readings (logs 23, 25). -/
def Obligations.CopyIssueResult : Prop :=
  ∀ (s : State) (q : BitVec 2) (publish : Bool) (ctr : BitVec 5) (p : XPlan),
    let c := s.me
    let st := c.xstack
    let issue (n : Nat) : Out := s.retire .x 1 (fun c => { c with
      xstack := c.xstack.drop n, xnum := c.xnum + 1
      xrecs := c.xrecs ++ [{ num := c.xnum, kind := p.kind, cspec := p.cspec, ops := st.take n, bfS := p.bfS, bfD := p.bfD,
                             iaddr := c.x.pc, lba := (c.task.map (·.lba)).getD 0,
                             fmb := (c.task.map (fun k => fmbOf k.lb)).getD 0, own := true,
                             age := (((c.task.map (·.slot.toNat)).bind (s.slot (dieOf s.cur))).map (·.age)).getD 0,
                             units := p.units, readN := 0, flight := [], idx := none, fault := none, failed := false }] })
    let does (n : Nat) (plan : List Dbl → Except Halt XPlan) (i : Instr) : Prop := n ≤ st.length → plan (st.take n) = .ok p →
      (c.xrecs.length < 32 → exec i s = issue n) ∧ (32 ≤ c.xrecs.length → exec i s = .next (s.stand s.cur .x))
    (st.length ≤ 8 →
      does 4 s.xcopyPlan .xcopy ∧ does 6 s.xcopy2Plan .xcopy2 ∧ does 5 (s.gatherPlan .xgath 3) .xgath ∧
      does 5 (s.gatherPlan .xscat 4) .xscat ∧ does 2 (s.xfeedPlan q) (.xfeed q) ∧ does 4 s.xmetaPlan .xmeta ∧
      does 4 s.xfillPlan .xfill ∧ does 5 s.xkvcPlan .xkvc ∧ does 5 s.xredvPlan .xredv ∧
      does 7 (s.xbcstPlan publish) (.xbcst publish) ∧ does 2 (s.xtaddPlan ctr) (.xtadd ctr)) ∧
    (∀ cs len src off g ss ds dst : Dbl, cs.toNat < 2 ^ 13 →
      (len.toNat % 64 = 0 → off.toNat + len.toNat ≤ 65536 → off.toNat % 64 ≠ 0 →
        s.xmetaPlan [cs, len, src, off] = .error (.trap ⟨0x06, off⟩)) ∧
      (geomOk g = true → (ss.toNat % 64 ≠ 0 → s.xcopy2Plan [cs, g, ss, ds, src, dst] = .error (.trap ⟨0x06, ss⟩)) ∧
        (ss.toNat % 64 = 0 → ds.toNat % 64 ≠ 0 → s.xcopy2Plan [cs, g, ss, ds, src, dst] = .error (.trap ⟨0x06, ds⟩)))) ∧
    ∀ cs len src dst v : Dbl, cs.toNat < 2 ^ 13 → src.toNat % 64 = 0 → dst.toNat % 64 = 0 → len.toNat % 64 = 0 →
      let far (a : Dbl) : Prop := a.toNat < 0x00FE00000000 ∨ 0x010000000000 ≤ a.toNat
      (far src → src.toNat + len.toNat ≤ 2 ^ 56 → far dst → dst.toNat + len.toNat ≤ 2 ^ 56 → len.toNat < 2 ^ 40 →
        s.xcopyPlan [cs, len, src, dst] = .ok ⟨0, cs, 0, 0, len.toNat / 64⟩) ∧
      (far dst → dst.toNat + len.toNat ≤ 2 ^ 56 → s.xfillPlan [cs, len, v, dst] = .ok ⟨7, cs, 0, 0, len.toNat / 64⟩) ∧
      (far src → src.toNat + len.toNat ≤ 2 ^ 56 → dst.toNat + len.toNat ≤ 65536 →
        s.xmetaPlan [cs, len, src, dst] = .ok ⟨6, cs, 0, 0, len.toNat / 64⟩) ∧
      (far src → v.toNat < 2 ^ 16 → src.toNat + 2048 * v.toNat ≤ 2 ^ 56 →
        s.xfeedPlan q [v, src] = .ok ⟨5, q.setWidth 64, 0, 0, v.toNat⟩) ∧
      (cs.toNat < 8 → s.xtaddPlan ctr [v, cs] = .ok ⟨11, BitVec.ofNat 64 (cs.toNat * 1024 + ctr.toNat), 0, 0, 0⟩)

/-- R206, R207, R235, R329, R330, R332: a line of an XCOPY that lands in the own scratchpad, with MODE 1's add of 64; a unit
for another package takes one credit and leaves; the acknowledgement of a unit, its resend after a CRC failure, and a grant of
credit; XTADD's add to a counter of its own tile, with its release. That credits are kept per channel and destination (log
26), that a unit with no credit leaves the package as it is (log 4), and the list of what was sent (log 14) are the model's
choices. -/
def Obligations.CopyUnitResult : Prop :=
  ∀ (s : State) (num u : Nat) (r : XRec) (bs : List Byte) (tries : Nat) (sent : Bool) (node : BitVec 18) (n : BitVec 16),
    (s.me.xrec num = some r → r.flight.find? (fun e => e.1 = u) = some (u, bs, tries, sent) →
      (s.recordsRun s.cur = true → s.me.mayWrite r = true → sent = false → bs.length = 64 →
        (∀ off, r.kind = 0 → (r.dstAddr u).toNat = 0x00FF00000000 + off → off % 64 = 0 → off + 64 ≤ 0x200000 →
          Memory.wf s.me.scratch = true → ∃ t, exec (.copyLineLand num u) s = .next t ∧
            (∀ k, k < 64 → memGet t.me.scratch (off + k) = bs.getD k 0) ∧
            (∀ a, ¬ (off ≤ a ∧ a < off + 64) → memGet t.me.scratch a = memGet s.me.scratch a) ∧
            (r.mode = true → (t.me.ctr r.ctr.toNat).toNat = min ((s.me.ctr r.ctr.toNat).toNat + 64) (2 ^ 64 - 1)) ∧
            (∀ r', t.me.xrec num = some r' → ∀ e, e ∈ r'.flight → e.1 ≠ u)) ∧
        (r.kind = 9 → let key := ((r.op 4).extractLsb' 0 18).toNat
          (∀ m, aget s.credits key = some (m + 1) → ∃ t, exec (.copyLineLand num u) s = .next t ∧
            aget t.credits key = some m ∧ (∃ x, t.sent = s.sent ++ [.redv x ((r.op 4).extractLsb' 0 18)] ∧
              x.unit = u ∧ x.data = recOf bs) ∧ t.mem = s.mem) ∧
          (aget s.credits key = none → exec (.copyLineLand num u) s = .next s))) ∧
      (sent = true → (r.kind = 9 ∨ r.kind = 10) →
        ((∃ e, e ∈ r.flight ∧ e.1 ≠ u) → ∃ t r', exec (.unitAcknowledge s.cur num u) s = .next t ∧ t.me.xrec num = some r' ∧
          r'.flight = r.flight.filter (fun e => e.1 ≠ u) ∧ r'.readN = r.readN) ∧
        (tries < 3 → ∃ t r', exec (.unitRefusal s.cur num u true) s = .next t ∧ t.me.xrec num = some r' ∧
          r'.flight.find? (fun e => e.1 = u) = some (u, bs, tries + 1, false)))) ∧
    (s.me.xrec num = some r → r.kind = 11 → r.target.1 = 0 → s.recordsRun s.cur = true →
      (∀ e, e ∈ s.me.earlier num → e.age ≠ r.age ∨ e.own ≠ r.own) → ∃ t, exec (.xtaddAdd num) s = .next t ∧
        (t.me.ctr r.ctr.toNat).toNat = min ((s.me.ctr r.ctr.toNat).toNat + (r.op 0).toNat) (2 ^ 64 - 1) ∧
        (∀ k, k ≠ r.ctr.toNat → t.me.ctr k = s.me.ctr k) ∧ t.me.xrec num = none ∧ (t.tile s.cur).rset = []) ∧
    (let grant (vc : Vc) (key : Nat) : Prop := ∃ t, exec (.creditGrant vc node n) s = .next t ∧
        aget t.credits key = some ((aget s.credits key).getD 0 + n.toNat) ∧
        (∀ k, k ≠ key → aget t.credits k = aget s.credits k) ∧ { t with credits := s.credits } = s
     grant .g node.toNat ∧ grant .w (2 ^ 18 + node.toNat))

/-! ### Generation and learning (17_rl_class.md) -/

/-- R310–R312, R315, R317–R319: WPUB publishes a building entry after writing the release set back, and the entry that was
current loses CUR; WADOPT gives the handle and adopts a new current entry; WHOLD and WDROP move HOLDERS; WQRY gives D0; a
stale handle traps STALEVER. That WPUB and WDROP write the release set back at every scope is the model's reading of R90 (log
11). -/
def Obligations.VersionTableResult : Prop :=
  ∀ (s : State) (d a : BitVec 4) (ka : Bool) (h : Dbl) (e : Nat),
    let c := liveCtx (s.tile s.cur)
    let w := s.wvt c e
    let give (q : TCtx) (v : Dbl) : TCtx := (q.popQ [(a, ka)]).reserve d 0 0 (.value v)
    let handle (q : TCtx) : Dbl := q.adVer ++ (0#26 ++ q.adIdx)
    (s.Reads [(a, ka)] [h] →
      (s.liveHandle c h = some e → w.st = .building → s.controlQuiet s.cur = true → ∃ t, exec (.wpub a ka) s = .next t ∧
        t.wvt c e = { w with st := .published, cur := true } ∧ (t.tile s.cur).rset = [] ∧
        (∀ p, s.curEntry c = some p → t.wvt c p =
          { s.wvt c p with cur := false, st := if 0 < (s.wvt c p).holders then .retiring else .free }) ∧
        (∀ p, p ≠ e → s.curEntry c ≠ some p → t.wvt c p = s.wvt c p)) ∧
      (s.liveHandle c h = some e → w.holders ≠ 0 → s.controlQuiet s.cur = true → ∃ t, exec (.wdrop a ka) s = .next t ∧
        t.wvt c e = { w with holders := w.holders - 1
                             st := if w.st = .retiring && w.holders = 1 then .free else w.st } ∧
        (t.tile s.cur).rset = [] ∧ (∀ p, p ≠ e → t.wvt c p = s.wvt c p)) ∧
      (s.liveHandle c h = none → exec (.wpub a ka) s = .next (s.takeTrap s.cur .c .fault ⟨0x0C, h⟩) ∧
        exec (.wdrop a ka) s = .next (s.takeTrap s.cur .c .fault ⟨0x0C, h⟩)) ∧
      (s.Room [(a, ka)] [d] → (h = 0xFFFFFFFFFFFFFFFF#64 ∧ s.curEntry c = some e ∨ h.toNat = e ∧ e ≤ 63) →
        (w.st = .published ∨ w.st = .retiring → w.holders < 65535 → exec (.whold d a ka) s =
          s.retired ((s.modWvt c e (fun w => { w with holders := w.holders + 1 })).modTc s.cur (fun q =>
            give q (w.version ++ BitVec.ofNat 32 e))) .c 2) ∧
        exec (.wqry d a ka) s = s.retire .c 2 (fun q => give q (w.version ++ BitVec.ofNat 16 w.holders ++ w.fmt ++ w.scope ++
          bit w.cur 1 ++ (match w.st with | .free => 0#2 | .building => 1#2 | .published => 2#2 | .retiring => 3#2) ++
          BitVec.ofNat 6 e)))) ∧
    ((s.me.q d).length < 4 → s.me.cqc.length < 8 →
      let old := s.me
      (s.newCurrent s.cur = none → ∀ seq : Bool, ∃ t, exec (if seq then .wadoptSeq d else .wadoptToken d) s = .next t ∧
        t.me.fills = old.fills ++ [⟨old.seq, old.seq, 0, 0, .value (handle old)⟩] ∧ t.me.adChg = false ∧
        t.me.cqc = old.cqc ++ [⟨old.adChg, false⟩] ∧ t.me.adVer = old.adVer ∧ t.me.adIdx = old.adIdx ∧ t.ctxs = s.ctxs) ∧
      (s.newCurrent s.cur = some e → w.holders < 65535 → w.version ≠ 0 → old.adVer = 0 ∨ old.adIdx.toNat ≠ e →
        ∃ t, exec (.wadoptSeq d) s = .next t ∧ (old.adPol ≠ 0 → exec (.wadoptToken d) s = .next t) ∧
          t.me.adVer = w.version ∧ t.me.adIdx.toNat = e ∧ t.me.adChg = false ∧ t.me.cqc = old.cqc ++ [⟨true, false⟩] ∧
          t.me.fills.map (·.op) = old.fills.map (·.op) ++ [.value (handle t.me)] ∧
          (t.wvt c e).holders = w.holders + 1 ∧
          (old.adVer ≠ 0 → (t.wvt c old.adIdx.toNat).holders = (s.wvt c old.adIdx.toNat).holders - 1)))

/-- R320, R323–R326: SPAPP hands seven doubles of the own scratchpad, with the tile's version, to the log's input queue; ACPT
gives the number of leading words that agree and sets NEXTF from ACPTMAP; JFRAG goes on where the fragment table says. -/
def Obligations.SpoorAndFragmentResult : Prop :=
  ∀ (s s' : State) (d a b : BitVec 4) (ka kb : Bool) (follow : BitVec 3) (n : BitVec 8) (x y : Dbl) (off da ta k : Nat) (at_ : Loc),
    let c := s.me
    let lg := s.log (dieOf s.cur) (liveCtx (s.tile s.cur))
    let scr (v : Dbl) (o len : Nat) : Prop := v.toNat = 0x00FF00000000 + o ∧ o + len ≤ 0x200000
    (s.Reads [(a, ka)] [x] → scr x off 56 → off % 8 = 0 →
      (lg.d0.getLsbD 5 = true → s.controlQuiet s.cur = true → lg.inq.length < 64 → ∃ t r, exec (.spapp a ka) s = .next t ∧
        (t.log (dieOf s.cur) (liveCtx (s.tile s.cur))).inq = lg.inq ++ [r] ∧
        (∀ i, i < 7 → i ≠ 1 → (recDoubles r).getD i 0 = ofBytes (memBytes c.scratch (off + 8 * i) 8)) ∧
        r.d1 = c.adVer ++ (ofBytes (memBytes c.scratch (off + 8) 8)).setWidth 32 ∧ s.SameMem t) ∧
      (lg.d0.getLsbD 5 = false → exec (.spapp a ka) s = .next (s.takeTrap s.cur .c .fault ⟨0x08, 0⟩))) ∧
    (s.Reads [(a, ka), (b, kb)] [x, y] → s.Room [(a, ka), (b, kb)] [d] → s.controlQuiet s.cur = true →
      scr x da (4 * n.toNat) → scr y ta (4 * n.toNat) → da % 4 = 0 → ta % 4 = 0 →
      let same (i : Nat) : Prop := memBytes c.scratch (da + 4 * i) 4 = memBytes c.scratch (ta + 4 * i) 4
      k ≤ n.toNat → (∀ i, i < k → same i) → (k = n.toNat ∨ ¬ same k) → (s.tile s.cur).spoiled = [] →
      exec (.acpt d a b ka kb n) s = s.retire .c 2 (fun q => ({ q.popQ [(a, ka), (b, kb)] with
        nextf := if k = n.toNat then q.acptmap.extractLsb' 12 6 else if k = 0 then q.acptmap.extractLsb' 0 6
          else q.acptmap.extractLsb' 6 6 }).reserve d 15 0 (.value (BitVec.ofNat 64 k)))) ∧
    (let va : Dbl := (c.ftbase &&& 0x00FFFFFFFFFFFFC0#64) + 8 * c.nextf.setWidth 64
     va.toNat < 2 ^ 56 → s.locate s.cur va 8 accR = .ok (s', at_) → s'.cur = s.cur → s.controlQuiet s.cur = true →
      (∀ f, f ∈ c.fills → f.ofAcpt = false) → c.adPol ≠ 2 → s'.MayTell follow →
      let r := s'.loadBytes s.cur c.seq 15 0 at_ 8
      exec (.jfrag follow) s = r.1.branches 1 r.1.me follow ((ofBytes r.2).extractLsb' 0 48))

/-! ### Traps and control registers (19_system_class.md) -/

/-- R340–R343, R345, R350, R365: CSRR reserves a slot for the register's value, and what each register reads as (that RSET
reads as 4,096 where the set is larger is the model's reading, log 53); CSRW writes the RW fields of each and leaves every
other register as it was. R42, R340: which numbers CSRR and CSRW decode with; a CSRW of a number marked RO, or of one outside
the map, is ILLEGAL. -/
def Obligations.ControlRegisterResult : Prop :=
  ∀ (s : State) (d a : BitVec 4) (ka : Bool) (n : BitVec 12) (v : Dbl), s.controlQuiet s.cur = true →
    let c := s.me
    let x := s.tile s.cur
    let k := s.ctx (liveCtx x)
    let r (i : Nat) : Dbl := s.csr s.cur i
    ((c.q d).length < 4 → exec (.csrr d n) s = s.retire .c 2 (fun c => c.reserve d 0 0 (.value (r n.toNat)))) ∧
    r 0x000 = (0#57 ++ bit c.v.walking 1 ++ bit c.m.walking 1 ++ bit c.x.walking 1 ++ 0#1 ++ bit c.resumed 1 ++ bit c.dbl 1 ++
      bit c.inh 1 : BitVec 64) ∧
    r 0x001 = c.tcause.setWidth 64 ∧ r 0x002 = c.tepc.setWidth 64 ∧ r 0x003 = c.teng.setWidth 64 ∧ r 0x004 = c.tval ∧
    r 0x005 = c.tvec.setWidth 64 ∧ r 0x006 = c.tcpc.setWidth 64 ∧ r 0x007 = k.tdeleg ∧ r 0x009 = k.pdead.setWidth 64 ∧
    r 0x00A = (if c.wdraw then 1 else 0) ∧ r 0x00C = (if dieOf s.cur then k.quota1 else k.quota0).setWidth 64 ∧
    r 0x010 = (c.adVer ++ 0#22 ++ bit c.adChg 1 ++ 0#1 ++ c.adPol ++ c.adIdx : BitVec 64) ∧ r 0x011 = c.ftbase ∧
    r 0x012 = c.nextf.setWidth 64 ∧ r 0x013 = c.acptmap.setWidth 64 ∧ r 0x018 = c.vflags.setWidth 64 ∧
    r 0x019 = (if c.dbgpend then 1 else 0) ∧ r 0x030 = c.spbase ∧ r 0x031 = c.splim ∧ r 0x070 = BitVec.ofNat 64 (min x.rset.length 4096) ∧
    (let p := r 0x008
     p.getLsbD 0 = !x.reqs.isEmpty ∧ p.extractLsb' 1 3 = BitVec.ofNat 3 ((x.reqs.head?.map (·.cause)).getD 0) ∧
     (∀ j, 1 ≤ j → j ≤ 3 → p.getLsbD (3 + j) = x.reqs.any (fun y => y.cause = j)) ∧ p.extractLsb' 7 25 = 0 ∧
     (x.reqs = [] → p.extractLsb' 32 32 = 0) ∧
     ∀ y, y ∈ x.reqs → (∀ z, z ∈ x.reqs → y.left ≤ z.left) → p.extractLsb' 32 32 = BitVec.ofNat 32 (min y.left (2 ^ 32 - 1))) ∧
    r 0x061 = s.ptime ∧ r 0x060 = (x.frameSeq ++ 0#20 ++ bit x.sett.isSome 1 ++
      (x.sett.map (·.1)).getD 0 ++ bit x.live.isSome 1 ++ liveCtx x : BitVec 64) ∧
    r 0x080 = BitVec.ofNat 64 (if x.live.isSome then s.logical (liveCtx x) s.cur else 0) ∧ r 0x081 = s.cur.setWidth 64 ∧
    r 0x082 = (0#61 ++ bit x.pend 1 ++ BitVec.ofNat 2 (s.roleOf s.cur) : BitVec 64) ∧
    (∀ i, i < 4 → let g := c.gslot i
      r (0x020 + i) = (0#48 ++ bit g.valid 1 ++ 0#4 ++ bit g.held 1 ++ bit g.arr 1 ++ bit g.die 1 ++ g.entry : BitVec 64)) ∧
    (∀ i, i < 32 → r (0x040 + i) = ((aget c.bfmt i).getD 0).setWidth 64) ∧
    (s.Reads [(a, ka)] [v] →
      let w (i : Nat) (f : TCtx → TCtx) : Prop :=
        exec (.csrw (BitVec.ofNat 12 i) a ka) s = s.retire .c 2 (fun c => (f c).popQ [(a, ka)])
      w 0x001 (fun c => { c with tcause := v.setWidth 8 }) ∧ w 0x002 (fun c => { c with tepc := v.setWidth 48 }) ∧
      w 0x004 (fun c => { c with tval := v }) ∧ w 0x005 (fun c => { c with tvec := v.setWidth 48 }) ∧
      w 0x006 (fun c => { c with tcpc := v.setWidth 48 }) ∧ w 0x011 (fun c => { c with ftbase := v &&& 0x00FFFFFFFFFFFFC0#64 }) ∧
      w 0x012 (fun c => { c with nextf := v.setWidth 6 }) ∧ w 0x013 (fun c => { c with acptmap := v.setWidth 18 }) ∧
      w 0x018 (fun c => { c with vflags := v.setWidth 5 }) ∧ w 0x019 (fun c => { c with dbgpend := v.getLsbD 0 }) ∧
      w 0x030 (fun c => { c with spbase := v &&& 0x1FFFC0#64, sp := (v &&& 0x1FFFC0#64).setWidth 21 }) ∧
      w 0x031 (fun c => { c with splim := v &&& 0x1FFFC0#64 }) ∧
      (∀ i, i < 32 → w (0x040 + i) (fun c => { c with bfmt := aset c.bfmt i (v.setWidth 25) })) ∧
      (v.extractLsb' 6 2 ≠ 3#2 → v.extractLsb' 32 32 = c.adVer → v.extractLsb' 0 6 = c.adIdx →
        w 0x010 (fun c => { c with adPol := v.extractLsb' 6 2 }))) ∧
    (let rw : List (BitVec 12) := [0x001, 0x002, 0x004, 0x005, 0x006, 0x010, 0x011, 0x012, 0x013, 0x018, 0x019, 0x030, 0x031] ++
        (List.range 32).map (fun i => BitVec.ofNat 12 (0x040 + i))
      let ro : List (BitVec 12) := [0x000, 0x003, 0x007, 0x008, 0x009, 0x00A, 0x00C, 0x020, 0x021, 0x022, 0x023, 0x060, 0x061, 0x070,
        0x080, 0x081, 0x082]
      let rd : List Parcel := [0x1F40#16 ||| d.setWidth 16 <<< 2, n.setWidth 16]
      let wr : List Parcel := [0x1F80#16 ||| bit ka 16 <<< 1, a.setWidth 16 <<< 12 ||| n.setWidth 16]
      (n ∈ rw ++ ro → decode rd = .ok (.csrr d n)) ∧ (n ∉ rw ++ ro → ∃ e, decode rd = .error e) ∧
      (n ∈ rw → decode wr = .ok (.csrw n a ka)) ∧ (n ∉ rw → ∃ e, decode wr = .error e))

/-- R344–R348: what taking a trap saves and where it goes, with no fill and no vector load outstanding: the trap registers,
the landed and the pending vector writes, the cancelled waits, the slots reserved for an ENQ or DEQ in its wait removed; then
the in-tile handler at TVEC, or a stop with a record for the ring of S or M; a double trap leaves the trap registers. That
TCPC takes the control engine's address at every trap is the model's reading (log 33). -/
def Obligations.TrapEntryResult : Prop :=
  ∀ (s : State) (t : PTile) (e : Eng) (k : Cause),
    let c := s.tc t
    let x := s.ctx (liveCtx (s.tile t))
    let f := (x.tdeleg.toNat / 4 ^ k.code.toNat) % 4
    c.fills = [] → c.vloads = [] →
    let u := s.takeTrap t e .fault k
    let n := u.tc t
    let r := (s.trapRing (dieOf t) (k.code = 0x11 || f = 2))
    (n.c.waiting = false ∧ n.v.waiting = false ∧ n.m.waiting = false ∧ n.x.waiting = false ∧
      n.c.meet = .none ∧ n.v.meet = .none ∧ n.m.meet = .none ∧ n.x.meet = .none) ∧
    (∀ w, w ∈ n.pending ↔ w ∈ c.pending ∧ c.tick < w.vis) ∧ n.tick = c.tick ∧ (∀ i, n.vread i c.tick = c.vread i c.tick) ∧
    (c.c.await = none → n.qs = c.qs) ∧ (c.c.await ≠ none → ∀ q, n.q q = (c.q q).filter Slot.isFilled) ∧
    n.cqc = c.cqc ∧ n.cqv = c.cqv ∧ n.masks = c.masks ∧ n.mq = c.mq ∧ n.xrecs = c.xrecs ∧ n.scratch = c.scratch ∧
    (c.inh = false → n.tcause = k.code ∧ n.tepc = (c.eng e).pc ∧ n.teng = engCode e ∧ n.tval = k.tval ∧ n.tcpc = c.c.pc) ∧
    (c.inh = true → n.tcause = c.tcause ∧ n.tepc = c.tepc ∧ n.teng = c.teng ∧ n.tval = c.tval ∧ n.tcpc = c.tcpc ∧ n.dbl = true) ∧
    (k.code ≠ 0x11 → f = 0 → c.inh = false → c.tvec ≠ 0 →
      n.inh = true ∧ n.c.pc = c.tvec ∧ (u.tile t).stop = (s.tile t).stop ∧ u.trapRings = s.trapRings ∧ u.mem = s.mem) ∧
    (k.code = 0x11 ∨ f ≠ 0 ∨ c.inh = true ∨ c.tvec = 0 →
      n.inh = c.inh ∧ n.c.pc = c.c.pc ∧ (u.tile t).stop = .abatal c.inh ∧ (u.tile t).trapSeq = (s.tile t).trapSeq + 1 ∧
      (r.full = false → u.trapRing (dieOf t) (k.code = 0x11 || f = 2) = { r with prod := r.prod + 1 }) ∧
      (r.full = true → ∃ rec, (u.tile t).held = some (k.code = 0x11 || f = 2, rec) ∧ rec.d2 = k.tval ∧
        rec.d1 = (c.eng e).pc.setWidth 64 ∧ rec.d0.extractLsb' 0 8 = k.code))

/-- R349, R364: TRET clears INH and restarts the trapping engine at TEPC and, where another engine trapped, the control engine
at TCPC, and neither goes on with the parcels that it had fetched; every other engine restarts where it stopped, and the trap
registers, walk counts and memory stand. R266, R347: a YIELD without a pending request changes nothing but its engine's place;
in a handler FORK, RDV, EXIT and YIELD trap ILLEGAL, and TRET does outside one (R364). R363: TRAP n and SCALL retire and then
raise their causes as completed ones. -/
def Obligations.HandlerRules : Prop :=
  (∀ (s : State), s.me.inh = true → s.me.recStop = false → ∃ t, exec .tret s = .next t ∧
     let c := s.me
     let n := t.me
     n.inh = false ∧ n.tcause = c.tcause ∧ n.tepc = c.tepc ∧ n.teng = c.teng ∧ n.tval = c.tval ∧ n.tcpc = c.tcpc ∧ n.dbl = c.dbl ∧
     (∀ e, engCode e = c.teng → (n.eng e).pc = c.tepc) ∧ (c.teng ≠ 0 → n.c.pc = c.tcpc) ∧
     n.c.fetched = [] ∧ (∀ e, engCode e = c.teng → (n.eng e).fetched = []) ∧
     (∀ e, e ≠ .c → engCode e ≠ c.teng → n.eng e = c.eng e) ∧ (∀ e, (n.eng e).count = (c.eng e).count) ∧
     n.qs = c.qs ∧ n.pending = c.pending ∧ n.tick = c.tick ∧ s.SameBut t s.cur ∧ s.SameMem t) ∧
  (∀ (s : State) (v m x : Bool) (n : BitVec 3) (abs : Bool) (w : BitVec 2) (a : BitVec 4) (code : BitVec 6),
     let illegal (i : Instr) : Out := .next (s.takeTrap s.cur .c .fault ⟨0x01, parcelsVal (encode i)⟩)
     (s.me.inh = false → (s.tile s.cur).reqs = [] → exec .yield s = s.retired s .c 1) ∧
     (s.me.inh = true → exec (.fork v m x) s = illegal (.fork v m x) ∧ exec .rdv s = illegal .rdv ∧
       exec (.exit n abs w a) s = illegal (.exit n abs w a) ∧ exec .yield s = illegal .yield) ∧
     (s.me.inh = false → exec .tret s = illegal .tret) ∧ encode .tret = [0x0F00#16] ∧
     exec (.trap code) s = .next ((s.advance s.cur .c 1 true).takeTrap s.cur .c .completed ⟨0x10, code.setWidth 64⟩) ∧
     encode (.trap code) = [0x0EC0#16 ||| code.setWidth 16] ∧ encode .scall = [0x0FC0#16] ∧
     exec .scall s = .next ((s.advance s.cur .c 1 true).takeTrap s.cur .c .completed ⟨0x0F, 0⟩))

/-! ### Events of the Thicket, the queues and the mailboxes -/

/-- R36, R94, R95, R108, R225, R242, R244–R246: TASK_DISPATCH gives the task that the Thicket chooses to its tile, which
starts as R108, R123 and R341 say and keeps what no rule clears, no GSYNC among it; TASK_COMPLETION frees the slot and the
tile and meets what depended on it; TASK_AGING raises PRIO by one level, up to 3. That a task's own Spoor records go before
its completion is the model's reading (log 54). -/
def Obligations.ThicketEventResult : Prop :=
  ∀ (s : State) (d : Bool) (t : PTile) (n : BitVec 11) (e : TSlot), s.slot d n.toNat = some e →
    let c := s.tc t
    (s.nextDispatch d = some (t, n.toNat) → e.image = none → ∃ u, exec (.taskDispatch d) s = .next u ∧
      let q := u.tc t
      q.task = some ⟨n, e.lb, e.lba⟩ ∧
      q.c = { Engine.reset with pc := (if e.settled then e.lb.d1 else e.lb.d0).extractLsb' 0 48, walking := true } ∧
      q.v = Engine.reset ∧ q.m = Engine.reset ∧ q.x = Engine.reset ∧
      q.qs = [] ∧ q.cqc = [] ∧ q.cqv = [] ∧ q.lcs = [] ∧ q.feed = [] ∧ q.pending = [] ∧ q.tick = 0 ∧ q.mstack = [] ∧ q.xstack = [] ∧
      (∀ g y, aget q.gslots g = some y → y.synced = false) ∧ q.mq = [] ∧ q.inh = false ∧ q.dbl = false ∧ q.resumed = false ∧ q.wdraw = false ∧
      q.vregs = c.vregs ∧ q.masks = c.masks ∧ q.zs = c.zs ∧ q.scratch = c.scratch ∧ q.ts = c.ts ∧ q.fails = c.fails ∧
      q.tvec = c.tvec ∧ q.xrecs = c.xrecs ∧ (u.tile t).dcache = [] ∧ (u.tile t).live = (s.tile t).live ∧
      u.slot d n.toNat = some { e with st := .running, tile := some t, ran := true } ∧ s.SameMem u) ∧
    (e.tile = some t → s.completable t e = true → ((s.die d).slots.map (·.1)).Pairwise (· < ·) → ∃ u,
      exec (.taskCompletion d n) s = .next u ∧ u.slot d n.toNat = none ∧ (u.tc t).task = none ∧ (u.tile t).reqs = [] ∧
      (u.tile t).freed = s.ns9 ∧ (u.tile t).lastTask = some e.age ∧ (u.tc t).scratch = c.scratch ∧ (u.tc t).ts = c.ts ∧
      ∀ m x, u.slot d m = some x → (∀ q, q ∈ x.deps → q.1 ≠ n.toNat) ∧ (x.st = .waiting → x.deps ≠ [])) ∧
    (e.st = .ready → 2 ^ 20 ≤ e.readyCk → ∃ u, exec (.taskAging d n) s = .next u ∧
      u.slot d n.toNat = some { e with prio := min 3 (e.prio + 1), readyCk := 0 } ∧
      (∀ m, m ≠ n.toNat → u.slot d m = s.slot d m) ∧ u.tiles = s.tiles ∧ u.mem = s.mem)

/-- R255, R280, R282, R287, R288, R320–R322, R330: one admission from a work queue, a refill, an arrival at a bound mailbox,
which writes its slot, adds to MCTR and ARR and admits one handler instance with the slot's address in D2, and a Spoor append
with its CRC-64. An arrival for a context in its final migration round is held, and its Spoor appends nothing (R389). Which
die takes the handler is a free value (log 29). -/
def Obligations.QueueEventResult : Prop :=
  ∀ (s s1 s2 s3 : State) (d : Bool) (n : BitVec 9) (r : Rec) (rest rs : List Rec) (m : Nat) (ctx : Ctx) (i : Nat)
    (b : BitVec 6) (a : Arrival) (ra na pa : Nat),
    let q := s.queue d n.toNat
    (256 < s.freeSlots d → s.nextEligible d = some n.toNat → q.recs = r :: rest → blockOk r = true → s.lowestFree d = some m →
      ∃ u e, exec (.workQueueAdmission d) s = .next u ∧ (u.queue d n.toNat).recs = rest ∧ u.slot d m = some e ∧
        e.lb = { r with d7 := 0#32 ++ (0#6 ++ bit d 1 ++ n ++ q.gen : BitVec 32) } ∧ e.lba = 0 ∧ e.ctx = q.ctx ∧
        e.src = .queue n q.gen q.admitted ∧ (e.st = .ready ↔ e.deps = []) ∧ ∀ k, k ≠ m → u.slot d k = s.slot d k) ∧
    (q.valid = true → q.res = true → q.spill = true → q.faulted = false → q.refill = none → 0 < q.rcount → q.recs.length ≤ 24 →
      s.ringRead d n.toNat (min 8 q.rcount) q.head = .ok (s1, rs) → ∃ u, exec (.refillStart d n) s = .next u ∧
        u.queue d n.toNat = { s1.queue d n.toNat with refill := some rs } ∧ u.mem = s1.mem) ∧
    (q.valid = true → q.refill = some rs → ∃ u, exec (.refillComplete d n) s = .next u ∧
      let head := q.head + BitVec.ofNat 32 rs.length
      u.queue d n.toNat = { q with recs := q.recs ++ rs, head := head, refill := none
                                   spill := if q.tail = head then false else q.spill } ∧ u.mem = s.mem) ∧
    (let x := s.mbox ctx b.toNat
     s.arrivals[i]? = some (ctx, b, a) → (s.ctx ctx).migrating = false → x.bound = true → (∀ d, s.mailboxFree d ctx b.toNat = true) →
      (∀ p, p ∈ s.arrivals.take i → p.1 = ctx → p.2.1 = b → p.2.2.sender ≠ a.sender) → ∃ u,
      exec (.mailboxArrival i) s = .next u ∧ u.arrivals = s.arrivals.eraseIdx i ∧
        (u.mbox ctx b.toNat).mctr.toNat = min (x.mctr.toNat + a.amount.toNat) (2 ^ 64 - 1) ∧
        (u.mbox ctx b.toNat).arr = x.arr + 1 ∧ (u.mbox ctx b.toNat).bound = true ∧
        let mctr : Dbl := BitVec.ofNat 64 (min (x.mctr.toNat + a.amount.toNat) (2 ^ 64 - 1))
        let va := x.addr.toNat + 64 * (x.arr.toNat % 2 ^ x.slots.toNat)
        let bytes := recBytes (match a with
          | .benrek p => p
          | .xtadd t v => ⟨BitVec.ofNat 64 (0x01 + 256 * t), v, mctr, 0, 0, 0, 0, 0⟩
          | .redv node len => ⟨0x02 + (node.setWidth 64 <<< 8), len, x.mctr, 0, 0, 0, 0, 0⟩
          | .report p => p)
        let s0 := ({ s with arrivals := s.arrivals.eraseIdx i } : State).modMbox ctx b.toNat (fun y => { y with
          mctr := mctr
          arr := x.arr + 1 })
        ∀ dd ha, dd = Config.freeDie s.fresh → s0.translate dd none ctx va accW (BitVec.ofNat 64 va) = .ok (s1, pa) →
          (s1.unitWrite dd pa bytes).translate dd none ctx x.handler.toNat accR x.handler = .ok (s2, ha) →
          s2.poison.contains (lineOf ha) = false → s2.lowestFree dd = some m →
          let blk : Rec := { recOf (s2.physBytes dd ha 64) with d2 := BitVec.ofNat 64 va }
          blockOk blk = true → u.physBytes dd pa 64 = bytes ∧ (u.mbox ctx b.toNat).live = x.live + 1 ∧ ∃ e, u.slot dd m = some e ∧
            e.lb = blk ∧ e.lba = x.handler ∧ e.ctx = ctx ∧ e.src = .mailbox b x.arr.toNat ∧ (e.st = .ready ↔ e.deps = [])) ∧
    (s.arrivals[i]? = some (ctx, b, a) → (s.ctx ctx).migrating = true → exec (.mailboxArrival i) s = .next s) ∧
    (let g := s.log d ctx
     let cap := 2 ^ (g.d0.extractLsb' 0 5).toNat
     let count := ofBytes (s2.physBytes d na 8)
     let va := (g.d0.extractLsb' 6 50).toNat * 64 + 64 * (count.toNat % cap)
     ((s.ctx ctx).migrating = true → exec (.spoorAppend d ctx) s = .next s) ∧
     (g.inq = r :: rest → g.stopped = false → (s.ctx ctx).migrating = false → s.translate d none ctx g.rcnt.toNat accR g.rcnt = .ok (s1, ra) →
      s1.translate d none ctx g.acnt.toNat accW g.acnt = .ok (s2, na) → aget s2.dir (ra / 8) = none →
      (count - ofBytes (s2.physBytes d ra 8)).toNat < cap →
      s2.translate d none ctx va accW (BitVec.ofNat 64 va) = .ok (s3, pa) → aget s3.dir (na / 8) = none →
      pa % 64 = 0 → na % 8 = 0 → lineOf pa ≠ lineOf na → ∃ u, exec (.spoorAppend d ctx) s = .next u ∧
        u.physBytes d pa 64 = (recBytes r).take 56 ++ toBytes (crc64 ((recBytes r).take 56)) 8 ∧
        u.physBytes d na 8 = toBytes (count + 1) 8 ∧ (u.log d ctx).inq = rest ∧ u.mem = s3.mem))

/-! ### Events of the tiles -/

/-- R208, R222–R225, R344, R358, R359, R360, R383, R396: an add in flight, the trap of a running record, STALL, which no wait
that is over raises, but one that waits for room in CQC does (R109), the exchange with the Sett, which a tile that holds trap
records waits for (R373), the slice events, of which a boundary comes with every request raised (R383), and MCHECK. A slice
that has fallen due begins with the exchange that brings its context in, whoever began it (R359). That an event whose
condition fails changes nothing is the model's choice (log 4), as is how the Sett moves (log 39). -/
def Obligations.TileEventResult : Prop :=
  ∀ (s s' : State) (t : PTile) (i : Nat) (a : AddMsg) (r : XRec) (k : Task) (e : TSlot) (v : Dbl),
    let x := s.tile t
    let c := s.tc t
    (s.flying[i]? = some a → a.t = t → x.live = some a.ctx → s.exchanging t = false → ∃ u,
      exec (.timelineAdd i) s = .next u ∧ u.flying = s.flying.eraseIdx i ∧
      (a.fail = false → ((u.tc t).ctr a.ctr.toNat).toNat = min ((c.ctr a.ctr.toNat).toNat + a.amount.toNat) (2 ^ 64 - 1) ∧
        (u.tc t).fails = c.fails) ∧
      (a.fail = true → (u.tc t).fails = c.fails ||| (1#32 <<< a.ctr.toNat) ∧ (u.tc t).ts = c.ts) ∧
      { u.tc t with ts := c.ts, fails := c.fails } = c ∧ s.SameMem u) ∧
    (∀ f, (∀ q, q ∈ c.mq → q.fault = none) → c.xrecs.find? (fun r => r.fault.isSome) = some r → r.fault = some f → r.own = true →
      s.taskRuns t = true → x.stop = .none → c.recStop = false →
      exec (.trapEntry t) s = .next (s.takeTrap t .x (.record r.iaddr) f)) ∧
    (∀ g, 2 ^ 24 ≤ x.prog → c.task = some k → x.stop = .none → s.waitMet t = false → c.walkers.find? (fun e => (c.eng e).stands) = some g →
      exec (.stall t) s = .next (s.takeTrap t g .fault ⟨0x0E, 0⟩)) ∧
    (s.waitMet t = true → exec (.stall t) s = .next s) ∧
    (∀ (ctr : BitVec 5) (st ka : Bool) (d : BitVec 4) (scope : BitVec 3) (slot : BitVec 2) (y : Dbl), c.c.waiting = true →
      c.c.fetched ≠ [] →
      let room (st : Bool) : Prop := st = true → c.cqc.length < 8
      (decode c.c.fetched = .ok (.twait ctr st d scope ka) → c.readQ [(d, ka)] = .ok [y] →
        (s.waitMet t = true ↔ room st ∧ (y ≤ c.ctr ctr.toNat ∨ c.fails.getLsbD ctr.toNat = true))) ∧
      (decode c.c.fetched = .ok (.gwait slot st) ∨ decode c.c.fetched = .ok (.gsync slot st) →
        (s.waitMet t = true ↔ room st ∧ (c.gslot slot.toNat).arr = false ∧ (c.gslot slot.toNat).held = false))) ∧
    (x.records ≠ [] → exec (.settExchange t) s = .next s) ∧
    (s.exchangeReady t = true →
      (c.task = none → ∃ u, exec (.settExchange t) s = .next u ∧ u.tile t = { x with stop := .exchanging x.due } ∧
        ∀ p, p ≠ t → u.tile p = s.tile p) ∧
      (c.task = some k → s.slot (dieOf t) k.slot.toNat = some e → s.stopForSave t = some s' → ∃ u,
        exec (.settExchange t) s = .next u ∧ (u.tile t).stop = .exchanging x.due)) ∧
    (∀ slice, x.stop = .exchanging slice → s.settWait = none → (x.sett.map (fun y => y.2.1.task)).getD none = none →
      (x.sett.map (·.2.2)).getD none = none → ∃ u, exec (.settExchangeComplete t) s = .next u ∧
        (u.tile t).live = x.sett.map (·.1) ∧ u.tc t = (x.sett.map (·.2.1)).getD .reset ∧
        (u.tile t).sett = x.live.map (fun k => (k, c, none)) ∧ (u.tile t).stop = .none ∧
        (let now := s.sliceAt s.slhead
         let begins : Bool := slice || (x.due && sliceValid now && x.sett.map (·.1) = some (now.1.extractLsb' 0 5))
         (u.tile t).frameSeq = x.frameSeq + (if begins then 1 else 0) ∧ (u.tile t).due = (x.due && !begins)) ∧ s.SameMem u) ∧
    (let ends : Nat := if sliceValid (s.sliceAt s.slhead) then sliceEnd (s.sliceAt s.slhead) else 0
     let at_ (j : Nat) : BitVec 32 := s.slhead + 1 + BitVec.ofNat 32 j
     let stands (j : Nat) : Prop := sliceValid (s.sliceAt (at_ j)) = true ∧ max (s.ns9 / 9) ends < sliceEnd (s.sliceAt (at_ j))
     ∀ j, j < 63 → j + 1 < (s.sltail - s.slhead).toNat → stands j → (∀ n, n < j → ¬ stands n) →
      let next := s.sliceAt (at_ j)
      t ∈ s.sliceTiles (next.1.extractLsb' 0 5) → x.sreq ≠ some (at_ j) → c.task = some k → (∀ p, p ∈ x.reqs → p.cause ≠ 1) →
      9 * max ends (nsOf next.2.1) ≤ s.ns9 + 5 * (s.ctx (liveCtx x)).pdead.toNat → ∃ u, exec .sliceRequest s = .next u ∧
        (u.tile t).reqs = x.reqs ++ [⟨1, (s.ctx (liveCtx x)).pdead.toNat⟩] ∧ (u.tile t).sreq = some (at_ j) ∧ u.tc t = c) ∧
    (let next := s.sliceAt (s.slhead + 1)
     s.hasNext = true →
      (s.boundary ≤ s.ns9 / 9 → sliceValid next = true → s.ns9 / 9 < sliceEnd next → ∃ u, exec .sliceBoundary s = .next u ∧
        u.slhead = s.slhead + 1 ∧ u.slskip = s.slskip ∧ (u.tile t).sreq = none ∧
        ((u.tile t).due = true ↔ t ∈ s.sliceTiles (next.1.extractLsb' 0 5) ∧ x.sett.map (·.1) = some (next.1.extractLsb' 0 5)) ∧
        (x.pend = false → u.tc t = c) ∧
        (t ∈ s.sliceTiles (next.1.extractLsb' 0 5) → c.task = some k → x.sreq ≠ some (s.slhead + 1) →
          ∃ p, p ∈ (u.tile t).reqs ∧ p.cause = 1)) ∧
      (s.boundary ≤ s.ns9 / 9 → sliceValid next = false ∨ sliceEnd next ≤ s.ns9 / 9 → exec .sliceBoundary s =
        .next { s with slhead := s.slhead + 1, slskip := if s.slskip = 0xFFFFFFFF#32 then s.slskip else s.slskip + 1
                       tiles := s.tiles.map (fun e => (e.1, { e.2 with sreq := e.2.sreq.filter (· ≠ s.slhead + 1) })) })) ∧
    (∃ u, exec (.mcheck t v) s = .next u ∧ (u.tile t).stop = .fenced ∧ (u.tile t).sbuf = [] ∧ (u.tile t).reqs = [] ∧
      (u.tc t).task = none ∧ (u.tc t).mq = [] ∧ (u.tc t).xrecs = [] ∧ (u.tc t).fills = [] ∧ (u.tc t).vstores = [] ∧
      ∀ e, (u.tc t).eng e = Engine.reset)

/-! ### Messages from outside the package -/

/-- R255, R256, R291, R373, R384: a Benrek message whose checks hold does what it says, and one whose tag or sequence fails is
counted and refused. R255: an accepted mailbox write that the mailbox cannot take now, or behind an earlier one that is held,
is held in its turn. The tags are those of R256, R290 and R384 under the unit's key. That an ENQUEUE at a FAULTED queue is
placed as at any other is the model's choice (log 35). What a message leaves behind for the environment is the model's choice
(log 14), as are the die of a refused one and that a message waits for a full receive ring, which leaves all as it was (log
29), and how a hart's store stands (log 13). -/
def Obligations.MessageResult : Prop :=
  ∀ (s : State) (die d : Bool) (n : Nat) (h tag : Dbl) (tail seq : BitVec 32) (rec : Rec) (cb mb : Byte),
    let q := s.queue d n
    let sat (x : BitVec 32) : BitVec 32 := if x = 0xFFFFFFFF#32 then x else x + 1
    let notifyMac := toBytes h 8 ++ natBytes tail.toNat 4 ++ natBytes seq.toNat 4
    let enqueueMac := toBytes h 8 ++ List.replicate 4 0#8 ++ natBytes seq.toNat 4 ++ recBytes rec
    (s.liveQueue h = some (d, n) → (s.ctx q.ctx).migrating = false →
      (cmac8 q.key notifyMac = tag → q.lastseq.toNat < seq.toNat →
        let inc := (tail - q.tail).toNat
        (1 ≤ inc → inc + q.rcount ≤ q.rcap → ∃ u, exec (.notify die h tail seq tag) s = .next u ∧
          u.queue d n = { q with tail := tail, lastseq := seq, spill := q.spill || q.res } ∧ u.sent = s.sent) ∧
        (inc = 0 ∨ q.rcap < inc + q.rcount → ∃ u, exec (.notify die h tail seq tag) s = .next u ∧
          u.queue d n = { q with lastseq := seq } ∧ u.sent = s.sent ++ [.nack die 3 h seq])) ∧
      (cmac8 q.key enqueueMac = tag → q.lastseq.toNat < seq.toNat →
        (q.placement = .onDie → ∃ u, exec (.enqueue die h seq tag rec) s = .next u ∧
          u.queue d n = { q with recs := q.recs ++ [rec], lastseq := seq } ∧ u.sent = s.sent) ∧
        (q.placement = .full → ∃ u, exec (.enqueue die h seq tag rec) s = .next u ∧
          u.queue d n = { q with lastseq := seq } ∧ u.sent = s.sent ++ [.nack die 4 h seq])) ∧
      (cmac8 q.key notifyMac ≠ tag ∨ seq.toNat ≤ q.lastseq.toNat → ∃ u,
        exec (.notify die h tail seq tag) s = .next u ∧ u.queue d n = { q with nacks := sat q.nacks } ∧
        u.sent = s.sent ++ [.nack die 1 h seq])) ∧
    (s.liveQueue h = none → exec (.notify die h tail seq tag) s = .next (s.send (.nack die 2 h seq)) ∧
      exec (.enqueue die h seq tag rec) s = .next (s.send (.nack die 2 h seq))) ∧
    (let c : Ctx := cb.setWidth 5
     let m := (mb.setWidth 6).toNat
     let b := s.mbox c m
     let auth : Prop := cmac8 b.key ([cb, mb, 0, 0] ++ natBytes seq.toNat 4 ++ recBytes rec) = tag ∧
       b.lastseq.toNat < seq.toNat
     cb.toNat < 32 → mb.toNat < 64 → (s.ctx c).valid = true → (s.ctx c).migrating = false → b.bound = true →
      (auth → s.mailboxFree die c m = true → s.writeHeld c m = false → ∃ u, exec (.mailboxWrite die cb mb seq tag rec) s = .next u ∧
        (u.mbox c m).lastseq = seq ∧ (u.mbox c m).arr = b.arr + 1 ∧
        (u.mbox c m).mctr.toNat = min (b.mctr.toNat + 1) (2 ^ 64 - 1) ∧ u.sent = s.sent) ∧
      (auth → b.live < 2 ^ b.slots.toNat → s.mailboxFree die c m = false ∨ s.writeHeld c m = true →
        ∃ u, exec (.mailboxWrite die cb mb seq tag rec) s = .next u ∧ u.mbox c m = { b with lastseq := seq } ∧
          u.arrivals = s.arrivals ++ [(c, BitVec.ofNat 6 m, .benrek rec)] ∧ u.sent = s.sent) ∧
      (¬ auth → ∃ u, exec (.mailboxWrite die cb mb seq tag rec) s = .next u ∧
        u.mbox c m = { b with nacks := if b.nacks = 0xFFFF#16 then b.nacks else b.nacks + 1 } ∧
        u.sent.length = s.sent.length + 1)) ∧
    (let mac := toBytes h 8 ++ natBytes seq.toNat 4 ++ List.replicate 4 0#8
     (s.mgmtset = true → cmac8 s.mgmtkey mac = tag → s.sumlast.toNat < seq.toNat → ∃ u,
      exec (.summaryRequest die h seq tag) s = .next u ∧ u.sumlast = seq ∧ u.sumseq = s.sumseq + 1 ∧
      let body := natBytes seq.toNat 4 ++ List.replicate 4 0#8 ++
        { s with sumlast := seq, sumseq := s.sumseq + 1 }.summaryBytes (s.sumseq + 1)
      body.length = 3592 ∧ u.sent = s.sent ++ [.summary die seq body (cmac8 s.mgmtkey body)]) ∧
     (s.mgmtset = false ∨ cmac8 s.mgmtkey mac ≠ tag ∨ seq.toNat ≤ s.sumlast.toNat →
      exec (.summaryRequest die h seq tag) s = .next ({ s with sumnack := sat s.sumnack }.send (.nack die 1 h seq)))) ∧
    (let g := s.recvRing die
     (g.full = false → s.MemWf → ∃ u, exec (.benrekReceive die rec) s = .next u ∧ u.recvRing die = { g with prod := g.prod + 1 } ∧
      memBytes u.mem ((g.base.toNat % 2 ^ 52) / 64 * 64 + 64 * (g.prod.toNat % 2 ^ g.log2.toNat)) 64 = recBytes rec) ∧
     (g.full = true → exec (.benrekReceive die rec) s = .next s))

/-- R330–R333, R386, R387: a unit of a reduction or of a broadcast, and a remote access, at their home; a unit that fails its
CRC-64 or its checks is refused with nothing written. An access through a peer window to a tile that exchanges waits (R77), as
does one to a tile whose clocks are stopped (log 66); that a unit reaches nothing through the self window is the model's
choice (log 62). The list of what was sent is the model's own (log 14). -/
def Obligations.FabricArrivalResult : Prop :=
  ∀ (s s1 s2 : State) (u : RedvUnit) (b : BcstUnit) (c : Ctx) (va v : Dbl) (n : Nat) (old bs : List Byte),
    let sum (x y : Lane) : Lane := match unpack false x, unpack false y with
      | .nan, _ => 0x7FC00000#32
      | _, .nan => 0x7FC00000#32
      | .inf p, .inf q => if p = q then x else 0x7FC00000#32
      | .inf _, _ => x
      | _, .inf _ => y
      | .fin p m e, .fin q k f =>
        let z := min e f
        let units (neg : Bool) (m : Nat) (e : Int) : Int := (if neg then -1 else 1) * (m * 2 ^ (e - z).toNat : Nat)
        let w := units p m e + units q k f
        if w = 0 then (if p && q then 0x80000000#32 else 0) else (fround 24 0 false (decide (w < 0)) w.natAbs z false).bits
    (u.crcOk = true → (s.ctx u.ctx).valid = true → (s.ctx u.ctx).migrating = false →
      s.homeRead false u.ctx u.va.toNat 64 = some (s1, old) →
      old.length = 64 → bs.length = 64 →
      (∀ j, j < 16 →
        let word (l : List Byte) : Lane := l.getD (4 * j + 3) 0 ++ l.getD (4 * j + 2) 0 ++ l.getD (4 * j + 1) 0 ++ l.getD (4 * j) 0
        word bs = sum (word old) (word (recBytes u.data))) →
      s1.homeWriteVa false u.ctx u.va.toNat bs = some s2 → ∃ t,
      exec (.xredvUnit u) s = .next t ∧ t.mem = s2.mem ∧ t.sent = s2.sent ++ [.ack u.node u.num u.unit] ∧
      (let mine (e : Nat × Nat × Nat) : Bool := e.1 = u.node.toNat && e.2.1 = u.num
       let k := ((s2.redvs.find? mine).map (·.2.2)).getD 0 + 1
       (k < u.len.toNat / 64 → t.arrivals = s2.arrivals ∧ (t.redvs.find? mine).map (·.2.2) = some k) ∧
       (u.len.toNat / 64 ≤ k → t.redvs.find? mine = none ∧ ∀ m, u.mbox = some m →
        t.arrivals = s2.arrivals ++ [(u.ctx, m, .redv u.node (u.len.setWidth 64))]))) ∧
    (u.crcOk = false → exec (.xredvUnit u) s = .next (s.send (.refuse u.node u.num u.unit true))) ∧
    (u.crcOk = true → (s.ctx u.ctx).valid = true → (s.ctx u.ctx).migrating = false →
      s.homeRead false u.ctx u.va.toNat 64 = none → exec (.xredvUnit u) s =
      .next (if s.homeHeld u.ctx u.va.toNat 64 then s
        else (s.homeTouch false u.ctx u.va.toNat 64 accR).send (.refuse u.node u.num u.unit false))) ∧
    (let k : Ctx := b.wh.extractLsb' 8 5
     let e := (b.wh.extractLsb' 0 6).toNat
     let w := s.wvt k e
     (b.crcOk = true → (s.ctx k).valid = true → (s.ctx k).migrating = false → w.st = .building →
      w.version = b.wh.extractLsb' 32 32 → b.off.toNat + b.len.toNat ≤ w.length.toNat → w.pubDone = false →
      s.homeWriteVa false k (w.base.toNat + b.off.toNat + 64 * (b.unit % (b.len.toNat / 64))) (recBytes b.data) = some s1 →
      s1.wvt k e = w → ∃ t, exec (.xbcstUnit b) s = .next t ∧ t.mem = s1.mem ∧ t.sent = s1.sent ++ [.ack b.node b.num b.unit] ∧
        (b.publish = false → t.wvt k e = { w with landed := w.landed + 64 }) ∧
        (b.publish = true →
          let mine (q : Nat × Nat × Nat) : Bool := q.1 = b.node.toNat && q.2.1 = b.num
          let got := ((w.pubs.find? mine).map (·.2.2)).getD 0 + 1
          let all := b.len.toNat / 64 * (b.again + 1)
          (t.wvt k e).landed = w.landed + 64 ∧
          (got < all → (t.wvt k e).st = .building ∧ ((t.wvt k e).pubs.find? mine).map (·.2.2) = some got) ∧
          (all ≤ got → w.length.toNat ≤ (w.landed + 64).toNat → (t.wvt k e).st = .published ∧ (t.wvt k e).cur = true) ∧
          (all ≤ got → (w.landed + 64).toNat < w.length.toNat → (t.wvt k e).st = .building ∧ (t.wvt k e).pubDone = true))) ∧
     (w.version ≠ b.wh.extractLsb' 32 32 → exec (.xbcstUnit b) s =
      .next (s.send (.refuse b.node b.num b.unit (!b.crcOk))))) ∧
    ((s.ctx c).valid = true → (s.ctx c).migrating = false →
      (s.homeRead false c va.toNat n = some (s1, old) → exec (.ualinkStore c va (.read n)) s = .next (s1.send (.ualink old true))) ∧
      (s.homeRead false c va.toNat n = none → exec (.ualinkStore c va (.read n)) s =
        .next (if s.homeHeld c va.toNat n then s else (s.homeTouch false c va.toNat n accR).send (.ualink [] false))) ∧
      (s.homeWriteVa false c va.toNat bs = some s1 → exec (.ualinkStore c va (.write bs)) s = .next (s1.send (.ualink [] true))) ∧
      (s.homeWriteVa false c va.toNat bs = none → exec (.ualinkStore c va (.write bs)) s =
        .next (if s.homeHeld c va.toNat bs.length then s
          else (s.homeTouch false c va.toNat bs.length accW).send (.ualink [] false))) ∧
      (∀ p o, isWindow va.toNat = true → va.toNat % 64 = 0 → s.peerOf c va.toNat 64 = some (p, o) → bs.length = 64 →
        (s.frozen p = false → (s.tile p).stop = .none → ∃ u : State, exec (.ualinkStore c va (.write bs)) s = .next (u.send (.ualink [] true)) ∧
          u.mem = s.mem ∧ (u.tc p).scratch = memWrite (s.tc p).scratch o bs ∧
          exec (.ualinkStore c va (.read 64)) s =
            .next ((s.owesReport ((s.tile p).spoiled.contains (lineOf o)) c va).send (.ualink (memBytes (s.tc p).scratch o 64) true))) ∧
        (s.frozen p = true ∨ s.exchanging p = true → exec (.ualinkStore c va (.write bs)) s = .next s ∧
          exec (.ualinkStore c va (.read 64)) s = .next s)) ∧
      (∀ aop, s.homeRead false c va.toNat 8 = some (s1, old) →
        s1.homeWriteVa false c va.toNat (toBytes (amoOp aop.toNat 8 (ofBytes old) v) 8) = some s2 →
        exec (.ualinkStore c va (.amo aop v)) s = .next (s2.send (.ualink old true))) ∧
      (∀ x, s.homeRead false c va.toNat 8 = some (s1, old) →
        (ofBytes old ≠ x → exec (.ualinkStore c va (.cas x v)) s = .next (s1.send (.ualink old true))) ∧
        (ofBytes old = x → s1.homeWriteVa false c va.toNat (toBytes v 8) = some s2 →
          exec (.ualinkStore c va (.cas x v)) s = .next (s2.send (.ualink old true)))))

/-! ### Boot, power and migration (20_supervisor.md) -/

/-- R377–R379, R385, R389, R390: the boot ROM's requests, retries and answers, package reset, the thermal stop, the end of a
power change, and the steps of a migration. A complex whose island is off has no boot ROM that goes on (R385; the model's
reading, log 61). What PACKAGE_RESET keeps is the model's choice (log 15); the messages sent (log 14), the harts (log 13) and
how migration moves (logs 30, 39) are as its log says. -/
def Obligations.PackageEventResult : Prop :=
  ∀ (s : State) (d : Bool) (off total : BitVec 32) (src : BitVec 18) (data : List Byte) (sensor reading : Byte) (i : BitVec 5)
    (tag : BitVec 32) (c : Chunk) (u : Nat × Nat) (rest : List (Nat × Nat)),
    let x := s.die d
    let g := x.migr
    let nonce := natBytes c.stream.toNat 4 ++ toBytes c.counter 8
    let on : Bool := (s.island (18 + d.toNat)).on
    (on = false → exec (.fwdata d off total data) s = .next s ∧ exec (.fwreqTimeout d) s = .next s ∧
      exec (.bootRetry d) s = .next s ∧ s.turn (.boot d) = .next s) ∧
    (on = true → x.bootPhase = 1 → x.bootSrc = true → off.toNat = x.bootOff →
      (data ≠ [] → off = 0 ∨ total.toNat = x.bootTotal → total.toNat ≤ x.bootImg.length + data.length → ∃ t,
        exec (.fwdata d off total data) s = .next t ∧ (t.die d).bootPhase = 2 ∧ (t.die d).bootImg = x.bootImg ++ data ∧
        t.sent = s.sent) ∧
      (data ≠ [] → off = 0 ∨ total.toNat = x.bootTotal → x.bootImg.length + data.length < total.toNat → ∃ t, exec (.fwdata d off total data) s = .next t ∧
        (t.die d).bootImg = x.bootImg ++ data ∧ (t.die d).bootOff = x.bootOff + 4096 ∧ (t.die d).bootReq = 1 ∧
        t.sent = s.sent ++ [.fwreq d (s.bootsrc.extractLsb' 8 18) (BitVec.ofNat 32 (x.bootOff + 4096))]) ∧
      (data = [] → ∃ t, exec (.fwdata d off total data) s = .next t ∧ (t.die d).bootPhase = 3 ∧ (t.die d).bootTimer = 180000000)) ∧
    (on = true → x.bootPhase = 1 → x.bootSrc = false → ∃ t, s.turn (.boot d) = .next t ∧ (t.die d).bootPhase = 2 ∧
      (t.die d).bootImg = Config.flashImage d ∧ t.sent = s.sent) ∧
    (on = true → x.bootPhase = 1 → x.bootSrc = true → x.bootTimer = 0 →
      (x.bootReq < 3 → ∃ t, exec (.fwreqTimeout d) s = .next t ∧ (t.die d).bootReq = x.bootReq + 1 ∧
        t.sent = s.sent ++ [.fwreq d (s.bootsrc.extractLsb' 8 18) (BitVec.ofNat 32 x.bootOff)]) ∧
      (3 ≤ x.bootReq → ∃ t, exec (.fwreqTimeout d) s = .next t ∧ (t.die d).bootPhase = 3 ∧ t.sent = s.sent)) ∧
    (on = true → x.bootPhase = 3 → x.bootTimer = 0 → x.bootSrc = false → ∃ t, exec (.bootRetry d) s = .next t ∧
      (t.die d).bootPhase = 1 ∧
      (t.die d).bootSrc = true ∧ (t.die d).bootReq = 1 ∧
      t.sent = s.sent ++ [.fwreq d (s.bootsrc.extractLsb' 8 18) 0]) ∧
    ((s.recvRing d).full = false → (s.die s.primary).bootPhase = 4 → ∃ t, exec (.fwreq d off src) s = .next t ∧
      (t.recvRing d).prod = (s.recvRing d).prod + 1 ∧ t.sent = s.sent ++ [.fwdata src off
        (BitVec.ofNat 32 (s.die s.primary).bootImg.length) (((s.die s.primary).bootImg.drop off.toNat).take 4096)]) ∧
    (∃ t, exec .packageReset s = .next t ∧ t.mem = s.mem ∧ t.tiles = [] ∧ t.ctxs = [] ∧ t.primary = false ∧ t.epoch = 0 ∧
      t.cmdhead = 0 ∧ t.cmdtail = 0 ∧ t.cmdbase = 0 ∧ t.islands = [] ∧ t.mgmtset = false ∧ t.die0.l2 = [] ∧ t.die1.l2 = [] ∧
      t.die0.slots = [] ∧ t.die1.slots = [] ∧ t.die0.queues = [] ∧ t.die1.queues = [] ∧ t.bootsrc = s.bootsrc) ∧
    (∃ t, exec (.thermalStop sensor reading) s = .next t ∧ aget t.sensors sensor.toNat = some reading ∧
      (reading.toNat < 110 → t.islands = s.islands ∧ t.therm = s.therm) ∧
      (110 ≤ reading.toNat → (∀ k, k < 16 → t.island k = { s.island k with tstop := true }) ∧
        (∀ k, k = 16 ∨ k = 17 → t.island k = { s.island k with pt := 0, tpt := 0 }) ∧
        (∀ k, 18 ≤ k → t.island k = s.island k) ∧
        t.therm = (s.ptime.extractLsb' 30 32) ++ (0#15 ++ 1#1 ++ reading ++ sensor : BitVec 32))) ∧
    (s.powWait = some (i, tag) → i.toNat < 18 → ∃ v : State, exec (.powerChangeComplete i) s = .next (v.completion tag 0 0) ∧
      v.island i.toNat = { s.island i.toNat with on := (s.island i.toNat).ton, pt := (s.island i.toNat).tpt, busy := false } ∧
      v.powWait = none ∧ ∀ k, k ≠ i.toNat → v.island k = s.island k) ∧
    (g.phase = 1 → g.stage = 2 → g.todo = u :: rest → ∃ t m, exec (.migrationRound d) s = .next t ∧
      (t.die d).migr = { g with todo := rest, counter := g.counter + 1 } ∧ t.sent = s.sent ++ [m]) ∧
    (g.phase = 1 → g.stage = 2 → g.todo = [] → ∃ t, exec (.migrationRound d) s = .next t ∧
      (t.die d).migr = { g with round := g.round + 1, stage := 0 } ∧ t.mem = s.mem) ∧
    (g.phase = 3 → g.stage = 1 → ∃ t, exec (.migrationRound d) s = .next t ∧ (t.die d).migr = { g with stage := 2 } ∧
      ∀ p y, y ∈ (t.tile p).tlb → y.ctx = g.mctx.setWidth 5 → y.pte.getLsbD 5 = true) ∧
    (c.stream = g.stream → (gcmOpen g.mkey nonce c.header c.cipher c.tag = none → ∃ t,
        exec (.migrationChunk d c) s = .next t ∧ (t.die d).migr = { g with phase := 5 } ∧ t.mem = s.mem) ∧
      (∀ plain s1, gcmOpen g.mkey nonce c.header c.cipher c.tag = some plain → dblAt c.header 2 = 0 →
        g.phase ≠ 5 → s.tableWriteVa d (g.mctx.setWidth 5) (dblAt c.header 0).toNat plain = some s1 →
        exec (.migrationChunk d c) s = .next (s1.send (.chunkAck d g.stream c.counter))) ∧
      (∀ plain, gcmOpen g.mkey nonce c.header c.cipher c.tag = some plain → g.phase ≠ 5 →
        (dblAt c.header 2 ≠ 0 → exec (.migrationChunk d c) s = .next (s.send (.chunkAck d g.stream c.counter))) ∧
        (dblAt c.header 2 = 0 → s.tableWriteVa d (g.mctx.setWidth 5) (dblAt c.header 0).toNat plain = none → ∃ t,
          exec (.migrationChunk d c) s = .next t ∧ (t.die d).migr.phase = 5)))

/-- R390: what the engine seals, a destination with the same stream identifier, key, counter and header opens, with its
length; and what opens was sealed so. That AES-GCM is the standard's is the model's presumption (log 7). -/
def Obligations.SealedChunkOpens : Prop :=
  ∀ (key : BitVec 256) (nonce aad plain cipher : List Byte) (tag : BitVec 128),
    let x := gcmSeal key nonce aad plain
    x.1.length = plain.length ∧ gcmOpen key nonce aad x.1 x.2 = some plain ∧
    (gcmOpen key nonce aad cipher tag = some plain → gcmSeal key nonce aad plain = (cipher, tag))

/-! ### Saves (19_tasks.md) -/

/-- R266, R288, R315, R350, R351, R354, R372, R375: YIELD with a request pending, FORCED_SAVE and TSAVE stop the task and save
it: its image goes to the address of R375, its slot is READY with that image, and the tile runs no task and has no request
pending. Where the die's TLB translates the image's addresses through large pages, and no byte of a dirty bitmap can lie in
it, memory reads as the image's bytes there. The image carries the tile-cycles consumed and takes a holder of the ADOPT handle
where it can. The conventions of the save image are the model's choices (log 28). -/
def Obligations.SaveResult : Prop :=
  ∀ (s s' : State) (t : PTile) (k : Task) (e : TSlot) (tag : BitVec 32) (d1 : Dbl),
    let c := liveCtx (s'.tile t)
    let q := s'.tc t
    let d := dieOf t
    let va := ((s'.ctx c).imgbase.toNat + ((if d then 2048 else 0) + k.slot.toNat) * 0x300000) % 2 ^ 64
    let w := s'.wvt c q.adIdx.toNat
    let hold : Bool := q.adVer ≠ 0 && w.version = q.adVer && w.st ≠ .free && decide (w.holders < 65535)
    let bs := s'.imageBytes t c q false hold (e.cycles + (s'.tile t).cycles) (s'.roleOf t)
    q.task = some k → s'.slot d k.slot.toNat = some e → e.wdraw = false → (s'.tile t).spoiled = [] →
    (s'.writeImage d c (bs.length / 64 + 1) va bs).2 = none →
    ∃ (u : State) (e' : TSlot),
      u.slot d k.slot.toNat = some e' ∧ e'.st = .ready ∧ e'.tile = none ∧ e'.lb = e.lb ∧ e'.cycles = e.cycles + (s'.tile t).cycles ∧
      e'.image = some (.mem (BitVec.ofNat 64 va) (if q.origin then some t else none)
        (if hold then some (q.adIdx.toNat, q.adVer) else none) q.held) ∧
      ((s'.tile t).pend = false → (u.wvt c q.adIdx.toNat).holders = w.holders + if hold then 1 else 0) ∧
      (va % 64 = 0 → s'.MemWf → (s'.ctx c).dbwin = 0 → ∀ y : TlbEntry, y.level ≠ 0 →
        (∀ a, va ≤ a → a < va + bs.length → (s'.die d).stlb.find? (·.hits c a) = some y) → ∀ j, j < bs.length →
        memGet u.mem ((y.pte.extractLsb' 16 37).toNat * 2 ^ 15 + (va + j) % 2 ^ (if y.level = 1 then 21 else 30)) = bs.getD j 0) ∧
      (u.tc t).task = none ∧ (u.tile t).reqs = [] ∧
      (s.saveDue t = true → s.stopForSave t = some s' → exec (.forcedSave t) s = .next u) ∧
      (s.cur = t → s.me.inh = false → (s.tile t).reqs ≠ [] → (s.advance t .c 1 true).stopForSave t = some s' →
        exec .yield s = .next u) ∧
      (d1 = t.setWidth 64 → s.exchanging t = false → (s.tile t).stop ≠ .fenced → (s'.tile t).stop ≠ .fenced → s.taskRuns t = true →
        (s.tile t).records = [] → s.stopForSave t = some s' → exec (.tsave tag d1) s = .next (u.completion tag 0 0))

/-! ### Commands (20_supervisor.md) -/

/-- R39, R189, R224, R349, R350, R358, R360, R372: the commands that act on tiles and on their translations, and when each is
refused or has an argument with a reserved bit set; those that would take a tile out of its stop wait while it holds trap
records for a full ring (R373). How an image is laid out and when a mailbox handler or a report takes a free value are the
model's choices (logs 27, 28, 29). The model's choices are as well: that SETTIO with D3 0 leaves the Sett empty (log 39), that
an image whose CRC-64 does not match moves byte for byte (log 28), and that FAILSET of a TILEID that names no tile and SETTIO
out of an empty Sett are refused, for which R372 gives no refusal (log 43); and that TXINV drops single parcels (log 17). -/
def Obligations.TileCommandResult : Prop :=
  ∀ (s : State) (tag : BitVec 32) (d1 d2 d3 d4 : Dbl),
    let t : PTile := d1.setWidth 7
    let c : Ctx := d1.setWidth 5
    let x := s.tile t
    let q := s.tc t
    let badcmd (i : Instr) : Prop := exec i s = .next (s.completion tag 1 0)
    let refused (i : Instr) : Prop := exec i s = .next (s.completion tag 2 0)
    (128 ≤ d1.toNat → badcmd (.tresume tag d1) ∧ badcmd (.tsave tag d1) ∧ badcmd (.cmdFence tag d1) ∧ badcmd (.unfence tag d1) ∧
      badcmd (.settx tag d1) ∧ badcmd (.settio tag d1 d2 d3)) ∧
    (32 ≤ d1.toNat → badcmd (.inval tag d1 d2 d3) ∧ badcmd (.txinv tag d1 d2 d3) ∧ badcmd (.preq tag d1 d2 d3) ∧
      badcmd (.failset tag d1 d2 d3 d4)) ∧
    (d1.toNat < 32 →
      (d2.toNat % 0x8000 = 0 → ∃ u : State, exec (.inval tag d1 d2 d3) s = .next (u.completion tag 0 0) ∧
        (∀ p e, e ∈ (u.tile p).tlb → e.doomed c d2.toNat (d3.toNat * 0x8000) = false) ∧
        (∀ d e, e ∈ (u.die d).stlb → e.doomed c d2.toNat (d3.toNat * 0x8000) = false) ∧
        (∀ p e, e ∈ (u.tile p).tlb → e.ctx = c → e.known = []) ∧
        (∀ p, (s.tile p).live = some c → (u.tc p).fills = [] ∧ (u.tile p).sbuf = [] ∧ (u.tc p).vloads = [] ∧ (u.tc p).vstores = [])) ∧
      (∃ u : State, exec (.txinv tag d1 d2 d3) s = .next (u.completion tag 0 0) ∧ u.mem = s.mem ∧ ∀ p e,
        e ∈ (u.tile p).text ↔ e ∈ (s.tile p).text ∧
          ¬ (e.ctx = c ∧ (d3 = 0 ∨ e.va < d2.toNat + d3.toNat ∧ d2.toNat < e.va + 2))) ∧
      (∃ u : State, exec (.preq tag d1 d2 d3) s = .next (u.completion tag 0 0) ∧
        ∀ n p k, n < 128 → (d3 ++ d2).getLsbD n = true → s.mapTile c n = some p → (s.tile p).live = some c → (s.tc p).task = some k →
          ∃ r, r ∈ (u.tile p).reqs ∧ r.cause = 3) ∧
      (d2.toNat < 128 → d3.toNat < 2 ^ 32 → d4.toNat < 2 →
        (∀ p, s.mapTile c d2.toNat = some p → (s.tile p).live = some c → ∃ u : State,
          exec (.failset tag d1 d2 d3 d4) s = .next (u.completion tag 0 0) ∧
          (u.tc p).fails = (if d4 = 0 then (s.tc p).fails ||| d3.setWidth 32 else (s.tc p).fails &&& ~~~(d3.setWidth 32)) ∧
          (u.tc p).ts = (s.tc p).ts ∧ (u.tile p).prog = (s.tile p).prog ∧ ∀ r, r ≠ p → u.tile r = s.tile r) ∧
        (s.mapTile c d2.toNat = none → refused (.failset tag d1 d2 d3 d4)))) ∧
    (d1.toNat < 128 →
      (x.records ≠ [] → (∀ b, x.stop = .abatal b → exec (.tresume tag d1) s = .next s) ∧
        (x.stop = .fenced → exec (.unfence tag d1) s = .next s) ∧
        (x.stop ≠ .fenced → q.task ≠ none → exec (.tsave tag d1) s = .next s)) ∧
      (x.stop = .abatal false → x.records = [] → ∃ u : State, exec (.tresume tag d1) s = .next (u.completion tag 0 0) ∧ (u.tile t).stop = .none ∧
        (u.tc t).inh = false ∧ (u.tc t).c.fetched = [] ∧
        (q.teng = 0 → (u.tc t).c.pc = q.tepc) ∧ (q.teng ≠ 0 → (u.tc t).c.pc = q.tcpc) ∧
        (q.teng = 1 → (u.tc t).v.pc = if q.recStop then q.v.pc else q.tepc) ∧ (q.teng ≠ 1 → (u.tc t).v.pc = q.v.pc) ∧
        (q.teng = 2 → (u.tc t).m.pc = if q.recStop then q.m.pc else q.tepc) ∧ (q.teng ≠ 2 → (u.tc t).m.pc = q.m.pc) ∧
        (q.teng = 3 → (u.tc t).x.pc = if q.recStop then q.x.pc else q.tepc) ∧ (q.teng ≠ 3 → (u.tc t).x.pc = q.x.pc)) ∧
      (x.stop = .abatal true → x.records = [] → ∃ u : State, exec (.tresume tag d1) s = .next (u.completion tag 0 0) ∧ (u.tile t).stop = .none ∧
        (u.tc t).inh = q.inh ∧ (u.tc t).c = q.c ∧ (u.tc t).v = q.v ∧ (u.tc t).m = q.m ∧ (u.tc t).x = q.x) ∧
      ((∀ b, x.stop ≠ .abatal b) → refused (.tresume tag d1)) ∧
      (x.stop = .fenced ∨ q.task = none → refused (.tsave tag d1)) ∧
      (∃ u : State, exec (.mcheck t 0) s = .next u ∧ exec (.cmdFence tag d1) s = .next (u.completion tag 0 0)) ∧
      (x.stop = .fenced → x.records = [] → ∃ u : State, exec (.unfence tag d1) s = .next (u.completion tag 0 0) ∧ u.tile t = { x with stop := .none } ∧
        (∀ p, p ≠ t → u.tile p = s.tile p)) ∧
      (x.stop ≠ .fenced → refused (.unfence tag d1)) ∧
      (x.stop ≠ .fenced → s.exchanging t = false → exec (.settx tag d1) s = .next { s with settWait := some (t, tag) }) ∧
      (s.exchanging t = true → d3.toNat < 2 → d2.toNat % 4096 = 0 → refused (.settio tag d1 d2 d3)) ∧
      (s.exchanging t = false → d3 = 0 → d2.toNat % 4096 = 0 →
        (x.sett = none → refused (.settio tag d1 d2 d3)) ∧
        (∀ k y bad, x.sett = some (k, y, bad) → s.reaches d2.toNat (s.settImage t y bad).length = true → ∃ u : State,
          exec (.settio tag d1 d2 d3) s = .next (u.completion tag 0 0) ∧ u.tile t = { u.tile t with sett := none, live := x.live } ∧
          (s.MemWf → memBytes u.mem d2.toNat (s.settImage t y bad).length = s.settImage t y bad) ∧
          ∀ bs, bad = some bs → s.settImage t y bad = bs)) ∧
      (∀ s1 s2 h bs, s.exchanging t = false → d3 = 1 → d2.toNat % 4096 = 0 → s.reaches d2.toNat 64 = true →
        s.physRead d2.toNat 64 = (s1, h) → (ofBytes (h.take 8)).extractLsb' 0 32 = 0x4B39494D#32 →
        (ofBytes (h.take 8)).getLsbD 48 = true → 64 ≤ (dblAt h 4).toNat → (dblAt h 4).toNat ≤ 0x300000 →
        s1.reaches d2.toNat (dblAt h 4).toNat = true → s1.physRead d2.toNat (dblAt h 4).toNat = (s2, bs) →
        (crc64 (bs.drop 64) = dblAt bs 7 → imageOk bs = true) → ∃ (u : State) (y : TCtx),
        exec (.settio tag d1 d2 d3) s = .next (u.completion tag 0 0) ∧
        (u.tile t).sett = some ((dblAt bs 2).extractLsb' 16 5, y, if crc64 (bs.drop 64) = dblAt bs 7 then none else some bs) ∧ (u.tile t).live = x.live))

/-- R189, R240, R242, R284, R307, R311, R377, R382, R385, R389: the commands that act on the package, and the completion
record that every command writes (R371, R372). The free values of reports, the layouts and what CTXDOWN removes are the
model's choices (logs 27, 30, 31). The model's choices are as well: BADCMD for a SUMMARY at an address that is no multiple of
64, REFUSED for a MIGR while the die's stream runs, neither of which a row of R372 gives (log 43), and REFUSED for a RESTART
of a die whose island is off (log 61). -/
def Obligations.PackageCommandResult : Prop :=
  ∀ (s s1 : State) (tag : BitVec 32) (d1 d2 : Dbl) (status : Nat) (result : Dbl) (bs : List Byte),
    let c : Ctx := d1.setWidth 5
    let badcmd (i : Instr) : Prop := exec i s = .next (s.completion tag 1 0)
    let refused (i : Instr) : Prop := exec i s = .next (s.completion tag 2 0)
    (let rec_ : Dbl := tag ++ BitVec.ofNat 32 status
     let at_ := (s.cplbase.toNat % 2 ^ 52) / 16 * 16 + 16 * (s.cplprod.toNat % 2 ^ s.cpllog2.toNat)
     (2 ^ s.cpllog2.toNat ≤ (s.cplprod - s.cplcons).toNat →
      s.completion tag status result = { s with cplWait := some (rec_, result) }) ∧
     ((s.cplprod - s.cplcons).toNat < 2 ^ s.cpllog2.toNat → s.MemWf →
      let u := s.completion tag status result
      u.cplprod = s.cplprod + 1 ∧ u.cplWait = none ∧ memBytes u.mem at_ 16 = toBytes rec_ 8 ++ toBytes result 8)) ∧
    (32 ≤ d1.toNat → badcmd (.resume tag d1 d2) ∧ badcmd (.ctxdown tag d1)) ∧
    (2 ≤ d1.toNat → badcmd (.restart tag d1) ∧ badcmd (.migr tag d1)) ∧
    (20 ≤ d1.toNat ∨ 16 ≤ d2.toNat → badcmd (.power tag d1 d2)) ∧
    (1024 ≤ d1.toNat ∨ 2 ≤ d2.toNat → badcmd (.qres tag d1 d2)) ∧
    (d1.toNat % 64 ≠ 0 → badcmd (.summary tag d1)) ∧
    (let lb := recOf (((bodyOf (readSections (fld (dblAt bs 5) 0 16) (bs.drop 64)) 12).drop 24).take 64)
     let d := dieOf ((dblAt bs 2).extractLsb' 0 7)
     d1.toNat < 32 → s.readImageAt false c d2.toNat = (s1, some bs) → imageOk bs = true → (dblAt bs 0).getLsbD 48 = false →
      (dblAt bs 0).getLsbD 49 = true → blockOk lb = true → 256 < s1.freeSlots d → ∀ n, s1.lowestFree d = some n →
      ∃ (u : State) (e : TSlot) (h : Option (Nat × BitVec 32)) (l : List Nat),
        exec (.resume tag d1 d2) s = .next (u.completion tag 0 0) ∧ u.slot d n = some e ∧ e.st = .ready ∧ e.deps = [] ∧
        e.ctx = c ∧ e.lb = lb ∧ e.image = some (.mem d2 (some ((dblAt bs 2).extractLsb' 0 7)) h l) ∧
        ∀ m, m ≠ n → u.slot d m = s1.slot d m) ∧
    (d1.toNat < 32 → s.readImageAt false c d2.toNat = (s1, none) → exec (.resume tag d1 d2) s = .next (s1.completion tag 3 0)) ∧
    (d1.toNat < 20 → d2.toNat < 16 →
      let on := d2.getLsbD 3
      (s.islands.any (fun e => e.2.tstop) = true → exec (.power tag d1 d2) s = .next (s.completion tag 4 0)) ∧
      (s.islands.any (fun e => e.2.tstop) = false →
        let holds : Prop := ∃ p : PTile, p.toNat / 8 = d1.toNat ∧ ((s.tile p).live.isSome = true ∨ (s.tile p).sett.isSome = true)
        let feeds : Prop := ∃ i, i < 16 ∧ i / 8 + 16 = d1.toNat ∧ (s.island i).on = true
        let barred : Prop := d1.toNat < 16 ∧ holds ∨ feeds ∨ d1.toNat = 18 + s.primary.toNat
        (on = true ∨ ¬ barred → ∃ u, exec (.power tag d1 d2) s = .next u ∧
          u.island d1.toNat = { s.island d1.toNat with busy := true, ton := on, tpt := d2.setWidth 3 } ∧
          u.powWait = some (d1.setWidth 5, tag) ∧ ∀ k, k ≠ d1.toNat → u.island k = s.island k) ∧
        (on = false → barred → refused (.power tag d1 d2)))) ∧
    (d1.toNat % 64 = 0 →
      (s.reaches d1.toNat 3584 = false → exec (.summary tag d1) s = .next (s.completion tag 3 0)) ∧
      (s.reaches d1.toNat 3584 = true → ∃ u : State, exec (.summary tag d1) s = .next (u.completion tag 0 0) ∧
        u.sumseq = s.sumseq + 1 ∧
        (s.MemWf → memBytes u.mem d1.toNat 3584 = { s with sumseq := s.sumseq + 1 }.summaryBytes (s.sumseq + 1)))) ∧
    (let n := (d1.extractLsb' 0 9).toNat
     let d := d1.getLsbD 9
     let q := s.queue d n
     d1.toNat < 1024 → q.valid = true →
      (d2 = 1 → q.res = false →
        (((s.die d).queues.filter (fun e => e.2.valid && e.2.res)).length < 256 → ∃ u : State,
          exec (.qres tag d1 d2) s = .next (u.completion tag 0 0) ∧
          u.queue d n = { q with res := true, recs := [], refill := none, spill := decide (0 < q.rcount) }) ∧
        (256 ≤ ((s.die d).queues.filter (fun e => e.2.valid && e.2.res)).length → refused (.qres tag d1 d2))) ∧
      (d2 = 0 → q.res = true → q.rcap < q.rcount + q.recs.length → refused (.qres tag d1 d2)) ∧
      (d2 = 0 → q.res = true → q.rcount + q.recs.length ≤ q.rcap →
        let head := q.head - BitVec.ofNat 32 q.recs.length
        s.ringWrite d n head q.recs = .ok s1 → ∃ u : State, exec (.qres tag d1 d2) s = .next (u.completion tag 0 0) ∧ u.mem = s1.mem ∧
          u.queue d n = { q with res := false, recs := [], refill := none, head := head })) ∧
    (∀ p, d1.toNat < 32 → (s.tile p).live = some c → (s.tile p).records ≠ [] → exec (.ctxdown tag d1) s = .next s) ∧
    (d1.toNat < 32 → (∀ p, (s.tile p).live = some c → (s.tile p).records = []) →
      ∃ u : State, exec (.ctxdown tag d1) s = .next (u.completion tag 0 0) ∧
      (u.ctx c).valid = false ∧ (u.ctx c).tpos = 0 ∧ (u.ctx c).tlen = 0 ∧ (∀ e, (u.wvt c e).st = .free) ∧
      (∀ d n e, u.slot d n = some e → e.ctx ≠ c) ∧
      (∀ p, (s.tile p).live = some c → (u.tc p).task = none ∧ (u.tc p).xrecs = [] ∧ (u.tc p).mq = []) ∧
      (∀ k, k ≠ c → u.ctx k = s.ctx k)) ∧
    (d1.toNat < 2 →
      let d := d1.getLsbD 0
      let g := (s.die d).migr
      (d = s.primary ∨ (s.island (18 + d.toNat)).on = false → refused (.restart tag d1)) ∧
      (d ≠ s.primary → (s.island (18 + d.toNat)).on = true → ∃ u : State, exec (.restart tag d1) s = .next (u.completion tag 0 0) ∧ u.primary = s.primary ∧
        (s.bootsrc.getLsbD 0 = true → (u.die d).bootPhase = 1 ∧
          u.sent = s.sent ++ [.fwreq d (s.bootsrc.extractLsb' 8 18) 0]) ∧
        (s.bootsrc.getLsbD 0 = false → u.sent = s.sent ∧ (u.die d).bootPhase = 1 ∧ (u.die d).bootSrc = false)) ∧
      (1 ≤ g.phase ∧ g.phase ≤ 3 → refused (.migr tag d1)) ∧
      (g.phase = 0 ∨ 4 ≤ g.phase → ∃ u : State, exec (.migr tag d1) s = .next (u.completion tag 0 0) ∧
        (u.die d).migr = { g with phase := 1, round := 0, dirty := 0, counter := 0, todo := [], stage := 0 })) ∧
    (s.sensors.any (fun e => decide (100 < e.2.toNat)) = true → refused (.thclr tag)) ∧
    (s.sensors.any (fun e => decide (100 < e.2.toNat)) = false → ∃ u : State, exec (.thclr tag) s = .next (u.completion tag 0 0) ∧
      (∀ k, k < 16 → u.island k =
        if (s.island k).tstop then { s.island k with tstop := false, pt := 0, tpt := 0 } else s.island k) ∧
      ∀ k, 16 ≤ k → u.island k = s.island k)

/-! ### Stores of a hart (20_supervisor.md) -/

/-- R227, R254, R256, R279, R307, R310, R368–R374, R381, R383, R384: who may store where, and what the stores with an effect
of their own do; that a rewrite of a group entry ends the wait of a member that it drops as failed (R229, R237); and that a
store of a hart held in reset, or of a complex whose island is off (R385), is dropped. The model's choices are: that a store
of U level changes nothing but the list of messages (log 13), that a queue is created with no record on the die whatever ONDIE
is stored, and what a destroyed one keeps (log 35), that a group entry written while it is not VALID has no arrival, that a
rewrite leaves FAILED (log 31), and that TLEN is stored as 128 where the store is above (log 52). -/
def Obligations.WindowResult : Prop :=
  ∀ (s : State) (h : Hart) (which hi d : Bool) (c : Ctx) (e m : BitVec 6) (n : BitVec 9) (g : Byte) (off : BitVec 32)
    (v v1 v2 : Dbl),
    let named : List Instr := [.cctlWrite h c v, .tposWrite h c v, .wvtAllocate h c e v, .queueCreate h d n v, .mailboxBind h c m v,
      .sltailWrite h v, .groupEntryRewrite h d g v v1 v2]
    let machine : List Instr := [.cmdtailWrite h v, .mgmtkeyWrite h hi v]
    let fault : Out := .next (s.send (.accessFault h.die))
    ((s.die h.die).heldReset = true ∨ (s.island (18 + h.die.toNat)).on = false →
      (∀ i, i ∈ named ++ machine → exec i s = .next s) ∧ exec (.hbeatWrite h which v) s = .next s ∧
      exec (.claim h v) s = .next s ∧ exec (.registerWrite h off v) s = .next s) ∧
    ((s.die h.die).heldReset = false → (s.island (18 + h.die.toNat)).on = true →
    (h.priv = .u → (∀ i, i ∈ named ++ machine → exec i s = fault) ∧ exec (.hbeatWrite h which v) s = fault ∧
      exec (.claim h v) s = fault ∧ exec (.registerWrite h off v) s = fault) ∧
    (h.priv = .s → (∀ i, i ∈ machine → exec i s = fault) ∧ exec (.hbeatWrite h which v) s = fault ∧ exec (.claim h v) s = fault) ∧
    (h.priv = .m → h.die ≠ s.primary → ∀ i, i ∈ named ++ machine → exec i s = .next (s.modDie h.die (fun x =>
      { x with bootIgn := if x.bootIgn = 0xFFFF#16 then x.bootIgn else x.bootIgn + 1 }))) ∧
    (h.priv = .m → exec (.hbeatWrite h h.die v) s =
      .next (s.modDie h.die (fun x => { x with hbeat := v, hbAge := if x.hbeat = v then x.hbAge else 0 }))) ∧
    (h.priv = .m → h.die = s.primary → exec (.claim h v) s = .next s ∧ exec (.hbeatWrite h (!h.die) v) s = .next s) ∧
    (h.priv = .m → h.die ≠ s.primary →
      (v.getLsbD 1 = false ∨ (s.die s.primary).hbAge < 540000 → exec (.claim h v) s = .next s) ∧
      (v.getLsbD 1 = true → 540000 ≤ (s.die s.primary).hbAge → ∃ u, exec (.claim h v) s = .next u ∧ u.primary = h.die ∧
        u.epoch = s.epoch + 1 ∧ (u.die s.primary).heldReset = true ∧
        (u.die h.die).bootPhase = (if (s.die h.die).bootPhase = 5 then 4 else (s.die h.die).bootPhase))) ∧
    (h.priv = .m → h.die = s.primary →
      exec (.cmdtailWrite h v) s = .next { s with cmdtail := v.setWidth 32 } ∧
      (∃ u, exec (.mgmtkeyWrite h hi v) s = .next u ∧ u.mgmtset = true ∧ u.sumlast = 0 ∧ u.sumnack = 0 ∧
        u.mgmtkey.extractLsb' 0 64 = (if hi then s.mgmtkey.extractLsb' 0 64 else v) ∧
        u.mgmtkey.extractLsb' 64 64 = (if hi then v else s.mgmtkey.extractLsb' 64 64)) ∧
      exec (.registerWrite h 0x10 v) s = exec (.claim h v) s ∧ exec (.registerWrite h 0x18 v) s = exec (.hbeatWrite h false v) s ∧
      exec (.registerWrite h 0x20 v) s = exec (.hbeatWrite h true v) s ∧
      exec (.registerWrite h 0x58 v) s = exec (.cmdtailWrite h v) s ∧
      exec (.registerWrite h 0x20040 v) s = exec (.mgmtkeyWrite h false v) s ∧
      exec (.registerWrite h 0x40 v) s = .next { s with cmdbase := v &&& 0x000FFFFFFFFFFFC0#64 } ∧
      (s.cmdhead = s.cmdtail → exec (.registerWrite h 0x48 v) s = .next { s with cmdlog2 := v.setWidth 5 }) ∧
      (s.cmdhead ≠ s.cmdtail → exec (.registerWrite h 0x48 v) s = .next s) ∧
      (off.toNat % 8 ≠ 0 → exec (.registerWrite h off v) s = fault) ∧
      (∀ k : Fin 4, ∃ u, exec (.consumerIndexWrite h (BitVec.ofNat 32 (0x98 + 32 * k.val)) v) s = .next u ∧
        ((aget u.trapRings k.val).getD .reset).cons = v.setWidth 32)) ∧
    (h.priv ≠ .u → h.die = s.primary →
      (let tail : BitVec 32 := v.setWidth 32
       exec (.sltailWrite h v) s = .next { s with sltail := tail, tiles := s.tiles.map (fun e => (e.1, { e.2 with
         sreq := e.2.sreq.filter (fun i => s.slhead ≠ i && i - s.slhead < tail - s.slhead) })) }) ∧
      exec (.registerWrite h 0x340808 v) s = exec (.sltailWrite h v) s ∧
      exec (.registerWrite h (BitVec.ofNat 32 (0x100000 + 0x10000 * c.toNat)) v) s = exec (.cctlWrite h c v) s ∧
      exec (.registerWrite h (BitVec.ofNat 32 (0x100020 + 0x10000 * c.toNat)) v) s = exec (.tposWrite h c v) s ∧
      exec (.registerWrite h (BitVec.ofNat 32 (0x100400 + 0x10000 * c.toNat + 64 * m.toNat)) v) s = exec (.mailboxBind h c m v) s ∧
      exec (.registerWrite h (BitVec.ofNat 32 (0x101400 + 0x10000 * c.toNat + 32 * e.toNat)) v) s = exec (.wvtAllocate h c e v) s ∧
      exec (.registerWrite h (BitVec.ofNat 32 (0x300000 + 0x10000 * d.toNat + 128 * n.toNat)) v) s = exec (.queueCreate h d n v) s ∧
      (∃ u, exec (.cctlWrite h c v) s = .next u ∧ (u.ctx c).valid = v.getLsbD 0 ∧
        (u.ctx c).dbovf = ((s.ctx c).dbovf && !v.getLsbD 1) ∧
        (v.getLsbD 0 = true → (s.ctx c).valid = false → ∀ k p, k < 128 → s.mapTile c k = some p → (s.tile p).live = some c →
          (u.tc p).ts = [] ∧ (u.tc p).fails = 0) ∧
        (v.getLsbD 0 = false ∨ (s.ctx c).valid = true → u.tiles = s.tiles)) ∧
      (∃ u, exec (.tposWrite h c v) s = .next u ∧ (u.ctx c).tlen = min 128 (v.extractLsb' 8 8).toNat ∧
        (u.ctx c).tpos = min (min 128 (v.extractLsb' 8 8).toNat) (v.extractLsb' 0 8).toNat) ∧
      (let w := s.wvt c e.toNat
       ∃ u, exec (.wvtAllocate h c e v) s = .next u ∧
        (w.st ≠ .free → u.wvt c e.toNat = w) ∧
        (w.st = .free → (u.wvt c e.toNat).version = v.extractLsb' 32 32 ∧ (u.wvt c e.toNat).fmt = v.extractLsb' 12 4 ∧
          (u.wvt c e.toNat).scope = v.extractLsb' 9 3 ∧
          (v.extractLsb' 6 2 = 1#2 → (u.wvt c e.toNat).st = .building ∧ (u.wvt c e.toNat).landed = 0) ∧
          (v.extractLsb' 6 2 ≠ 1#2 → (u.wvt c e.toNat).st = .free))) ∧
      (let q := s.queue d n.toNat
       ∃ u, exec (.queueCreate h d n v) s = .next u ∧
        (q.valid = false → q.retired = false → v.getLsbD 15 = true → q.gen ≠ 0xFFFF#16 →
          (u.queue d n.toNat).valid = true ∧ (u.queue d n.toNat).gen = q.gen + 1 ∧ (u.queue d n.toNat).ctx = v.extractLsb' 37 5 ∧
          (u.queue d n.toNat).rlog2 = v.extractLsb' 32 5 ∧ (u.queue d n.toNat).work = v.getLsbD 14 ∧
          (u.queue d n.toNat).recs = [] ∧ (u.queue d n.toNat).key = q.key) ∧
        (q.valid = false → v.getLsbD 15 = false ∨ q.retired = true ∨ q.gen = 0xFFFF#16 → let u := u.queue d n.toNat
          u.valid = false ∧ u.gen = q.gen ∧ u.retired = (q.retired || v.getLsbD 15) ∧ u.ctx = v.extractLsb' 37 5 ∧
          u.rlog2 = v.extractLsb' 32 5 ∧ u.work = v.getLsbD 14 ∧ u.spill = v.getLsbD 12 ∧ u.faulted = v.getLsbD 11 ∧
          u.recs.length = (v.extractLsb' 0 6).toNat ∧ u.refill.isSome = v.getLsbD 10 ∧ u.weight = q.weight ∧ u.key = q.key) ∧
        (q.valid = true → v.getLsbD 15 = false → (u.queue d n.toNat).valid = false ∧ (u.queue d n.toNat).gen = q.gen) ∧
        (q.valid = true → v.getLsbD 15 = true → u.queue d n.toNat = { q with faulted := v.getLsbD 11 })) ∧
      (let b := s.mbox c m.toNat
       let fresh : Bool := v.getLsbD 0 && !b.bound
       ∃ u, exec (.mailboxBind h c m v) s = .next u ∧ u.mbox c m.toNat = { b with
        bound := v.getLsbD 0, slots := v.extractLsb' 8 4, lastseq := if fresh then 0 else b.lastseq
        nacks := if fresh then 0 else b.nacks }) ∧
      (∃ u, exec (.groupEntryRewrite h d g v v1 v2) s = .next u ∧
        let x := u.group d g.toNat
        x.valid = v.getLsbD 0 ∧ x.ctx = v.extractLsb' 1 5 ∧ x.scope = v.extractLsb' 6 3 ∧ x.members = v2 ++ v1 ∧
        let old := s.group d g.toNat
        let waits : Prop := ∃ m, m < 128 ∧ old.members.getLsbD m = true ∧ (old.arr.getLsbD m = true ∨ s.memberHeld d g.toNat m = true)
        (old.valid = false → x.arr = 0 ∧ u.tiles = s.tiles) ∧
        (old.valid = true → ¬ waits → x.arr = 0 ∧ x.phase = old.phase ∧ x.failed = old.failed ∧ u.tiles = s.tiles) ∧
        (old.valid = true → waits → (∀ m, s.memberHeld d g.toNat m = false) →
          x.arr = 0 ∧ x.phase = !old.phase ∧ x.failed = old.failed ∧ x.fail = true ∧
          ∀ m p k, m < 128 → old.members.getLsbD m = true → s.mapTile old.ctx m = some p → (s.tile p).live = some old.ctx →
            ((s.tc p).gslot k).names d g.toNat = true → ((u.tc p).gslot k).arr = false ∧ ((u.tc p).gslot k).held = false) ∧
        (old.valid = true → ∀ m p k y, m < 128 → old.members.getLsbD m = true →
          (v.getLsbD 0 = false ∨ v.extractLsb' 1 5 ≠ old.ctx ∨ (v2 ++ v1).getLsbD m = false) → s.mapTile old.ctx m = some p →
          (s.tile p).live = some old.ctx → aget (s.tc p).gslots k = some y → y.names d g.toNat = true → y.held = true →
          s.awaitedSlot p = some k → ((u.tc p).gslot k).arr = false ∧ ((u.tc p).gslot k).held = false ∧
            ((u.tc p).gslot k).fail = some true))))

/-! ### The machine as a whole -/

/-- R34, R36–R38, R50, R372: a step whose turn is an engine's walk runs the instruction that the parcels at its program
counter decode to, passes foreign text, or traps ILLEGAL with parcels that decode to none; at the instruction at which it
waits it runs the parcels that it has fetched; parcels are read little-endian; a turn may name an event, or serve the command
at CMDHEAD. A turn that needs the clocks of a tile which a thermal stop holds changes nothing (R385); which turns need them is
the model's choice (log 66). That a free value of the configuration says which agent acts is the model's choice (log 3). -/
def Obligations.StepRunsDecodedInstruction : Prop :=
  ∀ (s s1 s2 : State) (t : PTile) (e : Eng) (p : Parcel) (ps : List Parcel) (i : Instr) (rest : List Turn) (va : Pc) (pa : Nat),
    let s0 : State := { s with sched := rest, fresh := s.fresh + 1, cur := t }
    let pc := ((s.tc t).eng e).pc
    let has (u : State) : State := u.modTc t (fun c => c.modEng e (fun g => { g with fetched := p :: ps }))
    let runs (u : State) : Prop := (decode (p :: ps) = .ok i → step s = exec i (has u) ∧ u.cur = t) ∧
      ∀ x, decode (p :: ps) = .error x → step s = .next ((has u).takeTrap t e .fault ⟨0x01, parcelsVal (p :: ps)⟩)
    (s.sched = .walk t e :: rest → s0.mayWalk t e = true → (s.tc t).slipped e = false →
      (((s.tc t).eng e).fetched = [] → s0.fetchFirst t pc = .ok (s1, p) →
        (p0Eng p = engCode e → s1.fetchParcels t (p0Len p).toNat (pc + 2) = .ok (s2, ps) → runs s2) ∧
        (meetingOf e p = .foreign → step s = .next (s1.pass t e p))) ∧
      (((s.tc t).eng e).fetched = p :: ps → p0Eng p = engCode e → runs s0)) ∧
    ((s.tile t).text.find? (fun q => q.ctx = liveCtx (s.tile t) && q.va = va.toNat) = none →
      s.locate t (va.setWidth 64) 2 accX = .ok (s1, .mem pa) → (∀ k, k < 2 → s1.poison.contains (lineOf (pa + k)) = false) → ∃ s3,
      s.fetchParcel t va = .ok (s3, s1.phys (dieOf t) (pa + 1) ++ s1.phys (dieOf t) pa) ∧ s3.mem = s1.mem) ∧
    (s.sched = .event t i :: rest → isEvent i = true →
      let s4 : State := { s with sched := rest, fresh := s.fresh + 1 }
      ((s4.clockOf (.event t i)).any s4.frozen = false → step s = exec i s0) ∧
      ((s4.clockOf (.event t i)).any s4.frozen = true → step s = .next s4)) ∧
    (s.sched = .serve :: rest → s.cmdhead ≠ s.cmdtail → s.cplWait = none → s.powWait = none → s.settWait = none →
      let r := recOf (memBytes s.mem ((s.cmdbase.toNat % 2 ^ 52) / 64 * 64 + 64 * (s.cmdhead.toNat % 2 ^ s.cmdlog2.toNat)) 64)
      let s4 : State := { s with sched := rest, fresh := s.fresh + 1 }
      decodeCommand r = some i → exec i s4 = .next s1 → s1.cplprod ≠ s4.cplprod →
      step s = .next { s1 with cmdhead := s1.cmdhead + 1 }) ∧
    (s.sched = .ck :: rest → ∃ u, step s = .next u ∧ u.ns9 = s.ns9 + 5 ∧ u.mem = s.mem)

/-- The home memory keeps its canonical form: addresses rise, and no byte that it lists is 0 (the model's own form of memory,
log 2). That a byte never written reads as 0 is the model's choice (log 2). -/
def Obligations.MemWfKept : Prop :=
  ∀ s t : State, s.MemWf → step s = .next t → t.MemWf

/-- Every run goes on: no state of the package ends a run by a fault or a refusal of the model, for every fault of the spec is
a trap, a completion status, a NACK or a report. That an event whose condition fails changes nothing is the model's choice
(log 4). -/
def Obligations.EveryRunGoesOn : Prop :=
  ∀ s : State, s.Safe

/-- What reset leaves: TDELEG 0x5955555554 (R345), PDEAD 0x00100000 (R350), TPOS and TLEN 0 (R307), every island on at point 7
(R385), WVT entries FREE (R310), PRIMARY 0 and BOOTST 0 (R380, R381), no task in any Thicket, and a memory in canonical form.
Registers to which the spec gives no reset value stand at the model's choice (log 1). -/
def Obligations.ResetState : Prop :=
  let s := State.reset
  s.MemWf ∧
  (∀ c, (s.ctx c).tdeleg = 0x5955555554#64 ∧ (s.ctx c).pdead = 0x00100000#32 ∧ (s.ctx c).tpos = 0 ∧ (s.ctx c).tlen = 0 ∧
    ∀ e, (s.wvt c e).st = .free) ∧
  (∀ i, islandVal (s.island i) = 0x0FF#10) ∧ s.primaryVal = 0 ∧ s.bootst false = 0 ∧ s.bootst true = 0 ∧
  (∀ d n, s.slot d n = none) ∧ ∀ t, (s.tc t).task = none ∧ (s.tile t).live = none
end

