-- ==== Sys2Proof/Laws/State.lean ====
section
/-! SUPPORT. What each update of the package leaves as it was: one lemma per field per update, and what the unit that it changes
reads as afterwards. -/

namespace Sys2Proof.Machine

variable (s : State)

/-! ### Sparse arrays -/

@[simp] theorem aget_nil {α : Type} (k : Nat) : aget ([] : AMap α) k = none := rfl

@[simp] theorem aget_aset_same {α : Type} (m : AMap α) (k : Nat) (v : α) : aget (aset m k v) k = some v := by
  induction m with
  | nil => simp [aset, aget]
  | cons e r ih =>
    obtain ⟨i, w⟩ := e
    unfold aset
    split
    · simp [aget]
    · split
      · simp [aget]
      · rename_i h; simp [aget, ih]; omega

theorem aget_aset_other {α : Type} (m : AMap α) (k j : Nat) (v : α) (h : j ≠ k) : aget (aset m k v) j = aget m j := by
  induction m with
  | nil => simp [aset, aget]; omega
  | cons e r ih =>
    obtain ⟨i, w⟩ := e
    unfold aset
    split
    · simp [aget]; omega
    · split
      · rename_i h1 h2; subst h2; have h3 : ¬ k = j := by omega
        simp [aget, h3]
      · simp only [aget]; split
        · rfl
        · exact ih

/-- An array read after a write: the value written at its number, the old value at every other. -/
theorem aget_aset {α : Type} (m : AMap α) (k j : Nat) (v : α) :
    aget (aset m k v) j = if j = k then some v else aget m j := by
  by_cases h : j = k
  · subst h; simp
  · simp [h, aget_aset_other m k j v h]

theorem aget_adel_other {α : Type} (m : AMap α) (k j : Nat) (h : j ≠ k) : aget (adel m k) j = aget m j := by
  induction m with
  | nil => rfl
  | cons e r ih =>
    obtain ⟨i, w⟩ := e
    unfold adel
    split
    · rename_i h1; simp only [aget]; split
      · omega
      · rfl
    · simp only [aget]; split
      · rfl
      · exact ih

/-- Reading after a change to every value keeps the numbers. -/
theorem aget_map {α : Type} (m : AMap α) (f : α → α) (j : Nat) :
    aget (m.map (fun e => (e.1, f e.2))) j = (aget m j).map f := by
  induction m with
  | nil => rfl
  | cons e r ih =>
    obtain ⟨i, w⟩ := e
    simp only [List.map_cons, aget]; split
    · rfl
    · exact ih

/-! ### setTile -/

@[simp] theorem State.setTile_mem (t : PTile) (x : Tile) : (s.setTile t x).mem = s.mem := rfl
@[simp] theorem State.setTile_poison (t : PTile) (x : Tile) : (s.setTile t x).poison = s.poison := rfl
@[simp] theorem State.setTile_toReport (t : PTile) (x : Tile) : (s.setTile t x).toReport = s.toReport := rfl
@[simp] theorem State.setTile_hdm (t : PTile) (x : Tile) : (s.setTile t x).hdm = s.hdm := rfl
@[simp] theorem State.setTile_dir (t : PTile) (x : Tile) : (s.setTile t x).dir = s.dir := rfl
@[simp] theorem State.setTile_past (t : PTile) (x : Tile) : (s.setTile t x).past = s.past := rfl
@[simp] theorem State.setTile_die0 (t : PTile) (x : Tile) : (s.setTile t x).die0 = s.die0 := rfl
@[simp] theorem State.setTile_die1 (t : PTile) (x : Tile) : (s.setTile t x).die1 = s.die1 := rfl
@[simp] theorem State.setTile_ctxs (t : PTile) (x : Tile) : (s.setTile t x).ctxs = s.ctxs := rfl
@[simp] theorem State.setTile_ns9 (t : PTile) (x : Tile) : (s.setTile t x).ns9 = s.ns9 := rfl
@[simp] theorem State.setTile_bootsrc (t : PTile) (x : Tile) : (s.setTile t x).bootsrc = s.bootsrc := rfl
@[simp] theorem State.setTile_epoch (t : PTile) (x : Tile) : (s.setTile t x).epoch = s.epoch := rfl
@[simp] theorem State.setTile_primary (t : PTile) (x : Tile) : (s.setTile t x).primary = s.primary := rfl
@[simp] theorem State.setTile_cmdbase (t : PTile) (x : Tile) : (s.setTile t x).cmdbase = s.cmdbase := rfl
@[simp] theorem State.setTile_cmdlog2 (t : PTile) (x : Tile) : (s.setTile t x).cmdlog2 = s.cmdlog2 := rfl
@[simp] theorem State.setTile_cmdhead (t : PTile) (x : Tile) : (s.setTile t x).cmdhead = s.cmdhead := rfl
@[simp] theorem State.setTile_cmdtail (t : PTile) (x : Tile) : (s.setTile t x).cmdtail = s.cmdtail := rfl
@[simp] theorem State.setTile_cplbase (t : PTile) (x : Tile) : (s.setTile t x).cplbase = s.cplbase := rfl
@[simp] theorem State.setTile_cpllog2 (t : PTile) (x : Tile) : (s.setTile t x).cpllog2 = s.cpllog2 := rfl
@[simp] theorem State.setTile_cplprod (t : PTile) (x : Tile) : (s.setTile t x).cplprod = s.cplprod := rfl
@[simp] theorem State.setTile_cplcons (t : PTile) (x : Tile) : (s.setTile t x).cplcons = s.cplcons := rfl
@[simp] theorem State.setTile_cplWait (t : PTile) (x : Tile) : (s.setTile t x).cplWait = s.cplWait := rfl
@[simp] theorem State.setTile_powWait (t : PTile) (x : Tile) : (s.setTile t x).powWait = s.powWait := rfl
@[simp] theorem State.setTile_settWait (t : PTile) (x : Tile) : (s.setTile t x).settWait = s.settWait := rfl
@[simp] theorem State.setTile_trapRings (t : PTile) (x : Tile) : (s.setTile t x).trapRings = s.trapRings := rfl
@[simp] theorem State.setTile_recvRings (t : PTile) (x : Tile) : (s.setTile t x).recvRings = s.recvRings := rfl
@[simp] theorem State.setTile_sumseq (t : PTile) (x : Tile) : (s.setTile t x).sumseq = s.sumseq := rfl
@[simp] theorem State.setTile_sumlast (t : PTile) (x : Tile) : (s.setTile t x).sumlast = s.sumlast := rfl
@[simp] theorem State.setTile_sumnack (t : PTile) (x : Tile) : (s.setTile t x).sumnack = s.sumnack := rfl
@[simp] theorem State.setTile_islands (t : PTile) (x : Tile) : (s.setTile t x).islands = s.islands := rfl
@[simp] theorem State.setTile_therm (t : PTile) (x : Tile) : (s.setTile t x).therm = s.therm := rfl
@[simp] theorem State.setTile_sensors (t : PTile) (x : Tile) : (s.setTile t x).sensors = s.sensors := rfl
@[simp] theorem State.setTile_node (t : PTile) (x : Tile) : (s.setTile t x).node = s.node := rfl
@[simp] theorem State.setTile_links (t : PTile) (x : Tile) : (s.setTile t x).links = s.links := rfl
@[simp] theorem State.setTile_mgmtkey (t : PTile) (x : Tile) : (s.setTile t x).mgmtkey = s.mgmtkey := rfl
@[simp] theorem State.setTile_mgmtset (t : PTile) (x : Tile) : (s.setTile t x).mgmtset = s.mgmtset := rfl
@[simp] theorem State.setTile_slices (t : PTile) (x : Tile) : (s.setTile t x).slices = s.slices := rfl
@[simp] theorem State.setTile_slhead (t : PTile) (x : Tile) : (s.setTile t x).slhead = s.slhead := rfl
@[simp] theorem State.setTile_sltail (t : PTile) (x : Tile) : (s.setTile t x).sltail = s.sltail := rfl
@[simp] theorem State.setTile_slskip (t : PTile) (x : Tile) : (s.setTile t x).slskip = s.slskip := rfl
@[simp] theorem State.setTile_fwver (t : PTile) (x : Tile) : (s.setTile t x).fwver = s.fwver := rfl
@[simp] theorem State.setTile_credits (t : PTile) (x : Tile) : (s.setTile t x).credits = s.credits := rfl
@[simp] theorem State.setTile_flying (t : PTile) (x : Tile) : (s.setTile t x).flying = s.flying := rfl
@[simp] theorem State.setTile_arrivals (t : PTile) (x : Tile) : (s.setTile t x).arrivals = s.arrivals := rfl
@[simp] theorem State.setTile_redvs (t : PTile) (x : Tile) : (s.setTile t x).redvs = s.redvs := rfl
@[simp] theorem State.setTile_sent (t : PTile) (x : Tile) : (s.setTile t x).sent = s.sent := rfl
@[simp] theorem State.setTile_cur (t : PTile) (x : Tile) : (s.setTile t x).cur = s.cur := rfl
@[simp] theorem State.setTile_sched (t : PTile) (x : Tile) : (s.setTile t x).sched = s.sched := rfl
@[simp] theorem State.setTile_fresh (t : PTile) (x : Tile) : (s.setTile t x).fresh = s.fresh := rfl
@[simp] theorem State.setTile_did (t : PTile) (x : Tile) : (s.setTile t x).did = s.did := rfl

/-! ### modTile -/

@[simp] theorem State.modTile_mem (t : PTile) (f : Tile → Tile) : (s.modTile t f).mem = s.mem := rfl
@[simp] theorem State.modTile_poison (t : PTile) (f : Tile → Tile) : (s.modTile t f).poison = s.poison := rfl
@[simp] theorem State.modTile_toReport (t : PTile) (f : Tile → Tile) : (s.modTile t f).toReport = s.toReport := rfl
@[simp] theorem State.modTile_hdm (t : PTile) (f : Tile → Tile) : (s.modTile t f).hdm = s.hdm := rfl
@[simp] theorem State.modTile_dir (t : PTile) (f : Tile → Tile) : (s.modTile t f).dir = s.dir := rfl
@[simp] theorem State.modTile_past (t : PTile) (f : Tile → Tile) : (s.modTile t f).past = s.past := rfl
@[simp] theorem State.modTile_die0 (t : PTile) (f : Tile → Tile) : (s.modTile t f).die0 = s.die0 := rfl
@[simp] theorem State.modTile_die1 (t : PTile) (f : Tile → Tile) : (s.modTile t f).die1 = s.die1 := rfl
@[simp] theorem State.modTile_ctxs (t : PTile) (f : Tile → Tile) : (s.modTile t f).ctxs = s.ctxs := rfl
@[simp] theorem State.modTile_ns9 (t : PTile) (f : Tile → Tile) : (s.modTile t f).ns9 = s.ns9 := rfl
@[simp] theorem State.modTile_bootsrc (t : PTile) (f : Tile → Tile) : (s.modTile t f).bootsrc = s.bootsrc := rfl
@[simp] theorem State.modTile_epoch (t : PTile) (f : Tile → Tile) : (s.modTile t f).epoch = s.epoch := rfl
@[simp] theorem State.modTile_primary (t : PTile) (f : Tile → Tile) : (s.modTile t f).primary = s.primary := rfl
@[simp] theorem State.modTile_cmdbase (t : PTile) (f : Tile → Tile) : (s.modTile t f).cmdbase = s.cmdbase := rfl
@[simp] theorem State.modTile_cmdlog2 (t : PTile) (f : Tile → Tile) : (s.modTile t f).cmdlog2 = s.cmdlog2 := rfl
@[simp] theorem State.modTile_cmdhead (t : PTile) (f : Tile → Tile) : (s.modTile t f).cmdhead = s.cmdhead := rfl
@[simp] theorem State.modTile_cmdtail (t : PTile) (f : Tile → Tile) : (s.modTile t f).cmdtail = s.cmdtail := rfl
@[simp] theorem State.modTile_cplbase (t : PTile) (f : Tile → Tile) : (s.modTile t f).cplbase = s.cplbase := rfl
@[simp] theorem State.modTile_cpllog2 (t : PTile) (f : Tile → Tile) : (s.modTile t f).cpllog2 = s.cpllog2 := rfl
@[simp] theorem State.modTile_cplprod (t : PTile) (f : Tile → Tile) : (s.modTile t f).cplprod = s.cplprod := rfl
@[simp] theorem State.modTile_cplcons (t : PTile) (f : Tile → Tile) : (s.modTile t f).cplcons = s.cplcons := rfl
@[simp] theorem State.modTile_cplWait (t : PTile) (f : Tile → Tile) : (s.modTile t f).cplWait = s.cplWait := rfl
@[simp] theorem State.modTile_powWait (t : PTile) (f : Tile → Tile) : (s.modTile t f).powWait = s.powWait := rfl
@[simp] theorem State.modTile_settWait (t : PTile) (f : Tile → Tile) : (s.modTile t f).settWait = s.settWait := rfl
@[simp] theorem State.modTile_trapRings (t : PTile) (f : Tile → Tile) : (s.modTile t f).trapRings = s.trapRings := rfl
@[simp] theorem State.modTile_recvRings (t : PTile) (f : Tile → Tile) : (s.modTile t f).recvRings = s.recvRings := rfl
@[simp] theorem State.modTile_sumseq (t : PTile) (f : Tile → Tile) : (s.modTile t f).sumseq = s.sumseq := rfl
@[simp] theorem State.modTile_sumlast (t : PTile) (f : Tile → Tile) : (s.modTile t f).sumlast = s.sumlast := rfl
@[simp] theorem State.modTile_sumnack (t : PTile) (f : Tile → Tile) : (s.modTile t f).sumnack = s.sumnack := rfl
@[simp] theorem State.modTile_islands (t : PTile) (f : Tile → Tile) : (s.modTile t f).islands = s.islands := rfl
@[simp] theorem State.modTile_therm (t : PTile) (f : Tile → Tile) : (s.modTile t f).therm = s.therm := rfl
@[simp] theorem State.modTile_sensors (t : PTile) (f : Tile → Tile) : (s.modTile t f).sensors = s.sensors := rfl
@[simp] theorem State.modTile_node (t : PTile) (f : Tile → Tile) : (s.modTile t f).node = s.node := rfl
@[simp] theorem State.modTile_links (t : PTile) (f : Tile → Tile) : (s.modTile t f).links = s.links := rfl
@[simp] theorem State.modTile_mgmtkey (t : PTile) (f : Tile → Tile) : (s.modTile t f).mgmtkey = s.mgmtkey := rfl
@[simp] theorem State.modTile_mgmtset (t : PTile) (f : Tile → Tile) : (s.modTile t f).mgmtset = s.mgmtset := rfl
@[simp] theorem State.modTile_slices (t : PTile) (f : Tile → Tile) : (s.modTile t f).slices = s.slices := rfl
@[simp] theorem State.modTile_slhead (t : PTile) (f : Tile → Tile) : (s.modTile t f).slhead = s.slhead := rfl
@[simp] theorem State.modTile_sltail (t : PTile) (f : Tile → Tile) : (s.modTile t f).sltail = s.sltail := rfl
@[simp] theorem State.modTile_slskip (t : PTile) (f : Tile → Tile) : (s.modTile t f).slskip = s.slskip := rfl
@[simp] theorem State.modTile_fwver (t : PTile) (f : Tile → Tile) : (s.modTile t f).fwver = s.fwver := rfl
@[simp] theorem State.modTile_credits (t : PTile) (f : Tile → Tile) : (s.modTile t f).credits = s.credits := rfl
@[simp] theorem State.modTile_flying (t : PTile) (f : Tile → Tile) : (s.modTile t f).flying = s.flying := rfl
@[simp] theorem State.modTile_arrivals (t : PTile) (f : Tile → Tile) : (s.modTile t f).arrivals = s.arrivals := rfl
@[simp] theorem State.modTile_redvs (t : PTile) (f : Tile → Tile) : (s.modTile t f).redvs = s.redvs := rfl
@[simp] theorem State.modTile_sent (t : PTile) (f : Tile → Tile) : (s.modTile t f).sent = s.sent := rfl
@[simp] theorem State.modTile_cur (t : PTile) (f : Tile → Tile) : (s.modTile t f).cur = s.cur := rfl
@[simp] theorem State.modTile_sched (t : PTile) (f : Tile → Tile) : (s.modTile t f).sched = s.sched := rfl
@[simp] theorem State.modTile_fresh (t : PTile) (f : Tile → Tile) : (s.modTile t f).fresh = s.fresh := rfl
@[simp] theorem State.modTile_did (t : PTile) (f : Tile → Tile) : (s.modTile t f).did = s.did := rfl

/-! ### modTc -/

@[simp] theorem State.modTc_mem (t : PTile) (f : TCtx → TCtx) : (s.modTc t f).mem = s.mem := rfl
@[simp] theorem State.modTc_poison (t : PTile) (f : TCtx → TCtx) : (s.modTc t f).poison = s.poison := rfl
@[simp] theorem State.modTc_toReport (t : PTile) (f : TCtx → TCtx) : (s.modTc t f).toReport = s.toReport := rfl
@[simp] theorem State.modTc_hdm (t : PTile) (f : TCtx → TCtx) : (s.modTc t f).hdm = s.hdm := rfl
@[simp] theorem State.modTc_dir (t : PTile) (f : TCtx → TCtx) : (s.modTc t f).dir = s.dir := rfl
@[simp] theorem State.modTc_past (t : PTile) (f : TCtx → TCtx) : (s.modTc t f).past = s.past := rfl
@[simp] theorem State.modTc_die0 (t : PTile) (f : TCtx → TCtx) : (s.modTc t f).die0 = s.die0 := rfl
@[simp] theorem State.modTc_die1 (t : PTile) (f : TCtx → TCtx) : (s.modTc t f).die1 = s.die1 := rfl
@[simp] theorem State.modTc_ctxs (t : PTile) (f : TCtx → TCtx) : (s.modTc t f).ctxs = s.ctxs := rfl
@[simp] theorem State.modTc_ns9 (t : PTile) (f : TCtx → TCtx) : (s.modTc t f).ns9 = s.ns9 := rfl
@[simp] theorem State.modTc_bootsrc (t : PTile) (f : TCtx → TCtx) : (s.modTc t f).bootsrc = s.bootsrc := rfl
@[simp] theorem State.modTc_epoch (t : PTile) (f : TCtx → TCtx) : (s.modTc t f).epoch = s.epoch := rfl
@[simp] theorem State.modTc_primary (t : PTile) (f : TCtx → TCtx) : (s.modTc t f).primary = s.primary := rfl
@[simp] theorem State.modTc_cmdbase (t : PTile) (f : TCtx → TCtx) : (s.modTc t f).cmdbase = s.cmdbase := rfl
@[simp] theorem State.modTc_cmdlog2 (t : PTile) (f : TCtx → TCtx) : (s.modTc t f).cmdlog2 = s.cmdlog2 := rfl
@[simp] theorem State.modTc_cmdhead (t : PTile) (f : TCtx → TCtx) : (s.modTc t f).cmdhead = s.cmdhead := rfl
@[simp] theorem State.modTc_cmdtail (t : PTile) (f : TCtx → TCtx) : (s.modTc t f).cmdtail = s.cmdtail := rfl
@[simp] theorem State.modTc_cplbase (t : PTile) (f : TCtx → TCtx) : (s.modTc t f).cplbase = s.cplbase := rfl
@[simp] theorem State.modTc_cpllog2 (t : PTile) (f : TCtx → TCtx) : (s.modTc t f).cpllog2 = s.cpllog2 := rfl
@[simp] theorem State.modTc_cplprod (t : PTile) (f : TCtx → TCtx) : (s.modTc t f).cplprod = s.cplprod := rfl
@[simp] theorem State.modTc_cplcons (t : PTile) (f : TCtx → TCtx) : (s.modTc t f).cplcons = s.cplcons := rfl
@[simp] theorem State.modTc_cplWait (t : PTile) (f : TCtx → TCtx) : (s.modTc t f).cplWait = s.cplWait := rfl
@[simp] theorem State.modTc_powWait (t : PTile) (f : TCtx → TCtx) : (s.modTc t f).powWait = s.powWait := rfl
@[simp] theorem State.modTc_settWait (t : PTile) (f : TCtx → TCtx) : (s.modTc t f).settWait = s.settWait := rfl
@[simp] theorem State.modTc_trapRings (t : PTile) (f : TCtx → TCtx) : (s.modTc t f).trapRings = s.trapRings := rfl
@[simp] theorem State.modTc_recvRings (t : PTile) (f : TCtx → TCtx) : (s.modTc t f).recvRings = s.recvRings := rfl
@[simp] theorem State.modTc_sumseq (t : PTile) (f : TCtx → TCtx) : (s.modTc t f).sumseq = s.sumseq := rfl
@[simp] theorem State.modTc_sumlast (t : PTile) (f : TCtx → TCtx) : (s.modTc t f).sumlast = s.sumlast := rfl
@[simp] theorem State.modTc_sumnack (t : PTile) (f : TCtx → TCtx) : (s.modTc t f).sumnack = s.sumnack := rfl
@[simp] theorem State.modTc_islands (t : PTile) (f : TCtx → TCtx) : (s.modTc t f).islands = s.islands := rfl
@[simp] theorem State.modTc_therm (t : PTile) (f : TCtx → TCtx) : (s.modTc t f).therm = s.therm := rfl
@[simp] theorem State.modTc_sensors (t : PTile) (f : TCtx → TCtx) : (s.modTc t f).sensors = s.sensors := rfl
@[simp] theorem State.modTc_node (t : PTile) (f : TCtx → TCtx) : (s.modTc t f).node = s.node := rfl
@[simp] theorem State.modTc_links (t : PTile) (f : TCtx → TCtx) : (s.modTc t f).links = s.links := rfl
@[simp] theorem State.modTc_mgmtkey (t : PTile) (f : TCtx → TCtx) : (s.modTc t f).mgmtkey = s.mgmtkey := rfl
@[simp] theorem State.modTc_mgmtset (t : PTile) (f : TCtx → TCtx) : (s.modTc t f).mgmtset = s.mgmtset := rfl
@[simp] theorem State.modTc_slices (t : PTile) (f : TCtx → TCtx) : (s.modTc t f).slices = s.slices := rfl
@[simp] theorem State.modTc_slhead (t : PTile) (f : TCtx → TCtx) : (s.modTc t f).slhead = s.slhead := rfl
@[simp] theorem State.modTc_sltail (t : PTile) (f : TCtx → TCtx) : (s.modTc t f).sltail = s.sltail := rfl
@[simp] theorem State.modTc_slskip (t : PTile) (f : TCtx → TCtx) : (s.modTc t f).slskip = s.slskip := rfl
@[simp] theorem State.modTc_fwver (t : PTile) (f : TCtx → TCtx) : (s.modTc t f).fwver = s.fwver := rfl
@[simp] theorem State.modTc_credits (t : PTile) (f : TCtx → TCtx) : (s.modTc t f).credits = s.credits := rfl
@[simp] theorem State.modTc_flying (t : PTile) (f : TCtx → TCtx) : (s.modTc t f).flying = s.flying := rfl
@[simp] theorem State.modTc_arrivals (t : PTile) (f : TCtx → TCtx) : (s.modTc t f).arrivals = s.arrivals := rfl
@[simp] theorem State.modTc_redvs (t : PTile) (f : TCtx → TCtx) : (s.modTc t f).redvs = s.redvs := rfl
@[simp] theorem State.modTc_sent (t : PTile) (f : TCtx → TCtx) : (s.modTc t f).sent = s.sent := rfl
@[simp] theorem State.modTc_cur (t : PTile) (f : TCtx → TCtx) : (s.modTc t f).cur = s.cur := rfl
@[simp] theorem State.modTc_sched (t : PTile) (f : TCtx → TCtx) : (s.modTc t f).sched = s.sched := rfl
@[simp] theorem State.modTc_fresh (t : PTile) (f : TCtx → TCtx) : (s.modTc t f).fresh = s.fresh := rfl
@[simp] theorem State.modTc_did (t : PTile) (f : TCtx → TCtx) : (s.modTc t f).did = s.did := rfl

/-! ### modCtx -/

@[simp] theorem State.modCtx_mem (c : Ctx) (f : Context → Context) : (s.modCtx c f).mem = s.mem := rfl
@[simp] theorem State.modCtx_poison (c : Ctx) (f : Context → Context) : (s.modCtx c f).poison = s.poison := rfl
@[simp] theorem State.modCtx_toReport (c : Ctx) (f : Context → Context) : (s.modCtx c f).toReport = s.toReport := rfl
@[simp] theorem State.modCtx_hdm (c : Ctx) (f : Context → Context) : (s.modCtx c f).hdm = s.hdm := rfl
@[simp] theorem State.modCtx_dir (c : Ctx) (f : Context → Context) : (s.modCtx c f).dir = s.dir := rfl
@[simp] theorem State.modCtx_past (c : Ctx) (f : Context → Context) : (s.modCtx c f).past = s.past := rfl
@[simp] theorem State.modCtx_tiles (c : Ctx) (f : Context → Context) : (s.modCtx c f).tiles = s.tiles := rfl
@[simp] theorem State.modCtx_die0 (c : Ctx) (f : Context → Context) : (s.modCtx c f).die0 = s.die0 := rfl
@[simp] theorem State.modCtx_die1 (c : Ctx) (f : Context → Context) : (s.modCtx c f).die1 = s.die1 := rfl
@[simp] theorem State.modCtx_ns9 (c : Ctx) (f : Context → Context) : (s.modCtx c f).ns9 = s.ns9 := rfl
@[simp] theorem State.modCtx_bootsrc (c : Ctx) (f : Context → Context) : (s.modCtx c f).bootsrc = s.bootsrc := rfl
@[simp] theorem State.modCtx_epoch (c : Ctx) (f : Context → Context) : (s.modCtx c f).epoch = s.epoch := rfl
@[simp] theorem State.modCtx_primary (c : Ctx) (f : Context → Context) : (s.modCtx c f).primary = s.primary := rfl
@[simp] theorem State.modCtx_cmdbase (c : Ctx) (f : Context → Context) : (s.modCtx c f).cmdbase = s.cmdbase := rfl
@[simp] theorem State.modCtx_cmdlog2 (c : Ctx) (f : Context → Context) : (s.modCtx c f).cmdlog2 = s.cmdlog2 := rfl
@[simp] theorem State.modCtx_cmdhead (c : Ctx) (f : Context → Context) : (s.modCtx c f).cmdhead = s.cmdhead := rfl
@[simp] theorem State.modCtx_cmdtail (c : Ctx) (f : Context → Context) : (s.modCtx c f).cmdtail = s.cmdtail := rfl
@[simp] theorem State.modCtx_cplbase (c : Ctx) (f : Context → Context) : (s.modCtx c f).cplbase = s.cplbase := rfl
@[simp] theorem State.modCtx_cpllog2 (c : Ctx) (f : Context → Context) : (s.modCtx c f).cpllog2 = s.cpllog2 := rfl
@[simp] theorem State.modCtx_cplprod (c : Ctx) (f : Context → Context) : (s.modCtx c f).cplprod = s.cplprod := rfl
@[simp] theorem State.modCtx_cplcons (c : Ctx) (f : Context → Context) : (s.modCtx c f).cplcons = s.cplcons := rfl
@[simp] theorem State.modCtx_cplWait (c : Ctx) (f : Context → Context) : (s.modCtx c f).cplWait = s.cplWait := rfl
@[simp] theorem State.modCtx_powWait (c : Ctx) (f : Context → Context) : (s.modCtx c f).powWait = s.powWait := rfl
@[simp] theorem State.modCtx_settWait (c : Ctx) (f : Context → Context) : (s.modCtx c f).settWait = s.settWait := rfl
@[simp] theorem State.modCtx_trapRings (c : Ctx) (f : Context → Context) : (s.modCtx c f).trapRings = s.trapRings := rfl
@[simp] theorem State.modCtx_recvRings (c : Ctx) (f : Context → Context) : (s.modCtx c f).recvRings = s.recvRings := rfl
@[simp] theorem State.modCtx_sumseq (c : Ctx) (f : Context → Context) : (s.modCtx c f).sumseq = s.sumseq := rfl
@[simp] theorem State.modCtx_sumlast (c : Ctx) (f : Context → Context) : (s.modCtx c f).sumlast = s.sumlast := rfl
@[simp] theorem State.modCtx_sumnack (c : Ctx) (f : Context → Context) : (s.modCtx c f).sumnack = s.sumnack := rfl
@[simp] theorem State.modCtx_islands (c : Ctx) (f : Context → Context) : (s.modCtx c f).islands = s.islands := rfl
@[simp] theorem State.modCtx_therm (c : Ctx) (f : Context → Context) : (s.modCtx c f).therm = s.therm := rfl
@[simp] theorem State.modCtx_sensors (c : Ctx) (f : Context → Context) : (s.modCtx c f).sensors = s.sensors := rfl
@[simp] theorem State.modCtx_node (c : Ctx) (f : Context → Context) : (s.modCtx c f).node = s.node := rfl
@[simp] theorem State.modCtx_links (c : Ctx) (f : Context → Context) : (s.modCtx c f).links = s.links := rfl
@[simp] theorem State.modCtx_mgmtkey (c : Ctx) (f : Context → Context) : (s.modCtx c f).mgmtkey = s.mgmtkey := rfl
@[simp] theorem State.modCtx_mgmtset (c : Ctx) (f : Context → Context) : (s.modCtx c f).mgmtset = s.mgmtset := rfl
@[simp] theorem State.modCtx_slices (c : Ctx) (f : Context → Context) : (s.modCtx c f).slices = s.slices := rfl
@[simp] theorem State.modCtx_slhead (c : Ctx) (f : Context → Context) : (s.modCtx c f).slhead = s.slhead := rfl
@[simp] theorem State.modCtx_sltail (c : Ctx) (f : Context → Context) : (s.modCtx c f).sltail = s.sltail := rfl
@[simp] theorem State.modCtx_slskip (c : Ctx) (f : Context → Context) : (s.modCtx c f).slskip = s.slskip := rfl
@[simp] theorem State.modCtx_fwver (c : Ctx) (f : Context → Context) : (s.modCtx c f).fwver = s.fwver := rfl
@[simp] theorem State.modCtx_credits (c : Ctx) (f : Context → Context) : (s.modCtx c f).credits = s.credits := rfl
@[simp] theorem State.modCtx_flying (c : Ctx) (f : Context → Context) : (s.modCtx c f).flying = s.flying := rfl
@[simp] theorem State.modCtx_arrivals (c : Ctx) (f : Context → Context) : (s.modCtx c f).arrivals = s.arrivals := rfl
@[simp] theorem State.modCtx_redvs (c : Ctx) (f : Context → Context) : (s.modCtx c f).redvs = s.redvs := rfl
@[simp] theorem State.modCtx_sent (c : Ctx) (f : Context → Context) : (s.modCtx c f).sent = s.sent := rfl
@[simp] theorem State.modCtx_cur (c : Ctx) (f : Context → Context) : (s.modCtx c f).cur = s.cur := rfl
@[simp] theorem State.modCtx_sched (c : Ctx) (f : Context → Context) : (s.modCtx c f).sched = s.sched := rfl
@[simp] theorem State.modCtx_fresh (c : Ctx) (f : Context → Context) : (s.modCtx c f).fresh = s.fresh := rfl
@[simp] theorem State.modCtx_did (c : Ctx) (f : Context → Context) : (s.modCtx c f).did = s.did := rfl

/-! ### modMbox -/

@[simp] theorem State.modMbox_mem (c : Ctx) (m : Nat) (f : Mailbox → Mailbox) : (s.modMbox c m f).mem = s.mem := rfl
@[simp] theorem State.modMbox_poison (c : Ctx) (m : Nat) (f : Mailbox → Mailbox) : (s.modMbox c m f).poison = s.poison := rfl
@[simp] theorem State.modMbox_toReport (c : Ctx) (m : Nat) (f : Mailbox → Mailbox) : (s.modMbox c m f).toReport = s.toReport := rfl
@[simp] theorem State.modMbox_hdm (c : Ctx) (m : Nat) (f : Mailbox → Mailbox) : (s.modMbox c m f).hdm = s.hdm := rfl
@[simp] theorem State.modMbox_dir (c : Ctx) (m : Nat) (f : Mailbox → Mailbox) : (s.modMbox c m f).dir = s.dir := rfl
@[simp] theorem State.modMbox_past (c : Ctx) (m : Nat) (f : Mailbox → Mailbox) : (s.modMbox c m f).past = s.past := rfl
@[simp] theorem State.modMbox_tiles (c : Ctx) (m : Nat) (f : Mailbox → Mailbox) : (s.modMbox c m f).tiles = s.tiles := rfl
@[simp] theorem State.modMbox_die0 (c : Ctx) (m : Nat) (f : Mailbox → Mailbox) : (s.modMbox c m f).die0 = s.die0 := rfl
@[simp] theorem State.modMbox_die1 (c : Ctx) (m : Nat) (f : Mailbox → Mailbox) : (s.modMbox c m f).die1 = s.die1 := rfl
@[simp] theorem State.modMbox_ns9 (c : Ctx) (m : Nat) (f : Mailbox → Mailbox) : (s.modMbox c m f).ns9 = s.ns9 := rfl
@[simp] theorem State.modMbox_bootsrc (c : Ctx) (m : Nat) (f : Mailbox → Mailbox) : (s.modMbox c m f).bootsrc = s.bootsrc := rfl
@[simp] theorem State.modMbox_epoch (c : Ctx) (m : Nat) (f : Mailbox → Mailbox) : (s.modMbox c m f).epoch = s.epoch := rfl
@[simp] theorem State.modMbox_primary (c : Ctx) (m : Nat) (f : Mailbox → Mailbox) : (s.modMbox c m f).primary = s.primary := rfl
@[simp] theorem State.modMbox_cmdbase (c : Ctx) (m : Nat) (f : Mailbox → Mailbox) : (s.modMbox c m f).cmdbase = s.cmdbase := rfl
@[simp] theorem State.modMbox_cmdlog2 (c : Ctx) (m : Nat) (f : Mailbox → Mailbox) : (s.modMbox c m f).cmdlog2 = s.cmdlog2 := rfl
@[simp] theorem State.modMbox_cmdhead (c : Ctx) (m : Nat) (f : Mailbox → Mailbox) : (s.modMbox c m f).cmdhead = s.cmdhead := rfl
@[simp] theorem State.modMbox_cmdtail (c : Ctx) (m : Nat) (f : Mailbox → Mailbox) : (s.modMbox c m f).cmdtail = s.cmdtail := rfl
@[simp] theorem State.modMbox_cplbase (c : Ctx) (m : Nat) (f : Mailbox → Mailbox) : (s.modMbox c m f).cplbase = s.cplbase := rfl
@[simp] theorem State.modMbox_cpllog2 (c : Ctx) (m : Nat) (f : Mailbox → Mailbox) : (s.modMbox c m f).cpllog2 = s.cpllog2 := rfl
@[simp] theorem State.modMbox_cplprod (c : Ctx) (m : Nat) (f : Mailbox → Mailbox) : (s.modMbox c m f).cplprod = s.cplprod := rfl
@[simp] theorem State.modMbox_cplcons (c : Ctx) (m : Nat) (f : Mailbox → Mailbox) : (s.modMbox c m f).cplcons = s.cplcons := rfl
@[simp] theorem State.modMbox_cplWait (c : Ctx) (m : Nat) (f : Mailbox → Mailbox) : (s.modMbox c m f).cplWait = s.cplWait := rfl
@[simp] theorem State.modMbox_powWait (c : Ctx) (m : Nat) (f : Mailbox → Mailbox) : (s.modMbox c m f).powWait = s.powWait := rfl
@[simp] theorem State.modMbox_settWait (c : Ctx) (m : Nat) (f : Mailbox → Mailbox) : (s.modMbox c m f).settWait = s.settWait := rfl
@[simp] theorem State.modMbox_trapRings (c : Ctx) (m : Nat) (f : Mailbox → Mailbox) : (s.modMbox c m f).trapRings = s.trapRings := rfl
@[simp] theorem State.modMbox_recvRings (c : Ctx) (m : Nat) (f : Mailbox → Mailbox) : (s.modMbox c m f).recvRings = s.recvRings := rfl
@[simp] theorem State.modMbox_sumseq (c : Ctx) (m : Nat) (f : Mailbox → Mailbox) : (s.modMbox c m f).sumseq = s.sumseq := rfl
@[simp] theorem State.modMbox_sumlast (c : Ctx) (m : Nat) (f : Mailbox → Mailbox) : (s.modMbox c m f).sumlast = s.sumlast := rfl
@[simp] theorem State.modMbox_sumnack (c : Ctx) (m : Nat) (f : Mailbox → Mailbox) : (s.modMbox c m f).sumnack = s.sumnack := rfl
@[simp] theorem State.modMbox_islands (c : Ctx) (m : Nat) (f : Mailbox → Mailbox) : (s.modMbox c m f).islands = s.islands := rfl
@[simp] theorem State.modMbox_therm (c : Ctx) (m : Nat) (f : Mailbox → Mailbox) : (s.modMbox c m f).therm = s.therm := rfl
@[simp] theorem State.modMbox_sensors (c : Ctx) (m : Nat) (f : Mailbox → Mailbox) : (s.modMbox c m f).sensors = s.sensors := rfl
@[simp] theorem State.modMbox_node (c : Ctx) (m : Nat) (f : Mailbox → Mailbox) : (s.modMbox c m f).node = s.node := rfl
@[simp] theorem State.modMbox_links (c : Ctx) (m : Nat) (f : Mailbox → Mailbox) : (s.modMbox c m f).links = s.links := rfl
@[simp] theorem State.modMbox_mgmtkey (c : Ctx) (m : Nat) (f : Mailbox → Mailbox) : (s.modMbox c m f).mgmtkey = s.mgmtkey := rfl
@[simp] theorem State.modMbox_mgmtset (c : Ctx) (m : Nat) (f : Mailbox → Mailbox) : (s.modMbox c m f).mgmtset = s.mgmtset := rfl
@[simp] theorem State.modMbox_slices (c : Ctx) (m : Nat) (f : Mailbox → Mailbox) : (s.modMbox c m f).slices = s.slices := rfl
@[simp] theorem State.modMbox_slhead (c : Ctx) (m : Nat) (f : Mailbox → Mailbox) : (s.modMbox c m f).slhead = s.slhead := rfl
@[simp] theorem State.modMbox_sltail (c : Ctx) (m : Nat) (f : Mailbox → Mailbox) : (s.modMbox c m f).sltail = s.sltail := rfl
@[simp] theorem State.modMbox_slskip (c : Ctx) (m : Nat) (f : Mailbox → Mailbox) : (s.modMbox c m f).slskip = s.slskip := rfl
@[simp] theorem State.modMbox_fwver (c : Ctx) (m : Nat) (f : Mailbox → Mailbox) : (s.modMbox c m f).fwver = s.fwver := rfl
@[simp] theorem State.modMbox_credits (c : Ctx) (m : Nat) (f : Mailbox → Mailbox) : (s.modMbox c m f).credits = s.credits := rfl
@[simp] theorem State.modMbox_flying (c : Ctx) (m : Nat) (f : Mailbox → Mailbox) : (s.modMbox c m f).flying = s.flying := rfl
@[simp] theorem State.modMbox_arrivals (c : Ctx) (m : Nat) (f : Mailbox → Mailbox) : (s.modMbox c m f).arrivals = s.arrivals := rfl
@[simp] theorem State.modMbox_redvs (c : Ctx) (m : Nat) (f : Mailbox → Mailbox) : (s.modMbox c m f).redvs = s.redvs := rfl
@[simp] theorem State.modMbox_sent (c : Ctx) (m : Nat) (f : Mailbox → Mailbox) : (s.modMbox c m f).sent = s.sent := rfl
@[simp] theorem State.modMbox_cur (c : Ctx) (m : Nat) (f : Mailbox → Mailbox) : (s.modMbox c m f).cur = s.cur := rfl
@[simp] theorem State.modMbox_sched (c : Ctx) (m : Nat) (f : Mailbox → Mailbox) : (s.modMbox c m f).sched = s.sched := rfl
@[simp] theorem State.modMbox_fresh (c : Ctx) (m : Nat) (f : Mailbox → Mailbox) : (s.modMbox c m f).fresh = s.fresh := rfl
@[simp] theorem State.modMbox_did (c : Ctx) (m : Nat) (f : Mailbox → Mailbox) : (s.modMbox c m f).did = s.did := rfl

/-! ### modWvt -/

@[simp] theorem State.modWvt_mem (c : Ctx) (e : Nat) (f : Wvt → Wvt) : (s.modWvt c e f).mem = s.mem := rfl
@[simp] theorem State.modWvt_poison (c : Ctx) (e : Nat) (f : Wvt → Wvt) : (s.modWvt c e f).poison = s.poison := rfl
@[simp] theorem State.modWvt_toReport (c : Ctx) (e : Nat) (f : Wvt → Wvt) : (s.modWvt c e f).toReport = s.toReport := rfl
@[simp] theorem State.modWvt_hdm (c : Ctx) (e : Nat) (f : Wvt → Wvt) : (s.modWvt c e f).hdm = s.hdm := rfl
@[simp] theorem State.modWvt_dir (c : Ctx) (e : Nat) (f : Wvt → Wvt) : (s.modWvt c e f).dir = s.dir := rfl
@[simp] theorem State.modWvt_past (c : Ctx) (e : Nat) (f : Wvt → Wvt) : (s.modWvt c e f).past = s.past := rfl
@[simp] theorem State.modWvt_tiles (c : Ctx) (e : Nat) (f : Wvt → Wvt) : (s.modWvt c e f).tiles = s.tiles := rfl
@[simp] theorem State.modWvt_die0 (c : Ctx) (e : Nat) (f : Wvt → Wvt) : (s.modWvt c e f).die0 = s.die0 := rfl
@[simp] theorem State.modWvt_die1 (c : Ctx) (e : Nat) (f : Wvt → Wvt) : (s.modWvt c e f).die1 = s.die1 := rfl
@[simp] theorem State.modWvt_ns9 (c : Ctx) (e : Nat) (f : Wvt → Wvt) : (s.modWvt c e f).ns9 = s.ns9 := rfl
@[simp] theorem State.modWvt_bootsrc (c : Ctx) (e : Nat) (f : Wvt → Wvt) : (s.modWvt c e f).bootsrc = s.bootsrc := rfl
@[simp] theorem State.modWvt_epoch (c : Ctx) (e : Nat) (f : Wvt → Wvt) : (s.modWvt c e f).epoch = s.epoch := rfl
@[simp] theorem State.modWvt_primary (c : Ctx) (e : Nat) (f : Wvt → Wvt) : (s.modWvt c e f).primary = s.primary := rfl
@[simp] theorem State.modWvt_cmdbase (c : Ctx) (e : Nat) (f : Wvt → Wvt) : (s.modWvt c e f).cmdbase = s.cmdbase := rfl
@[simp] theorem State.modWvt_cmdlog2 (c : Ctx) (e : Nat) (f : Wvt → Wvt) : (s.modWvt c e f).cmdlog2 = s.cmdlog2 := rfl
@[simp] theorem State.modWvt_cmdhead (c : Ctx) (e : Nat) (f : Wvt → Wvt) : (s.modWvt c e f).cmdhead = s.cmdhead := rfl
@[simp] theorem State.modWvt_cmdtail (c : Ctx) (e : Nat) (f : Wvt → Wvt) : (s.modWvt c e f).cmdtail = s.cmdtail := rfl
@[simp] theorem State.modWvt_cplbase (c : Ctx) (e : Nat) (f : Wvt → Wvt) : (s.modWvt c e f).cplbase = s.cplbase := rfl
@[simp] theorem State.modWvt_cpllog2 (c : Ctx) (e : Nat) (f : Wvt → Wvt) : (s.modWvt c e f).cpllog2 = s.cpllog2 := rfl
@[simp] theorem State.modWvt_cplprod (c : Ctx) (e : Nat) (f : Wvt → Wvt) : (s.modWvt c e f).cplprod = s.cplprod := rfl
@[simp] theorem State.modWvt_cplcons (c : Ctx) (e : Nat) (f : Wvt → Wvt) : (s.modWvt c e f).cplcons = s.cplcons := rfl
@[simp] theorem State.modWvt_cplWait (c : Ctx) (e : Nat) (f : Wvt → Wvt) : (s.modWvt c e f).cplWait = s.cplWait := rfl
@[simp] theorem State.modWvt_powWait (c : Ctx) (e : Nat) (f : Wvt → Wvt) : (s.modWvt c e f).powWait = s.powWait := rfl
@[simp] theorem State.modWvt_settWait (c : Ctx) (e : Nat) (f : Wvt → Wvt) : (s.modWvt c e f).settWait = s.settWait := rfl
@[simp] theorem State.modWvt_trapRings (c : Ctx) (e : Nat) (f : Wvt → Wvt) : (s.modWvt c e f).trapRings = s.trapRings := rfl
@[simp] theorem State.modWvt_recvRings (c : Ctx) (e : Nat) (f : Wvt → Wvt) : (s.modWvt c e f).recvRings = s.recvRings := rfl
@[simp] theorem State.modWvt_sumseq (c : Ctx) (e : Nat) (f : Wvt → Wvt) : (s.modWvt c e f).sumseq = s.sumseq := rfl
@[simp] theorem State.modWvt_sumlast (c : Ctx) (e : Nat) (f : Wvt → Wvt) : (s.modWvt c e f).sumlast = s.sumlast := rfl
@[simp] theorem State.modWvt_sumnack (c : Ctx) (e : Nat) (f : Wvt → Wvt) : (s.modWvt c e f).sumnack = s.sumnack := rfl
@[simp] theorem State.modWvt_islands (c : Ctx) (e : Nat) (f : Wvt → Wvt) : (s.modWvt c e f).islands = s.islands := rfl
@[simp] theorem State.modWvt_therm (c : Ctx) (e : Nat) (f : Wvt → Wvt) : (s.modWvt c e f).therm = s.therm := rfl
@[simp] theorem State.modWvt_sensors (c : Ctx) (e : Nat) (f : Wvt → Wvt) : (s.modWvt c e f).sensors = s.sensors := rfl
@[simp] theorem State.modWvt_node (c : Ctx) (e : Nat) (f : Wvt → Wvt) : (s.modWvt c e f).node = s.node := rfl
@[simp] theorem State.modWvt_links (c : Ctx) (e : Nat) (f : Wvt → Wvt) : (s.modWvt c e f).links = s.links := rfl
@[simp] theorem State.modWvt_mgmtkey (c : Ctx) (e : Nat) (f : Wvt → Wvt) : (s.modWvt c e f).mgmtkey = s.mgmtkey := rfl
@[simp] theorem State.modWvt_mgmtset (c : Ctx) (e : Nat) (f : Wvt → Wvt) : (s.modWvt c e f).mgmtset = s.mgmtset := rfl
@[simp] theorem State.modWvt_slices (c : Ctx) (e : Nat) (f : Wvt → Wvt) : (s.modWvt c e f).slices = s.slices := rfl
@[simp] theorem State.modWvt_slhead (c : Ctx) (e : Nat) (f : Wvt → Wvt) : (s.modWvt c e f).slhead = s.slhead := rfl
@[simp] theorem State.modWvt_sltail (c : Ctx) (e : Nat) (f : Wvt → Wvt) : (s.modWvt c e f).sltail = s.sltail := rfl
@[simp] theorem State.modWvt_slskip (c : Ctx) (e : Nat) (f : Wvt → Wvt) : (s.modWvt c e f).slskip = s.slskip := rfl
@[simp] theorem State.modWvt_fwver (c : Ctx) (e : Nat) (f : Wvt → Wvt) : (s.modWvt c e f).fwver = s.fwver := rfl
@[simp] theorem State.modWvt_credits (c : Ctx) (e : Nat) (f : Wvt → Wvt) : (s.modWvt c e f).credits = s.credits := rfl
@[simp] theorem State.modWvt_flying (c : Ctx) (e : Nat) (f : Wvt → Wvt) : (s.modWvt c e f).flying = s.flying := rfl
@[simp] theorem State.modWvt_arrivals (c : Ctx) (e : Nat) (f : Wvt → Wvt) : (s.modWvt c e f).arrivals = s.arrivals := rfl
@[simp] theorem State.modWvt_redvs (c : Ctx) (e : Nat) (f : Wvt → Wvt) : (s.modWvt c e f).redvs = s.redvs := rfl
@[simp] theorem State.modWvt_sent (c : Ctx) (e : Nat) (f : Wvt → Wvt) : (s.modWvt c e f).sent = s.sent := rfl
@[simp] theorem State.modWvt_cur (c : Ctx) (e : Nat) (f : Wvt → Wvt) : (s.modWvt c e f).cur = s.cur := rfl
@[simp] theorem State.modWvt_sched (c : Ctx) (e : Nat) (f : Wvt → Wvt) : (s.modWvt c e f).sched = s.sched := rfl
@[simp] theorem State.modWvt_fresh (c : Ctx) (e : Nat) (f : Wvt → Wvt) : (s.modWvt c e f).fresh = s.fresh := rfl
@[simp] theorem State.modWvt_did (c : Ctx) (e : Nat) (f : Wvt → Wvt) : (s.modWvt c e f).did = s.did := rfl

/-! ### modDie -/

@[simp] theorem State.modDie_mem (d : Bool) (f : Die → Die) : (s.modDie d f).mem = s.mem := by cases d <;> rfl
@[simp] theorem State.modDie_poison (d : Bool) (f : Die → Die) : (s.modDie d f).poison = s.poison := by cases d <;> rfl
@[simp] theorem State.modDie_toReport (d : Bool) (f : Die → Die) : (s.modDie d f).toReport = s.toReport := by cases d <;> rfl
@[simp] theorem State.modDie_hdm (d : Bool) (f : Die → Die) : (s.modDie d f).hdm = s.hdm := by cases d <;> rfl
@[simp] theorem State.modDie_dir (d : Bool) (f : Die → Die) : (s.modDie d f).dir = s.dir := by cases d <;> rfl
@[simp] theorem State.modDie_past (d : Bool) (f : Die → Die) : (s.modDie d f).past = s.past := by cases d <;> rfl
@[simp] theorem State.modDie_tiles (d : Bool) (f : Die → Die) : (s.modDie d f).tiles = s.tiles := by cases d <;> rfl
@[simp] theorem State.modDie_ctxs (d : Bool) (f : Die → Die) : (s.modDie d f).ctxs = s.ctxs := by cases d <;> rfl
@[simp] theorem State.modDie_ns9 (d : Bool) (f : Die → Die) : (s.modDie d f).ns9 = s.ns9 := by cases d <;> rfl
@[simp] theorem State.modDie_bootsrc (d : Bool) (f : Die → Die) : (s.modDie d f).bootsrc = s.bootsrc := by cases d <;> rfl
@[simp] theorem State.modDie_epoch (d : Bool) (f : Die → Die) : (s.modDie d f).epoch = s.epoch := by cases d <;> rfl
@[simp] theorem State.modDie_primary (d : Bool) (f : Die → Die) : (s.modDie d f).primary = s.primary := by cases d <;> rfl
@[simp] theorem State.modDie_cmdbase (d : Bool) (f : Die → Die) : (s.modDie d f).cmdbase = s.cmdbase := by cases d <;> rfl
@[simp] theorem State.modDie_cmdlog2 (d : Bool) (f : Die → Die) : (s.modDie d f).cmdlog2 = s.cmdlog2 := by cases d <;> rfl
@[simp] theorem State.modDie_cmdhead (d : Bool) (f : Die → Die) : (s.modDie d f).cmdhead = s.cmdhead := by cases d <;> rfl
@[simp] theorem State.modDie_cmdtail (d : Bool) (f : Die → Die) : (s.modDie d f).cmdtail = s.cmdtail := by cases d <;> rfl
@[simp] theorem State.modDie_cplbase (d : Bool) (f : Die → Die) : (s.modDie d f).cplbase = s.cplbase := by cases d <;> rfl
@[simp] theorem State.modDie_cpllog2 (d : Bool) (f : Die → Die) : (s.modDie d f).cpllog2 = s.cpllog2 := by cases d <;> rfl
@[simp] theorem State.modDie_cplprod (d : Bool) (f : Die → Die) : (s.modDie d f).cplprod = s.cplprod := by cases d <;> rfl
@[simp] theorem State.modDie_cplcons (d : Bool) (f : Die → Die) : (s.modDie d f).cplcons = s.cplcons := by cases d <;> rfl
@[simp] theorem State.modDie_cplWait (d : Bool) (f : Die → Die) : (s.modDie d f).cplWait = s.cplWait := by cases d <;> rfl
@[simp] theorem State.modDie_powWait (d : Bool) (f : Die → Die) : (s.modDie d f).powWait = s.powWait := by cases d <;> rfl
@[simp] theorem State.modDie_settWait (d : Bool) (f : Die → Die) : (s.modDie d f).settWait = s.settWait := by cases d <;> rfl
@[simp] theorem State.modDie_trapRings (d : Bool) (f : Die → Die) : (s.modDie d f).trapRings = s.trapRings := by cases d <;> rfl
@[simp] theorem State.modDie_recvRings (d : Bool) (f : Die → Die) : (s.modDie d f).recvRings = s.recvRings := by cases d <;> rfl
@[simp] theorem State.modDie_sumseq (d : Bool) (f : Die → Die) : (s.modDie d f).sumseq = s.sumseq := by cases d <;> rfl
@[simp] theorem State.modDie_sumlast (d : Bool) (f : Die → Die) : (s.modDie d f).sumlast = s.sumlast := by cases d <;> rfl
@[simp] theorem State.modDie_sumnack (d : Bool) (f : Die → Die) : (s.modDie d f).sumnack = s.sumnack := by cases d <;> rfl
@[simp] theorem State.modDie_islands (d : Bool) (f : Die → Die) : (s.modDie d f).islands = s.islands := by cases d <;> rfl
@[simp] theorem State.modDie_therm (d : Bool) (f : Die → Die) : (s.modDie d f).therm = s.therm := by cases d <;> rfl
@[simp] theorem State.modDie_sensors (d : Bool) (f : Die → Die) : (s.modDie d f).sensors = s.sensors := by cases d <;> rfl
@[simp] theorem State.modDie_node (d : Bool) (f : Die → Die) : (s.modDie d f).node = s.node := by cases d <;> rfl
@[simp] theorem State.modDie_links (d : Bool) (f : Die → Die) : (s.modDie d f).links = s.links := by cases d <;> rfl
@[simp] theorem State.modDie_mgmtkey (d : Bool) (f : Die → Die) : (s.modDie d f).mgmtkey = s.mgmtkey := by cases d <;> rfl
@[simp] theorem State.modDie_mgmtset (d : Bool) (f : Die → Die) : (s.modDie d f).mgmtset = s.mgmtset := by cases d <;> rfl
@[simp] theorem State.modDie_slices (d : Bool) (f : Die → Die) : (s.modDie d f).slices = s.slices := by cases d <;> rfl
@[simp] theorem State.modDie_slhead (d : Bool) (f : Die → Die) : (s.modDie d f).slhead = s.slhead := by cases d <;> rfl
@[simp] theorem State.modDie_sltail (d : Bool) (f : Die → Die) : (s.modDie d f).sltail = s.sltail := by cases d <;> rfl
@[simp] theorem State.modDie_slskip (d : Bool) (f : Die → Die) : (s.modDie d f).slskip = s.slskip := by cases d <;> rfl
@[simp] theorem State.modDie_fwver (d : Bool) (f : Die → Die) : (s.modDie d f).fwver = s.fwver := by cases d <;> rfl
@[simp] theorem State.modDie_credits (d : Bool) (f : Die → Die) : (s.modDie d f).credits = s.credits := by cases d <;> rfl
@[simp] theorem State.modDie_flying (d : Bool) (f : Die → Die) : (s.modDie d f).flying = s.flying := by cases d <;> rfl
@[simp] theorem State.modDie_arrivals (d : Bool) (f : Die → Die) : (s.modDie d f).arrivals = s.arrivals := by cases d <;> rfl
@[simp] theorem State.modDie_redvs (d : Bool) (f : Die → Die) : (s.modDie d f).redvs = s.redvs := by cases d <;> rfl
@[simp] theorem State.modDie_sent (d : Bool) (f : Die → Die) : (s.modDie d f).sent = s.sent := by cases d <;> rfl
@[simp] theorem State.modDie_cur (d : Bool) (f : Die → Die) : (s.modDie d f).cur = s.cur := by cases d <;> rfl
@[simp] theorem State.modDie_sched (d : Bool) (f : Die → Die) : (s.modDie d f).sched = s.sched := by cases d <;> rfl
@[simp] theorem State.modDie_fresh (d : Bool) (f : Die → Die) : (s.modDie d f).fresh = s.fresh := by cases d <;> rfl
@[simp] theorem State.modDie_did (d : Bool) (f : Die → Die) : (s.modDie d f).did = s.did := by cases d <;> rfl

/-! ### modQueue -/

@[simp] theorem State.modQueue_mem (d : Bool) (n : Nat) (f : Queue → Queue) : (s.modQueue d n f).mem = s.mem := by cases d <;> rfl
@[simp] theorem State.modQueue_poison (d : Bool) (n : Nat) (f : Queue → Queue) : (s.modQueue d n f).poison = s.poison := by cases d <;> rfl
@[simp] theorem State.modQueue_toReport (d : Bool) (n : Nat) (f : Queue → Queue) : (s.modQueue d n f).toReport = s.toReport := by cases d <;> rfl
@[simp] theorem State.modQueue_hdm (d : Bool) (n : Nat) (f : Queue → Queue) : (s.modQueue d n f).hdm = s.hdm := by cases d <;> rfl
@[simp] theorem State.modQueue_dir (d : Bool) (n : Nat) (f : Queue → Queue) : (s.modQueue d n f).dir = s.dir := by cases d <;> rfl
@[simp] theorem State.modQueue_past (d : Bool) (n : Nat) (f : Queue → Queue) : (s.modQueue d n f).past = s.past := by cases d <;> rfl
@[simp] theorem State.modQueue_tiles (d : Bool) (n : Nat) (f : Queue → Queue) : (s.modQueue d n f).tiles = s.tiles := by cases d <;> rfl
@[simp] theorem State.modQueue_ctxs (d : Bool) (n : Nat) (f : Queue → Queue) : (s.modQueue d n f).ctxs = s.ctxs := by cases d <;> rfl
@[simp] theorem State.modQueue_ns9 (d : Bool) (n : Nat) (f : Queue → Queue) : (s.modQueue d n f).ns9 = s.ns9 := by cases d <;> rfl
@[simp] theorem State.modQueue_bootsrc (d : Bool) (n : Nat) (f : Queue → Queue) : (s.modQueue d n f).bootsrc = s.bootsrc := by cases d <;> rfl
@[simp] theorem State.modQueue_epoch (d : Bool) (n : Nat) (f : Queue → Queue) : (s.modQueue d n f).epoch = s.epoch := by cases d <;> rfl
@[simp] theorem State.modQueue_primary (d : Bool) (n : Nat) (f : Queue → Queue) : (s.modQueue d n f).primary = s.primary := by cases d <;> rfl
@[simp] theorem State.modQueue_cmdbase (d : Bool) (n : Nat) (f : Queue → Queue) : (s.modQueue d n f).cmdbase = s.cmdbase := by cases d <;> rfl
@[simp] theorem State.modQueue_cmdlog2 (d : Bool) (n : Nat) (f : Queue → Queue) : (s.modQueue d n f).cmdlog2 = s.cmdlog2 := by cases d <;> rfl
@[simp] theorem State.modQueue_cmdhead (d : Bool) (n : Nat) (f : Queue → Queue) : (s.modQueue d n f).cmdhead = s.cmdhead := by cases d <;> rfl
@[simp] theorem State.modQueue_cmdtail (d : Bool) (n : Nat) (f : Queue → Queue) : (s.modQueue d n f).cmdtail = s.cmdtail := by cases d <;> rfl
@[simp] theorem State.modQueue_cplbase (d : Bool) (n : Nat) (f : Queue → Queue) : (s.modQueue d n f).cplbase = s.cplbase := by cases d <;> rfl
@[simp] theorem State.modQueue_cpllog2 (d : Bool) (n : Nat) (f : Queue → Queue) : (s.modQueue d n f).cpllog2 = s.cpllog2 := by cases d <;> rfl
@[simp] theorem State.modQueue_cplprod (d : Bool) (n : Nat) (f : Queue → Queue) : (s.modQueue d n f).cplprod = s.cplprod := by cases d <;> rfl
@[simp] theorem State.modQueue_cplcons (d : Bool) (n : Nat) (f : Queue → Queue) : (s.modQueue d n f).cplcons = s.cplcons := by cases d <;> rfl
@[simp] theorem State.modQueue_cplWait (d : Bool) (n : Nat) (f : Queue → Queue) : (s.modQueue d n f).cplWait = s.cplWait := by cases d <;> rfl
@[simp] theorem State.modQueue_powWait (d : Bool) (n : Nat) (f : Queue → Queue) : (s.modQueue d n f).powWait = s.powWait := by cases d <;> rfl
@[simp] theorem State.modQueue_settWait (d : Bool) (n : Nat) (f : Queue → Queue) : (s.modQueue d n f).settWait = s.settWait := by cases d <;> rfl
@[simp] theorem State.modQueue_trapRings (d : Bool) (n : Nat) (f : Queue → Queue) : (s.modQueue d n f).trapRings = s.trapRings := by cases d <;> rfl
@[simp] theorem State.modQueue_recvRings (d : Bool) (n : Nat) (f : Queue → Queue) : (s.modQueue d n f).recvRings = s.recvRings := by cases d <;> rfl
@[simp] theorem State.modQueue_sumseq (d : Bool) (n : Nat) (f : Queue → Queue) : (s.modQueue d n f).sumseq = s.sumseq := by cases d <;> rfl
@[simp] theorem State.modQueue_sumlast (d : Bool) (n : Nat) (f : Queue → Queue) : (s.modQueue d n f).sumlast = s.sumlast := by cases d <;> rfl
@[simp] theorem State.modQueue_sumnack (d : Bool) (n : Nat) (f : Queue → Queue) : (s.modQueue d n f).sumnack = s.sumnack := by cases d <;> rfl
@[simp] theorem State.modQueue_islands (d : Bool) (n : Nat) (f : Queue → Queue) : (s.modQueue d n f).islands = s.islands := by cases d <;> rfl
@[simp] theorem State.modQueue_therm (d : Bool) (n : Nat) (f : Queue → Queue) : (s.modQueue d n f).therm = s.therm := by cases d <;> rfl
@[simp] theorem State.modQueue_sensors (d : Bool) (n : Nat) (f : Queue → Queue) : (s.modQueue d n f).sensors = s.sensors := by cases d <;> rfl
@[simp] theorem State.modQueue_node (d : Bool) (n : Nat) (f : Queue → Queue) : (s.modQueue d n f).node = s.node := by cases d <;> rfl
@[simp] theorem State.modQueue_links (d : Bool) (n : Nat) (f : Queue → Queue) : (s.modQueue d n f).links = s.links := by cases d <;> rfl
@[simp] theorem State.modQueue_mgmtkey (d : Bool) (n : Nat) (f : Queue → Queue) : (s.modQueue d n f).mgmtkey = s.mgmtkey := by cases d <;> rfl
@[simp] theorem State.modQueue_mgmtset (d : Bool) (n : Nat) (f : Queue → Queue) : (s.modQueue d n f).mgmtset = s.mgmtset := by cases d <;> rfl
@[simp] theorem State.modQueue_slices (d : Bool) (n : Nat) (f : Queue → Queue) : (s.modQueue d n f).slices = s.slices := by cases d <;> rfl
@[simp] theorem State.modQueue_slhead (d : Bool) (n : Nat) (f : Queue → Queue) : (s.modQueue d n f).slhead = s.slhead := by cases d <;> rfl
@[simp] theorem State.modQueue_sltail (d : Bool) (n : Nat) (f : Queue → Queue) : (s.modQueue d n f).sltail = s.sltail := by cases d <;> rfl
@[simp] theorem State.modQueue_slskip (d : Bool) (n : Nat) (f : Queue → Queue) : (s.modQueue d n f).slskip = s.slskip := by cases d <;> rfl
@[simp] theorem State.modQueue_fwver (d : Bool) (n : Nat) (f : Queue → Queue) : (s.modQueue d n f).fwver = s.fwver := by cases d <;> rfl
@[simp] theorem State.modQueue_credits (d : Bool) (n : Nat) (f : Queue → Queue) : (s.modQueue d n f).credits = s.credits := by cases d <;> rfl
@[simp] theorem State.modQueue_flying (d : Bool) (n : Nat) (f : Queue → Queue) : (s.modQueue d n f).flying = s.flying := by cases d <;> rfl
@[simp] theorem State.modQueue_arrivals (d : Bool) (n : Nat) (f : Queue → Queue) : (s.modQueue d n f).arrivals = s.arrivals := by cases d <;> rfl
@[simp] theorem State.modQueue_redvs (d : Bool) (n : Nat) (f : Queue → Queue) : (s.modQueue d n f).redvs = s.redvs := by cases d <;> rfl
@[simp] theorem State.modQueue_sent (d : Bool) (n : Nat) (f : Queue → Queue) : (s.modQueue d n f).sent = s.sent := by cases d <;> rfl
@[simp] theorem State.modQueue_cur (d : Bool) (n : Nat) (f : Queue → Queue) : (s.modQueue d n f).cur = s.cur := by cases d <;> rfl
@[simp] theorem State.modQueue_sched (d : Bool) (n : Nat) (f : Queue → Queue) : (s.modQueue d n f).sched = s.sched := by cases d <;> rfl
@[simp] theorem State.modQueue_fresh (d : Bool) (n : Nat) (f : Queue → Queue) : (s.modQueue d n f).fresh = s.fresh := by cases d <;> rfl
@[simp] theorem State.modQueue_did (d : Bool) (n : Nat) (f : Queue → Queue) : (s.modQueue d n f).did = s.did := by cases d <;> rfl

/-! ### modGroup -/

@[simp] theorem State.modGroup_mem (d : Bool) (g : Nat) (f : Group → Group) : (s.modGroup d g f).mem = s.mem := by cases d <;> rfl
@[simp] theorem State.modGroup_poison (d : Bool) (g : Nat) (f : Group → Group) : (s.modGroup d g f).poison = s.poison := by cases d <;> rfl
@[simp] theorem State.modGroup_toReport (d : Bool) (g : Nat) (f : Group → Group) : (s.modGroup d g f).toReport = s.toReport := by cases d <;> rfl
@[simp] theorem State.modGroup_hdm (d : Bool) (g : Nat) (f : Group → Group) : (s.modGroup d g f).hdm = s.hdm := by cases d <;> rfl
@[simp] theorem State.modGroup_dir (d : Bool) (g : Nat) (f : Group → Group) : (s.modGroup d g f).dir = s.dir := by cases d <;> rfl
@[simp] theorem State.modGroup_past (d : Bool) (g : Nat) (f : Group → Group) : (s.modGroup d g f).past = s.past := by cases d <;> rfl
@[simp] theorem State.modGroup_tiles (d : Bool) (g : Nat) (f : Group → Group) : (s.modGroup d g f).tiles = s.tiles := by cases d <;> rfl
@[simp] theorem State.modGroup_ctxs (d : Bool) (g : Nat) (f : Group → Group) : (s.modGroup d g f).ctxs = s.ctxs := by cases d <;> rfl
@[simp] theorem State.modGroup_ns9 (d : Bool) (g : Nat) (f : Group → Group) : (s.modGroup d g f).ns9 = s.ns9 := by cases d <;> rfl
@[simp] theorem State.modGroup_bootsrc (d : Bool) (g : Nat) (f : Group → Group) : (s.modGroup d g f).bootsrc = s.bootsrc := by cases d <;> rfl
@[simp] theorem State.modGroup_epoch (d : Bool) (g : Nat) (f : Group → Group) : (s.modGroup d g f).epoch = s.epoch := by cases d <;> rfl
@[simp] theorem State.modGroup_primary (d : Bool) (g : Nat) (f : Group → Group) : (s.modGroup d g f).primary = s.primary := by cases d <;> rfl
@[simp] theorem State.modGroup_cmdbase (d : Bool) (g : Nat) (f : Group → Group) : (s.modGroup d g f).cmdbase = s.cmdbase := by cases d <;> rfl
@[simp] theorem State.modGroup_cmdlog2 (d : Bool) (g : Nat) (f : Group → Group) : (s.modGroup d g f).cmdlog2 = s.cmdlog2 := by cases d <;> rfl
@[simp] theorem State.modGroup_cmdhead (d : Bool) (g : Nat) (f : Group → Group) : (s.modGroup d g f).cmdhead = s.cmdhead := by cases d <;> rfl
@[simp] theorem State.modGroup_cmdtail (d : Bool) (g : Nat) (f : Group → Group) : (s.modGroup d g f).cmdtail = s.cmdtail := by cases d <;> rfl
@[simp] theorem State.modGroup_cplbase (d : Bool) (g : Nat) (f : Group → Group) : (s.modGroup d g f).cplbase = s.cplbase := by cases d <;> rfl
@[simp] theorem State.modGroup_cpllog2 (d : Bool) (g : Nat) (f : Group → Group) : (s.modGroup d g f).cpllog2 = s.cpllog2 := by cases d <;> rfl
@[simp] theorem State.modGroup_cplprod (d : Bool) (g : Nat) (f : Group → Group) : (s.modGroup d g f).cplprod = s.cplprod := by cases d <;> rfl
@[simp] theorem State.modGroup_cplcons (d : Bool) (g : Nat) (f : Group → Group) : (s.modGroup d g f).cplcons = s.cplcons := by cases d <;> rfl
@[simp] theorem State.modGroup_cplWait (d : Bool) (g : Nat) (f : Group → Group) : (s.modGroup d g f).cplWait = s.cplWait := by cases d <;> rfl
@[simp] theorem State.modGroup_powWait (d : Bool) (g : Nat) (f : Group → Group) : (s.modGroup d g f).powWait = s.powWait := by cases d <;> rfl
@[simp] theorem State.modGroup_settWait (d : Bool) (g : Nat) (f : Group → Group) : (s.modGroup d g f).settWait = s.settWait := by cases d <;> rfl
@[simp] theorem State.modGroup_trapRings (d : Bool) (g : Nat) (f : Group → Group) : (s.modGroup d g f).trapRings = s.trapRings := by cases d <;> rfl
@[simp] theorem State.modGroup_recvRings (d : Bool) (g : Nat) (f : Group → Group) : (s.modGroup d g f).recvRings = s.recvRings := by cases d <;> rfl
@[simp] theorem State.modGroup_sumseq (d : Bool) (g : Nat) (f : Group → Group) : (s.modGroup d g f).sumseq = s.sumseq := by cases d <;> rfl
@[simp] theorem State.modGroup_sumlast (d : Bool) (g : Nat) (f : Group → Group) : (s.modGroup d g f).sumlast = s.sumlast := by cases d <;> rfl
@[simp] theorem State.modGroup_sumnack (d : Bool) (g : Nat) (f : Group → Group) : (s.modGroup d g f).sumnack = s.sumnack := by cases d <;> rfl
@[simp] theorem State.modGroup_islands (d : Bool) (g : Nat) (f : Group → Group) : (s.modGroup d g f).islands = s.islands := by cases d <;> rfl
@[simp] theorem State.modGroup_therm (d : Bool) (g : Nat) (f : Group → Group) : (s.modGroup d g f).therm = s.therm := by cases d <;> rfl
@[simp] theorem State.modGroup_sensors (d : Bool) (g : Nat) (f : Group → Group) : (s.modGroup d g f).sensors = s.sensors := by cases d <;> rfl
@[simp] theorem State.modGroup_node (d : Bool) (g : Nat) (f : Group → Group) : (s.modGroup d g f).node = s.node := by cases d <;> rfl
@[simp] theorem State.modGroup_links (d : Bool) (g : Nat) (f : Group → Group) : (s.modGroup d g f).links = s.links := by cases d <;> rfl
@[simp] theorem State.modGroup_mgmtkey (d : Bool) (g : Nat) (f : Group → Group) : (s.modGroup d g f).mgmtkey = s.mgmtkey := by cases d <;> rfl
@[simp] theorem State.modGroup_mgmtset (d : Bool) (g : Nat) (f : Group → Group) : (s.modGroup d g f).mgmtset = s.mgmtset := by cases d <;> rfl
@[simp] theorem State.modGroup_slices (d : Bool) (g : Nat) (f : Group → Group) : (s.modGroup d g f).slices = s.slices := by cases d <;> rfl
@[simp] theorem State.modGroup_slhead (d : Bool) (g : Nat) (f : Group → Group) : (s.modGroup d g f).slhead = s.slhead := by cases d <;> rfl
@[simp] theorem State.modGroup_sltail (d : Bool) (g : Nat) (f : Group → Group) : (s.modGroup d g f).sltail = s.sltail := by cases d <;> rfl
@[simp] theorem State.modGroup_slskip (d : Bool) (g : Nat) (f : Group → Group) : (s.modGroup d g f).slskip = s.slskip := by cases d <;> rfl
@[simp] theorem State.modGroup_fwver (d : Bool) (g : Nat) (f : Group → Group) : (s.modGroup d g f).fwver = s.fwver := by cases d <;> rfl
@[simp] theorem State.modGroup_credits (d : Bool) (g : Nat) (f : Group → Group) : (s.modGroup d g f).credits = s.credits := by cases d <;> rfl
@[simp] theorem State.modGroup_flying (d : Bool) (g : Nat) (f : Group → Group) : (s.modGroup d g f).flying = s.flying := by cases d <;> rfl
@[simp] theorem State.modGroup_arrivals (d : Bool) (g : Nat) (f : Group → Group) : (s.modGroup d g f).arrivals = s.arrivals := by cases d <;> rfl
@[simp] theorem State.modGroup_redvs (d : Bool) (g : Nat) (f : Group → Group) : (s.modGroup d g f).redvs = s.redvs := by cases d <;> rfl
@[simp] theorem State.modGroup_sent (d : Bool) (g : Nat) (f : Group → Group) : (s.modGroup d g f).sent = s.sent := by cases d <;> rfl
@[simp] theorem State.modGroup_cur (d : Bool) (g : Nat) (f : Group → Group) : (s.modGroup d g f).cur = s.cur := by cases d <;> rfl
@[simp] theorem State.modGroup_sched (d : Bool) (g : Nat) (f : Group → Group) : (s.modGroup d g f).sched = s.sched := by cases d <;> rfl
@[simp] theorem State.modGroup_fresh (d : Bool) (g : Nat) (f : Group → Group) : (s.modGroup d g f).fresh = s.fresh := by cases d <;> rfl
@[simp] theorem State.modGroup_did (d : Bool) (g : Nat) (f : Group → Group) : (s.modGroup d g f).did = s.did := by cases d <;> rfl

/-! ### modSlot -/

@[simp] theorem State.modSlot_mem (d : Bool) (n : Nat) (f : TSlot → TSlot) : (s.modSlot d n f).mem = s.mem := by cases d <;> rfl
@[simp] theorem State.modSlot_poison (d : Bool) (n : Nat) (f : TSlot → TSlot) : (s.modSlot d n f).poison = s.poison := by cases d <;> rfl
@[simp] theorem State.modSlot_toReport (d : Bool) (n : Nat) (f : TSlot → TSlot) : (s.modSlot d n f).toReport = s.toReport := by cases d <;> rfl
@[simp] theorem State.modSlot_hdm (d : Bool) (n : Nat) (f : TSlot → TSlot) : (s.modSlot d n f).hdm = s.hdm := by cases d <;> rfl
@[simp] theorem State.modSlot_dir (d : Bool) (n : Nat) (f : TSlot → TSlot) : (s.modSlot d n f).dir = s.dir := by cases d <;> rfl
@[simp] theorem State.modSlot_past (d : Bool) (n : Nat) (f : TSlot → TSlot) : (s.modSlot d n f).past = s.past := by cases d <;> rfl
@[simp] theorem State.modSlot_tiles (d : Bool) (n : Nat) (f : TSlot → TSlot) : (s.modSlot d n f).tiles = s.tiles := by cases d <;> rfl
@[simp] theorem State.modSlot_ctxs (d : Bool) (n : Nat) (f : TSlot → TSlot) : (s.modSlot d n f).ctxs = s.ctxs := by cases d <;> rfl
@[simp] theorem State.modSlot_ns9 (d : Bool) (n : Nat) (f : TSlot → TSlot) : (s.modSlot d n f).ns9 = s.ns9 := by cases d <;> rfl
@[simp] theorem State.modSlot_bootsrc (d : Bool) (n : Nat) (f : TSlot → TSlot) : (s.modSlot d n f).bootsrc = s.bootsrc := by cases d <;> rfl
@[simp] theorem State.modSlot_epoch (d : Bool) (n : Nat) (f : TSlot → TSlot) : (s.modSlot d n f).epoch = s.epoch := by cases d <;> rfl
@[simp] theorem State.modSlot_primary (d : Bool) (n : Nat) (f : TSlot → TSlot) : (s.modSlot d n f).primary = s.primary := by cases d <;> rfl
@[simp] theorem State.modSlot_cmdbase (d : Bool) (n : Nat) (f : TSlot → TSlot) : (s.modSlot d n f).cmdbase = s.cmdbase := by cases d <;> rfl
@[simp] theorem State.modSlot_cmdlog2 (d : Bool) (n : Nat) (f : TSlot → TSlot) : (s.modSlot d n f).cmdlog2 = s.cmdlog2 := by cases d <;> rfl
@[simp] theorem State.modSlot_cmdhead (d : Bool) (n : Nat) (f : TSlot → TSlot) : (s.modSlot d n f).cmdhead = s.cmdhead := by cases d <;> rfl
@[simp] theorem State.modSlot_cmdtail (d : Bool) (n : Nat) (f : TSlot → TSlot) : (s.modSlot d n f).cmdtail = s.cmdtail := by cases d <;> rfl
@[simp] theorem State.modSlot_cplbase (d : Bool) (n : Nat) (f : TSlot → TSlot) : (s.modSlot d n f).cplbase = s.cplbase := by cases d <;> rfl
@[simp] theorem State.modSlot_cpllog2 (d : Bool) (n : Nat) (f : TSlot → TSlot) : (s.modSlot d n f).cpllog2 = s.cpllog2 := by cases d <;> rfl
@[simp] theorem State.modSlot_cplprod (d : Bool) (n : Nat) (f : TSlot → TSlot) : (s.modSlot d n f).cplprod = s.cplprod := by cases d <;> rfl
@[simp] theorem State.modSlot_cplcons (d : Bool) (n : Nat) (f : TSlot → TSlot) : (s.modSlot d n f).cplcons = s.cplcons := by cases d <;> rfl
@[simp] theorem State.modSlot_cplWait (d : Bool) (n : Nat) (f : TSlot → TSlot) : (s.modSlot d n f).cplWait = s.cplWait := by cases d <;> rfl
@[simp] theorem State.modSlot_powWait (d : Bool) (n : Nat) (f : TSlot → TSlot) : (s.modSlot d n f).powWait = s.powWait := by cases d <;> rfl
@[simp] theorem State.modSlot_settWait (d : Bool) (n : Nat) (f : TSlot → TSlot) : (s.modSlot d n f).settWait = s.settWait := by cases d <;> rfl
@[simp] theorem State.modSlot_trapRings (d : Bool) (n : Nat) (f : TSlot → TSlot) : (s.modSlot d n f).trapRings = s.trapRings := by cases d <;> rfl
@[simp] theorem State.modSlot_recvRings (d : Bool) (n : Nat) (f : TSlot → TSlot) : (s.modSlot d n f).recvRings = s.recvRings := by cases d <;> rfl
@[simp] theorem State.modSlot_sumseq (d : Bool) (n : Nat) (f : TSlot → TSlot) : (s.modSlot d n f).sumseq = s.sumseq := by cases d <;> rfl
@[simp] theorem State.modSlot_sumlast (d : Bool) (n : Nat) (f : TSlot → TSlot) : (s.modSlot d n f).sumlast = s.sumlast := by cases d <;> rfl
@[simp] theorem State.modSlot_sumnack (d : Bool) (n : Nat) (f : TSlot → TSlot) : (s.modSlot d n f).sumnack = s.sumnack := by cases d <;> rfl
@[simp] theorem State.modSlot_islands (d : Bool) (n : Nat) (f : TSlot → TSlot) : (s.modSlot d n f).islands = s.islands := by cases d <;> rfl
@[simp] theorem State.modSlot_therm (d : Bool) (n : Nat) (f : TSlot → TSlot) : (s.modSlot d n f).therm = s.therm := by cases d <;> rfl
@[simp] theorem State.modSlot_sensors (d : Bool) (n : Nat) (f : TSlot → TSlot) : (s.modSlot d n f).sensors = s.sensors := by cases d <;> rfl
@[simp] theorem State.modSlot_node (d : Bool) (n : Nat) (f : TSlot → TSlot) : (s.modSlot d n f).node = s.node := by cases d <;> rfl
@[simp] theorem State.modSlot_links (d : Bool) (n : Nat) (f : TSlot → TSlot) : (s.modSlot d n f).links = s.links := by cases d <;> rfl
@[simp] theorem State.modSlot_mgmtkey (d : Bool) (n : Nat) (f : TSlot → TSlot) : (s.modSlot d n f).mgmtkey = s.mgmtkey := by cases d <;> rfl
@[simp] theorem State.modSlot_mgmtset (d : Bool) (n : Nat) (f : TSlot → TSlot) : (s.modSlot d n f).mgmtset = s.mgmtset := by cases d <;> rfl
@[simp] theorem State.modSlot_slices (d : Bool) (n : Nat) (f : TSlot → TSlot) : (s.modSlot d n f).slices = s.slices := by cases d <;> rfl
@[simp] theorem State.modSlot_slhead (d : Bool) (n : Nat) (f : TSlot → TSlot) : (s.modSlot d n f).slhead = s.slhead := by cases d <;> rfl
@[simp] theorem State.modSlot_sltail (d : Bool) (n : Nat) (f : TSlot → TSlot) : (s.modSlot d n f).sltail = s.sltail := by cases d <;> rfl
@[simp] theorem State.modSlot_slskip (d : Bool) (n : Nat) (f : TSlot → TSlot) : (s.modSlot d n f).slskip = s.slskip := by cases d <;> rfl
@[simp] theorem State.modSlot_fwver (d : Bool) (n : Nat) (f : TSlot → TSlot) : (s.modSlot d n f).fwver = s.fwver := by cases d <;> rfl
@[simp] theorem State.modSlot_credits (d : Bool) (n : Nat) (f : TSlot → TSlot) : (s.modSlot d n f).credits = s.credits := by cases d <;> rfl
@[simp] theorem State.modSlot_flying (d : Bool) (n : Nat) (f : TSlot → TSlot) : (s.modSlot d n f).flying = s.flying := by cases d <;> rfl
@[simp] theorem State.modSlot_arrivals (d : Bool) (n : Nat) (f : TSlot → TSlot) : (s.modSlot d n f).arrivals = s.arrivals := by cases d <;> rfl
@[simp] theorem State.modSlot_redvs (d : Bool) (n : Nat) (f : TSlot → TSlot) : (s.modSlot d n f).redvs = s.redvs := by cases d <;> rfl
@[simp] theorem State.modSlot_sent (d : Bool) (n : Nat) (f : TSlot → TSlot) : (s.modSlot d n f).sent = s.sent := by cases d <;> rfl
@[simp] theorem State.modSlot_cur (d : Bool) (n : Nat) (f : TSlot → TSlot) : (s.modSlot d n f).cur = s.cur := by cases d <;> rfl
@[simp] theorem State.modSlot_sched (d : Bool) (n : Nat) (f : TSlot → TSlot) : (s.modSlot d n f).sched = s.sched := by cases d <;> rfl
@[simp] theorem State.modSlot_fresh (d : Bool) (n : Nat) (f : TSlot → TSlot) : (s.modSlot d n f).fresh = s.fresh := by cases d <;> rfl
@[simp] theorem State.modSlot_did (d : Bool) (n : Nat) (f : TSlot → TSlot) : (s.modSlot d n f).did = s.did := by cases d <;> rfl

/-! ### send -/

@[simp] theorem State.send_mem (m : Msg) : (s.send m).mem = s.mem := rfl
@[simp] theorem State.send_poison (m : Msg) : (s.send m).poison = s.poison := rfl
@[simp] theorem State.send_toReport (m : Msg) : (s.send m).toReport = s.toReport := rfl
@[simp] theorem State.send_hdm (m : Msg) : (s.send m).hdm = s.hdm := rfl
@[simp] theorem State.send_dir (m : Msg) : (s.send m).dir = s.dir := rfl
@[simp] theorem State.send_past (m : Msg) : (s.send m).past = s.past := rfl
@[simp] theorem State.send_tiles (m : Msg) : (s.send m).tiles = s.tiles := rfl
@[simp] theorem State.send_die0 (m : Msg) : (s.send m).die0 = s.die0 := rfl
@[simp] theorem State.send_die1 (m : Msg) : (s.send m).die1 = s.die1 := rfl
@[simp] theorem State.send_ctxs (m : Msg) : (s.send m).ctxs = s.ctxs := rfl
@[simp] theorem State.send_ns9 (m : Msg) : (s.send m).ns9 = s.ns9 := rfl
@[simp] theorem State.send_bootsrc (m : Msg) : (s.send m).bootsrc = s.bootsrc := rfl
@[simp] theorem State.send_epoch (m : Msg) : (s.send m).epoch = s.epoch := rfl
@[simp] theorem State.send_primary (m : Msg) : (s.send m).primary = s.primary := rfl
@[simp] theorem State.send_cmdbase (m : Msg) : (s.send m).cmdbase = s.cmdbase := rfl
@[simp] theorem State.send_cmdlog2 (m : Msg) : (s.send m).cmdlog2 = s.cmdlog2 := rfl
@[simp] theorem State.send_cmdhead (m : Msg) : (s.send m).cmdhead = s.cmdhead := rfl
@[simp] theorem State.send_cmdtail (m : Msg) : (s.send m).cmdtail = s.cmdtail := rfl
@[simp] theorem State.send_cplbase (m : Msg) : (s.send m).cplbase = s.cplbase := rfl
@[simp] theorem State.send_cpllog2 (m : Msg) : (s.send m).cpllog2 = s.cpllog2 := rfl
@[simp] theorem State.send_cplprod (m : Msg) : (s.send m).cplprod = s.cplprod := rfl
@[simp] theorem State.send_cplcons (m : Msg) : (s.send m).cplcons = s.cplcons := rfl
@[simp] theorem State.send_cplWait (m : Msg) : (s.send m).cplWait = s.cplWait := rfl
@[simp] theorem State.send_powWait (m : Msg) : (s.send m).powWait = s.powWait := rfl
@[simp] theorem State.send_settWait (m : Msg) : (s.send m).settWait = s.settWait := rfl
@[simp] theorem State.send_trapRings (m : Msg) : (s.send m).trapRings = s.trapRings := rfl
@[simp] theorem State.send_recvRings (m : Msg) : (s.send m).recvRings = s.recvRings := rfl
@[simp] theorem State.send_sumseq (m : Msg) : (s.send m).sumseq = s.sumseq := rfl
@[simp] theorem State.send_sumlast (m : Msg) : (s.send m).sumlast = s.sumlast := rfl
@[simp] theorem State.send_sumnack (m : Msg) : (s.send m).sumnack = s.sumnack := rfl
@[simp] theorem State.send_islands (m : Msg) : (s.send m).islands = s.islands := rfl
@[simp] theorem State.send_therm (m : Msg) : (s.send m).therm = s.therm := rfl
@[simp] theorem State.send_sensors (m : Msg) : (s.send m).sensors = s.sensors := rfl
@[simp] theorem State.send_node (m : Msg) : (s.send m).node = s.node := rfl
@[simp] theorem State.send_links (m : Msg) : (s.send m).links = s.links := rfl
@[simp] theorem State.send_mgmtkey (m : Msg) : (s.send m).mgmtkey = s.mgmtkey := rfl
@[simp] theorem State.send_mgmtset (m : Msg) : (s.send m).mgmtset = s.mgmtset := rfl
@[simp] theorem State.send_slices (m : Msg) : (s.send m).slices = s.slices := rfl
@[simp] theorem State.send_slhead (m : Msg) : (s.send m).slhead = s.slhead := rfl
@[simp] theorem State.send_sltail (m : Msg) : (s.send m).sltail = s.sltail := rfl
@[simp] theorem State.send_slskip (m : Msg) : (s.send m).slskip = s.slskip := rfl
@[simp] theorem State.send_fwver (m : Msg) : (s.send m).fwver = s.fwver := rfl
@[simp] theorem State.send_credits (m : Msg) : (s.send m).credits = s.credits := rfl
@[simp] theorem State.send_flying (m : Msg) : (s.send m).flying = s.flying := rfl
@[simp] theorem State.send_arrivals (m : Msg) : (s.send m).arrivals = s.arrivals := rfl
@[simp] theorem State.send_redvs (m : Msg) : (s.send m).redvs = s.redvs := rfl
@[simp] theorem State.send_cur (m : Msg) : (s.send m).cur = s.cur := rfl
@[simp] theorem State.send_sched (m : Msg) : (s.send m).sched = s.sched := rfl
@[simp] theorem State.send_fresh (m : Msg) : (s.send m).fresh = s.fresh := rfl
@[simp] theorem State.send_did (m : Msg) : (s.send m).did = s.did := rfl

/-! ### progress -/

@[simp] theorem State.progress_mem (t : PTile) : (s.progress t).mem = s.mem := rfl
@[simp] theorem State.progress_poison (t : PTile) : (s.progress t).poison = s.poison := rfl
@[simp] theorem State.progress_toReport (t : PTile) : (s.progress t).toReport = s.toReport := rfl
@[simp] theorem State.progress_hdm (t : PTile) : (s.progress t).hdm = s.hdm := rfl
@[simp] theorem State.progress_dir (t : PTile) : (s.progress t).dir = s.dir := rfl
@[simp] theorem State.progress_past (t : PTile) : (s.progress t).past = s.past := rfl
@[simp] theorem State.progress_die0 (t : PTile) : (s.progress t).die0 = s.die0 := rfl
@[simp] theorem State.progress_die1 (t : PTile) : (s.progress t).die1 = s.die1 := rfl
@[simp] theorem State.progress_ctxs (t : PTile) : (s.progress t).ctxs = s.ctxs := rfl
@[simp] theorem State.progress_ns9 (t : PTile) : (s.progress t).ns9 = s.ns9 := rfl
@[simp] theorem State.progress_bootsrc (t : PTile) : (s.progress t).bootsrc = s.bootsrc := rfl
@[simp] theorem State.progress_epoch (t : PTile) : (s.progress t).epoch = s.epoch := rfl
@[simp] theorem State.progress_primary (t : PTile) : (s.progress t).primary = s.primary := rfl
@[simp] theorem State.progress_cmdbase (t : PTile) : (s.progress t).cmdbase = s.cmdbase := rfl
@[simp] theorem State.progress_cmdlog2 (t : PTile) : (s.progress t).cmdlog2 = s.cmdlog2 := rfl
@[simp] theorem State.progress_cmdhead (t : PTile) : (s.progress t).cmdhead = s.cmdhead := rfl
@[simp] theorem State.progress_cmdtail (t : PTile) : (s.progress t).cmdtail = s.cmdtail := rfl
@[simp] theorem State.progress_cplbase (t : PTile) : (s.progress t).cplbase = s.cplbase := rfl
@[simp] theorem State.progress_cpllog2 (t : PTile) : (s.progress t).cpllog2 = s.cpllog2 := rfl
@[simp] theorem State.progress_cplprod (t : PTile) : (s.progress t).cplprod = s.cplprod := rfl
@[simp] theorem State.progress_cplcons (t : PTile) : (s.progress t).cplcons = s.cplcons := rfl
@[simp] theorem State.progress_cplWait (t : PTile) : (s.progress t).cplWait = s.cplWait := rfl
@[simp] theorem State.progress_powWait (t : PTile) : (s.progress t).powWait = s.powWait := rfl
@[simp] theorem State.progress_settWait (t : PTile) : (s.progress t).settWait = s.settWait := rfl
@[simp] theorem State.progress_trapRings (t : PTile) : (s.progress t).trapRings = s.trapRings := rfl
@[simp] theorem State.progress_recvRings (t : PTile) : (s.progress t).recvRings = s.recvRings := rfl
@[simp] theorem State.progress_sumseq (t : PTile) : (s.progress t).sumseq = s.sumseq := rfl
@[simp] theorem State.progress_sumlast (t : PTile) : (s.progress t).sumlast = s.sumlast := rfl
@[simp] theorem State.progress_sumnack (t : PTile) : (s.progress t).sumnack = s.sumnack := rfl
@[simp] theorem State.progress_islands (t : PTile) : (s.progress t).islands = s.islands := rfl
@[simp] theorem State.progress_therm (t : PTile) : (s.progress t).therm = s.therm := rfl
@[simp] theorem State.progress_sensors (t : PTile) : (s.progress t).sensors = s.sensors := rfl
@[simp] theorem State.progress_node (t : PTile) : (s.progress t).node = s.node := rfl
@[simp] theorem State.progress_links (t : PTile) : (s.progress t).links = s.links := rfl
@[simp] theorem State.progress_mgmtkey (t : PTile) : (s.progress t).mgmtkey = s.mgmtkey := rfl
@[simp] theorem State.progress_mgmtset (t : PTile) : (s.progress t).mgmtset = s.mgmtset := rfl
@[simp] theorem State.progress_slices (t : PTile) : (s.progress t).slices = s.slices := rfl
@[simp] theorem State.progress_slhead (t : PTile) : (s.progress t).slhead = s.slhead := rfl
@[simp] theorem State.progress_sltail (t : PTile) : (s.progress t).sltail = s.sltail := rfl
@[simp] theorem State.progress_slskip (t : PTile) : (s.progress t).slskip = s.slskip := rfl
@[simp] theorem State.progress_fwver (t : PTile) : (s.progress t).fwver = s.fwver := rfl
@[simp] theorem State.progress_credits (t : PTile) : (s.progress t).credits = s.credits := rfl
@[simp] theorem State.progress_flying (t : PTile) : (s.progress t).flying = s.flying := rfl
@[simp] theorem State.progress_arrivals (t : PTile) : (s.progress t).arrivals = s.arrivals := rfl
@[simp] theorem State.progress_redvs (t : PTile) : (s.progress t).redvs = s.redvs := rfl
@[simp] theorem State.progress_sent (t : PTile) : (s.progress t).sent = s.sent := rfl
@[simp] theorem State.progress_cur (t : PTile) : (s.progress t).cur = s.cur := rfl
@[simp] theorem State.progress_sched (t : PTile) : (s.progress t).sched = s.sched := rfl
@[simp] theorem State.progress_fresh (t : PTile) : (s.progress t).fresh = s.fresh := rfl
@[simp] theorem State.progress_did (t : PTile) : (s.progress t).did = s.did := rfl

/-! ### advance -/

@[simp] theorem State.advance_mem (t : PTile) (e : Eng) (n : Nat) (k : Bool) : (s.advance t e n k).mem = s.mem := rfl
@[simp] theorem State.advance_poison (t : PTile) (e : Eng) (n : Nat) (k : Bool) : (s.advance t e n k).poison = s.poison := rfl
@[simp] theorem State.advance_toReport (t : PTile) (e : Eng) (n : Nat) (k : Bool) : (s.advance t e n k).toReport = s.toReport := rfl
@[simp] theorem State.advance_hdm (t : PTile) (e : Eng) (n : Nat) (k : Bool) : (s.advance t e n k).hdm = s.hdm := rfl
@[simp] theorem State.advance_dir (t : PTile) (e : Eng) (n : Nat) (k : Bool) : (s.advance t e n k).dir = s.dir := rfl
@[simp] theorem State.advance_past (t : PTile) (e : Eng) (n : Nat) (k : Bool) : (s.advance t e n k).past = s.past := rfl
@[simp] theorem State.advance_die0 (t : PTile) (e : Eng) (n : Nat) (k : Bool) : (s.advance t e n k).die0 = s.die0 := rfl
@[simp] theorem State.advance_die1 (t : PTile) (e : Eng) (n : Nat) (k : Bool) : (s.advance t e n k).die1 = s.die1 := rfl
@[simp] theorem State.advance_ctxs (t : PTile) (e : Eng) (n : Nat) (k : Bool) : (s.advance t e n k).ctxs = s.ctxs := rfl
@[simp] theorem State.advance_ns9 (t : PTile) (e : Eng) (n : Nat) (k : Bool) : (s.advance t e n k).ns9 = s.ns9 := rfl
@[simp] theorem State.advance_bootsrc (t : PTile) (e : Eng) (n : Nat) (k : Bool) : (s.advance t e n k).bootsrc = s.bootsrc := rfl
@[simp] theorem State.advance_epoch (t : PTile) (e : Eng) (n : Nat) (k : Bool) : (s.advance t e n k).epoch = s.epoch := rfl
@[simp] theorem State.advance_primary (t : PTile) (e : Eng) (n : Nat) (k : Bool) : (s.advance t e n k).primary = s.primary := rfl
@[simp] theorem State.advance_cmdbase (t : PTile) (e : Eng) (n : Nat) (k : Bool) : (s.advance t e n k).cmdbase = s.cmdbase := rfl
@[simp] theorem State.advance_cmdlog2 (t : PTile) (e : Eng) (n : Nat) (k : Bool) : (s.advance t e n k).cmdlog2 = s.cmdlog2 := rfl
@[simp] theorem State.advance_cmdhead (t : PTile) (e : Eng) (n : Nat) (k : Bool) : (s.advance t e n k).cmdhead = s.cmdhead := rfl
@[simp] theorem State.advance_cmdtail (t : PTile) (e : Eng) (n : Nat) (k : Bool) : (s.advance t e n k).cmdtail = s.cmdtail := rfl
@[simp] theorem State.advance_cplbase (t : PTile) (e : Eng) (n : Nat) (k : Bool) : (s.advance t e n k).cplbase = s.cplbase := rfl
@[simp] theorem State.advance_cpllog2 (t : PTile) (e : Eng) (n : Nat) (k : Bool) : (s.advance t e n k).cpllog2 = s.cpllog2 := rfl
@[simp] theorem State.advance_cplprod (t : PTile) (e : Eng) (n : Nat) (k : Bool) : (s.advance t e n k).cplprod = s.cplprod := rfl
@[simp] theorem State.advance_cplcons (t : PTile) (e : Eng) (n : Nat) (k : Bool) : (s.advance t e n k).cplcons = s.cplcons := rfl
@[simp] theorem State.advance_cplWait (t : PTile) (e : Eng) (n : Nat) (k : Bool) : (s.advance t e n k).cplWait = s.cplWait := rfl
@[simp] theorem State.advance_powWait (t : PTile) (e : Eng) (n : Nat) (k : Bool) : (s.advance t e n k).powWait = s.powWait := rfl
@[simp] theorem State.advance_settWait (t : PTile) (e : Eng) (n : Nat) (k : Bool) : (s.advance t e n k).settWait = s.settWait := rfl
@[simp] theorem State.advance_trapRings (t : PTile) (e : Eng) (n : Nat) (k : Bool) : (s.advance t e n k).trapRings = s.trapRings := rfl
@[simp] theorem State.advance_recvRings (t : PTile) (e : Eng) (n : Nat) (k : Bool) : (s.advance t e n k).recvRings = s.recvRings := rfl
@[simp] theorem State.advance_sumseq (t : PTile) (e : Eng) (n : Nat) (k : Bool) : (s.advance t e n k).sumseq = s.sumseq := rfl
@[simp] theorem State.advance_sumlast (t : PTile) (e : Eng) (n : Nat) (k : Bool) : (s.advance t e n k).sumlast = s.sumlast := rfl
@[simp] theorem State.advance_sumnack (t : PTile) (e : Eng) (n : Nat) (k : Bool) : (s.advance t e n k).sumnack = s.sumnack := rfl
@[simp] theorem State.advance_islands (t : PTile) (e : Eng) (n : Nat) (k : Bool) : (s.advance t e n k).islands = s.islands := rfl
@[simp] theorem State.advance_therm (t : PTile) (e : Eng) (n : Nat) (k : Bool) : (s.advance t e n k).therm = s.therm := rfl
@[simp] theorem State.advance_sensors (t : PTile) (e : Eng) (n : Nat) (k : Bool) : (s.advance t e n k).sensors = s.sensors := rfl
@[simp] theorem State.advance_node (t : PTile) (e : Eng) (n : Nat) (k : Bool) : (s.advance t e n k).node = s.node := rfl
@[simp] theorem State.advance_links (t : PTile) (e : Eng) (n : Nat) (k : Bool) : (s.advance t e n k).links = s.links := rfl
@[simp] theorem State.advance_mgmtkey (t : PTile) (e : Eng) (n : Nat) (k : Bool) : (s.advance t e n k).mgmtkey = s.mgmtkey := rfl
@[simp] theorem State.advance_mgmtset (t : PTile) (e : Eng) (n : Nat) (k : Bool) : (s.advance t e n k).mgmtset = s.mgmtset := rfl
@[simp] theorem State.advance_slices (t : PTile) (e : Eng) (n : Nat) (k : Bool) : (s.advance t e n k).slices = s.slices := rfl
@[simp] theorem State.advance_slhead (t : PTile) (e : Eng) (n : Nat) (k : Bool) : (s.advance t e n k).slhead = s.slhead := rfl
@[simp] theorem State.advance_sltail (t : PTile) (e : Eng) (n : Nat) (k : Bool) : (s.advance t e n k).sltail = s.sltail := rfl
@[simp] theorem State.advance_slskip (t : PTile) (e : Eng) (n : Nat) (k : Bool) : (s.advance t e n k).slskip = s.slskip := rfl
@[simp] theorem State.advance_fwver (t : PTile) (e : Eng) (n : Nat) (k : Bool) : (s.advance t e n k).fwver = s.fwver := rfl
@[simp] theorem State.advance_credits (t : PTile) (e : Eng) (n : Nat) (k : Bool) : (s.advance t e n k).credits = s.credits := rfl
@[simp] theorem State.advance_flying (t : PTile) (e : Eng) (n : Nat) (k : Bool) : (s.advance t e n k).flying = s.flying := rfl
@[simp] theorem State.advance_arrivals (t : PTile) (e : Eng) (n : Nat) (k : Bool) : (s.advance t e n k).arrivals = s.arrivals := rfl
@[simp] theorem State.advance_redvs (t : PTile) (e : Eng) (n : Nat) (k : Bool) : (s.advance t e n k).redvs = s.redvs := rfl
@[simp] theorem State.advance_sent (t : PTile) (e : Eng) (n : Nat) (k : Bool) : (s.advance t e n k).sent = s.sent := rfl
@[simp] theorem State.advance_cur (t : PTile) (e : Eng) (n : Nat) (k : Bool) : (s.advance t e n k).cur = s.cur := rfl
@[simp] theorem State.advance_sched (t : PTile) (e : Eng) (n : Nat) (k : Bool) : (s.advance t e n k).sched = s.sched := rfl
@[simp] theorem State.advance_fresh (t : PTile) (e : Eng) (n : Nat) (k : Bool) : (s.advance t e n k).fresh = s.fresh := rfl
@[simp] theorem State.advance_did (t : PTile) (e : Eng) (n : Nat) (k : Bool) : (s.advance t e n k).did = s.did := rfl

/-! ### goTo -/

@[simp] theorem State.goTo_mem (t : PTile) (e : Eng) (n : Nat) (p : Pc) : (s.goTo t e n p).mem = s.mem := rfl
@[simp] theorem State.goTo_poison (t : PTile) (e : Eng) (n : Nat) (p : Pc) : (s.goTo t e n p).poison = s.poison := rfl
@[simp] theorem State.goTo_toReport (t : PTile) (e : Eng) (n : Nat) (p : Pc) : (s.goTo t e n p).toReport = s.toReport := rfl
@[simp] theorem State.goTo_hdm (t : PTile) (e : Eng) (n : Nat) (p : Pc) : (s.goTo t e n p).hdm = s.hdm := rfl
@[simp] theorem State.goTo_dir (t : PTile) (e : Eng) (n : Nat) (p : Pc) : (s.goTo t e n p).dir = s.dir := rfl
@[simp] theorem State.goTo_past (t : PTile) (e : Eng) (n : Nat) (p : Pc) : (s.goTo t e n p).past = s.past := rfl
@[simp] theorem State.goTo_die0 (t : PTile) (e : Eng) (n : Nat) (p : Pc) : (s.goTo t e n p).die0 = s.die0 := rfl
@[simp] theorem State.goTo_die1 (t : PTile) (e : Eng) (n : Nat) (p : Pc) : (s.goTo t e n p).die1 = s.die1 := rfl
@[simp] theorem State.goTo_ctxs (t : PTile) (e : Eng) (n : Nat) (p : Pc) : (s.goTo t e n p).ctxs = s.ctxs := rfl
@[simp] theorem State.goTo_ns9 (t : PTile) (e : Eng) (n : Nat) (p : Pc) : (s.goTo t e n p).ns9 = s.ns9 := rfl
@[simp] theorem State.goTo_bootsrc (t : PTile) (e : Eng) (n : Nat) (p : Pc) : (s.goTo t e n p).bootsrc = s.bootsrc := rfl
@[simp] theorem State.goTo_epoch (t : PTile) (e : Eng) (n : Nat) (p : Pc) : (s.goTo t e n p).epoch = s.epoch := rfl
@[simp] theorem State.goTo_primary (t : PTile) (e : Eng) (n : Nat) (p : Pc) : (s.goTo t e n p).primary = s.primary := rfl
@[simp] theorem State.goTo_cmdbase (t : PTile) (e : Eng) (n : Nat) (p : Pc) : (s.goTo t e n p).cmdbase = s.cmdbase := rfl
@[simp] theorem State.goTo_cmdlog2 (t : PTile) (e : Eng) (n : Nat) (p : Pc) : (s.goTo t e n p).cmdlog2 = s.cmdlog2 := rfl
@[simp] theorem State.goTo_cmdhead (t : PTile) (e : Eng) (n : Nat) (p : Pc) : (s.goTo t e n p).cmdhead = s.cmdhead := rfl
@[simp] theorem State.goTo_cmdtail (t : PTile) (e : Eng) (n : Nat) (p : Pc) : (s.goTo t e n p).cmdtail = s.cmdtail := rfl
@[simp] theorem State.goTo_cplbase (t : PTile) (e : Eng) (n : Nat) (p : Pc) : (s.goTo t e n p).cplbase = s.cplbase := rfl
@[simp] theorem State.goTo_cpllog2 (t : PTile) (e : Eng) (n : Nat) (p : Pc) : (s.goTo t e n p).cpllog2 = s.cpllog2 := rfl
@[simp] theorem State.goTo_cplprod (t : PTile) (e : Eng) (n : Nat) (p : Pc) : (s.goTo t e n p).cplprod = s.cplprod := rfl
@[simp] theorem State.goTo_cplcons (t : PTile) (e : Eng) (n : Nat) (p : Pc) : (s.goTo t e n p).cplcons = s.cplcons := rfl
@[simp] theorem State.goTo_cplWait (t : PTile) (e : Eng) (n : Nat) (p : Pc) : (s.goTo t e n p).cplWait = s.cplWait := rfl
@[simp] theorem State.goTo_powWait (t : PTile) (e : Eng) (n : Nat) (p : Pc) : (s.goTo t e n p).powWait = s.powWait := rfl
@[simp] theorem State.goTo_settWait (t : PTile) (e : Eng) (n : Nat) (p : Pc) : (s.goTo t e n p).settWait = s.settWait := rfl
@[simp] theorem State.goTo_trapRings (t : PTile) (e : Eng) (n : Nat) (p : Pc) : (s.goTo t e n p).trapRings = s.trapRings := rfl
@[simp] theorem State.goTo_recvRings (t : PTile) (e : Eng) (n : Nat) (p : Pc) : (s.goTo t e n p).recvRings = s.recvRings := rfl
@[simp] theorem State.goTo_sumseq (t : PTile) (e : Eng) (n : Nat) (p : Pc) : (s.goTo t e n p).sumseq = s.sumseq := rfl
@[simp] theorem State.goTo_sumlast (t : PTile) (e : Eng) (n : Nat) (p : Pc) : (s.goTo t e n p).sumlast = s.sumlast := rfl
@[simp] theorem State.goTo_sumnack (t : PTile) (e : Eng) (n : Nat) (p : Pc) : (s.goTo t e n p).sumnack = s.sumnack := rfl
@[simp] theorem State.goTo_islands (t : PTile) (e : Eng) (n : Nat) (p : Pc) : (s.goTo t e n p).islands = s.islands := rfl
@[simp] theorem State.goTo_therm (t : PTile) (e : Eng) (n : Nat) (p : Pc) : (s.goTo t e n p).therm = s.therm := rfl
@[simp] theorem State.goTo_sensors (t : PTile) (e : Eng) (n : Nat) (p : Pc) : (s.goTo t e n p).sensors = s.sensors := rfl
@[simp] theorem State.goTo_node (t : PTile) (e : Eng) (n : Nat) (p : Pc) : (s.goTo t e n p).node = s.node := rfl
@[simp] theorem State.goTo_links (t : PTile) (e : Eng) (n : Nat) (p : Pc) : (s.goTo t e n p).links = s.links := rfl
@[simp] theorem State.goTo_mgmtkey (t : PTile) (e : Eng) (n : Nat) (p : Pc) : (s.goTo t e n p).mgmtkey = s.mgmtkey := rfl
@[simp] theorem State.goTo_mgmtset (t : PTile) (e : Eng) (n : Nat) (p : Pc) : (s.goTo t e n p).mgmtset = s.mgmtset := rfl
@[simp] theorem State.goTo_slices (t : PTile) (e : Eng) (n : Nat) (p : Pc) : (s.goTo t e n p).slices = s.slices := rfl
@[simp] theorem State.goTo_slhead (t : PTile) (e : Eng) (n : Nat) (p : Pc) : (s.goTo t e n p).slhead = s.slhead := rfl
@[simp] theorem State.goTo_sltail (t : PTile) (e : Eng) (n : Nat) (p : Pc) : (s.goTo t e n p).sltail = s.sltail := rfl
@[simp] theorem State.goTo_slskip (t : PTile) (e : Eng) (n : Nat) (p : Pc) : (s.goTo t e n p).slskip = s.slskip := rfl
@[simp] theorem State.goTo_fwver (t : PTile) (e : Eng) (n : Nat) (p : Pc) : (s.goTo t e n p).fwver = s.fwver := rfl
@[simp] theorem State.goTo_credits (t : PTile) (e : Eng) (n : Nat) (p : Pc) : (s.goTo t e n p).credits = s.credits := rfl
@[simp] theorem State.goTo_flying (t : PTile) (e : Eng) (n : Nat) (p : Pc) : (s.goTo t e n p).flying = s.flying := rfl
@[simp] theorem State.goTo_arrivals (t : PTile) (e : Eng) (n : Nat) (p : Pc) : (s.goTo t e n p).arrivals = s.arrivals := rfl
@[simp] theorem State.goTo_redvs (t : PTile) (e : Eng) (n : Nat) (p : Pc) : (s.goTo t e n p).redvs = s.redvs := rfl
@[simp] theorem State.goTo_sent (t : PTile) (e : Eng) (n : Nat) (p : Pc) : (s.goTo t e n p).sent = s.sent := rfl
@[simp] theorem State.goTo_cur (t : PTile) (e : Eng) (n : Nat) (p : Pc) : (s.goTo t e n p).cur = s.cur := rfl
@[simp] theorem State.goTo_sched (t : PTile) (e : Eng) (n : Nat) (p : Pc) : (s.goTo t e n p).sched = s.sched := rfl
@[simp] theorem State.goTo_fresh (t : PTile) (e : Eng) (n : Nat) (p : Pc) : (s.goTo t e n p).fresh = s.fresh := rfl
@[simp] theorem State.goTo_did (t : PTile) (e : Eng) (n : Nat) (p : Pc) : (s.goTo t e n p).did = s.did := rfl

/-! ### stand -/

@[simp] theorem State.stand_mem (t : PTile) (e : Eng) : (s.stand t e).mem = s.mem := rfl
@[simp] theorem State.stand_poison (t : PTile) (e : Eng) : (s.stand t e).poison = s.poison := rfl
@[simp] theorem State.stand_toReport (t : PTile) (e : Eng) : (s.stand t e).toReport = s.toReport := rfl
@[simp] theorem State.stand_hdm (t : PTile) (e : Eng) : (s.stand t e).hdm = s.hdm := rfl
@[simp] theorem State.stand_dir (t : PTile) (e : Eng) : (s.stand t e).dir = s.dir := rfl
@[simp] theorem State.stand_past (t : PTile) (e : Eng) : (s.stand t e).past = s.past := rfl
@[simp] theorem State.stand_die0 (t : PTile) (e : Eng) : (s.stand t e).die0 = s.die0 := rfl
@[simp] theorem State.stand_die1 (t : PTile) (e : Eng) : (s.stand t e).die1 = s.die1 := rfl
@[simp] theorem State.stand_ctxs (t : PTile) (e : Eng) : (s.stand t e).ctxs = s.ctxs := rfl
@[simp] theorem State.stand_ns9 (t : PTile) (e : Eng) : (s.stand t e).ns9 = s.ns9 := rfl
@[simp] theorem State.stand_bootsrc (t : PTile) (e : Eng) : (s.stand t e).bootsrc = s.bootsrc := rfl
@[simp] theorem State.stand_epoch (t : PTile) (e : Eng) : (s.stand t e).epoch = s.epoch := rfl
@[simp] theorem State.stand_primary (t : PTile) (e : Eng) : (s.stand t e).primary = s.primary := rfl
@[simp] theorem State.stand_cmdbase (t : PTile) (e : Eng) : (s.stand t e).cmdbase = s.cmdbase := rfl
@[simp] theorem State.stand_cmdlog2 (t : PTile) (e : Eng) : (s.stand t e).cmdlog2 = s.cmdlog2 := rfl
@[simp] theorem State.stand_cmdhead (t : PTile) (e : Eng) : (s.stand t e).cmdhead = s.cmdhead := rfl
@[simp] theorem State.stand_cmdtail (t : PTile) (e : Eng) : (s.stand t e).cmdtail = s.cmdtail := rfl
@[simp] theorem State.stand_cplbase (t : PTile) (e : Eng) : (s.stand t e).cplbase = s.cplbase := rfl
@[simp] theorem State.stand_cpllog2 (t : PTile) (e : Eng) : (s.stand t e).cpllog2 = s.cpllog2 := rfl
@[simp] theorem State.stand_cplprod (t : PTile) (e : Eng) : (s.stand t e).cplprod = s.cplprod := rfl
@[simp] theorem State.stand_cplcons (t : PTile) (e : Eng) : (s.stand t e).cplcons = s.cplcons := rfl
@[simp] theorem State.stand_cplWait (t : PTile) (e : Eng) : (s.stand t e).cplWait = s.cplWait := rfl
@[simp] theorem State.stand_powWait (t : PTile) (e : Eng) : (s.stand t e).powWait = s.powWait := rfl
@[simp] theorem State.stand_settWait (t : PTile) (e : Eng) : (s.stand t e).settWait = s.settWait := rfl
@[simp] theorem State.stand_trapRings (t : PTile) (e : Eng) : (s.stand t e).trapRings = s.trapRings := rfl
@[simp] theorem State.stand_recvRings (t : PTile) (e : Eng) : (s.stand t e).recvRings = s.recvRings := rfl
@[simp] theorem State.stand_sumseq (t : PTile) (e : Eng) : (s.stand t e).sumseq = s.sumseq := rfl
@[simp] theorem State.stand_sumlast (t : PTile) (e : Eng) : (s.stand t e).sumlast = s.sumlast := rfl
@[simp] theorem State.stand_sumnack (t : PTile) (e : Eng) : (s.stand t e).sumnack = s.sumnack := rfl
@[simp] theorem State.stand_islands (t : PTile) (e : Eng) : (s.stand t e).islands = s.islands := rfl
@[simp] theorem State.stand_therm (t : PTile) (e : Eng) : (s.stand t e).therm = s.therm := rfl
@[simp] theorem State.stand_sensors (t : PTile) (e : Eng) : (s.stand t e).sensors = s.sensors := rfl
@[simp] theorem State.stand_node (t : PTile) (e : Eng) : (s.stand t e).node = s.node := rfl
@[simp] theorem State.stand_links (t : PTile) (e : Eng) : (s.stand t e).links = s.links := rfl
@[simp] theorem State.stand_mgmtkey (t : PTile) (e : Eng) : (s.stand t e).mgmtkey = s.mgmtkey := rfl
@[simp] theorem State.stand_mgmtset (t : PTile) (e : Eng) : (s.stand t e).mgmtset = s.mgmtset := rfl
@[simp] theorem State.stand_slices (t : PTile) (e : Eng) : (s.stand t e).slices = s.slices := rfl
@[simp] theorem State.stand_slhead (t : PTile) (e : Eng) : (s.stand t e).slhead = s.slhead := rfl
@[simp] theorem State.stand_sltail (t : PTile) (e : Eng) : (s.stand t e).sltail = s.sltail := rfl
@[simp] theorem State.stand_slskip (t : PTile) (e : Eng) : (s.stand t e).slskip = s.slskip := rfl
@[simp] theorem State.stand_fwver (t : PTile) (e : Eng) : (s.stand t e).fwver = s.fwver := rfl
@[simp] theorem State.stand_credits (t : PTile) (e : Eng) : (s.stand t e).credits = s.credits := rfl
@[simp] theorem State.stand_flying (t : PTile) (e : Eng) : (s.stand t e).flying = s.flying := rfl
@[simp] theorem State.stand_arrivals (t : PTile) (e : Eng) : (s.stand t e).arrivals = s.arrivals := rfl
@[simp] theorem State.stand_redvs (t : PTile) (e : Eng) : (s.stand t e).redvs = s.redvs := rfl
@[simp] theorem State.stand_sent (t : PTile) (e : Eng) : (s.stand t e).sent = s.sent := rfl
@[simp] theorem State.stand_cur (t : PTile) (e : Eng) : (s.stand t e).cur = s.cur := rfl
@[simp] theorem State.stand_sched (t : PTile) (e : Eng) : (s.stand t e).sched = s.sched := rfl
@[simp] theorem State.stand_fresh (t : PTile) (e : Eng) : (s.stand t e).fresh = s.fresh := rfl
@[simp] theorem State.stand_did (t : PTile) (e : Eng) : (s.stand t e).did = s.did := rfl

/-! ### pause -/

@[simp] theorem State.pause_mem (t : PTile) (e : Eng) : (s.pause t e).mem = s.mem := rfl
@[simp] theorem State.pause_poison (t : PTile) (e : Eng) : (s.pause t e).poison = s.poison := rfl
@[simp] theorem State.pause_toReport (t : PTile) (e : Eng) : (s.pause t e).toReport = s.toReport := rfl
@[simp] theorem State.pause_hdm (t : PTile) (e : Eng) : (s.pause t e).hdm = s.hdm := rfl
@[simp] theorem State.pause_dir (t : PTile) (e : Eng) : (s.pause t e).dir = s.dir := rfl
@[simp] theorem State.pause_past (t : PTile) (e : Eng) : (s.pause t e).past = s.past := rfl
@[simp] theorem State.pause_die0 (t : PTile) (e : Eng) : (s.pause t e).die0 = s.die0 := rfl
@[simp] theorem State.pause_die1 (t : PTile) (e : Eng) : (s.pause t e).die1 = s.die1 := rfl
@[simp] theorem State.pause_ctxs (t : PTile) (e : Eng) : (s.pause t e).ctxs = s.ctxs := rfl
@[simp] theorem State.pause_ns9 (t : PTile) (e : Eng) : (s.pause t e).ns9 = s.ns9 := rfl
@[simp] theorem State.pause_bootsrc (t : PTile) (e : Eng) : (s.pause t e).bootsrc = s.bootsrc := rfl
@[simp] theorem State.pause_epoch (t : PTile) (e : Eng) : (s.pause t e).epoch = s.epoch := rfl
@[simp] theorem State.pause_primary (t : PTile) (e : Eng) : (s.pause t e).primary = s.primary := rfl
@[simp] theorem State.pause_cmdbase (t : PTile) (e : Eng) : (s.pause t e).cmdbase = s.cmdbase := rfl
@[simp] theorem State.pause_cmdlog2 (t : PTile) (e : Eng) : (s.pause t e).cmdlog2 = s.cmdlog2 := rfl
@[simp] theorem State.pause_cmdhead (t : PTile) (e : Eng) : (s.pause t e).cmdhead = s.cmdhead := rfl
@[simp] theorem State.pause_cmdtail (t : PTile) (e : Eng) : (s.pause t e).cmdtail = s.cmdtail := rfl
@[simp] theorem State.pause_cplbase (t : PTile) (e : Eng) : (s.pause t e).cplbase = s.cplbase := rfl
@[simp] theorem State.pause_cpllog2 (t : PTile) (e : Eng) : (s.pause t e).cpllog2 = s.cpllog2 := rfl
@[simp] theorem State.pause_cplprod (t : PTile) (e : Eng) : (s.pause t e).cplprod = s.cplprod := rfl
@[simp] theorem State.pause_cplcons (t : PTile) (e : Eng) : (s.pause t e).cplcons = s.cplcons := rfl
@[simp] theorem State.pause_cplWait (t : PTile) (e : Eng) : (s.pause t e).cplWait = s.cplWait := rfl
@[simp] theorem State.pause_powWait (t : PTile) (e : Eng) : (s.pause t e).powWait = s.powWait := rfl
@[simp] theorem State.pause_settWait (t : PTile) (e : Eng) : (s.pause t e).settWait = s.settWait := rfl
@[simp] theorem State.pause_trapRings (t : PTile) (e : Eng) : (s.pause t e).trapRings = s.trapRings := rfl
@[simp] theorem State.pause_recvRings (t : PTile) (e : Eng) : (s.pause t e).recvRings = s.recvRings := rfl
@[simp] theorem State.pause_sumseq (t : PTile) (e : Eng) : (s.pause t e).sumseq = s.sumseq := rfl
@[simp] theorem State.pause_sumlast (t : PTile) (e : Eng) : (s.pause t e).sumlast = s.sumlast := rfl
@[simp] theorem State.pause_sumnack (t : PTile) (e : Eng) : (s.pause t e).sumnack = s.sumnack := rfl
@[simp] theorem State.pause_islands (t : PTile) (e : Eng) : (s.pause t e).islands = s.islands := rfl
@[simp] theorem State.pause_therm (t : PTile) (e : Eng) : (s.pause t e).therm = s.therm := rfl
@[simp] theorem State.pause_sensors (t : PTile) (e : Eng) : (s.pause t e).sensors = s.sensors := rfl
@[simp] theorem State.pause_node (t : PTile) (e : Eng) : (s.pause t e).node = s.node := rfl
@[simp] theorem State.pause_links (t : PTile) (e : Eng) : (s.pause t e).links = s.links := rfl
@[simp] theorem State.pause_mgmtkey (t : PTile) (e : Eng) : (s.pause t e).mgmtkey = s.mgmtkey := rfl
@[simp] theorem State.pause_mgmtset (t : PTile) (e : Eng) : (s.pause t e).mgmtset = s.mgmtset := rfl
@[simp] theorem State.pause_slices (t : PTile) (e : Eng) : (s.pause t e).slices = s.slices := rfl
@[simp] theorem State.pause_slhead (t : PTile) (e : Eng) : (s.pause t e).slhead = s.slhead := rfl
@[simp] theorem State.pause_sltail (t : PTile) (e : Eng) : (s.pause t e).sltail = s.sltail := rfl
@[simp] theorem State.pause_slskip (t : PTile) (e : Eng) : (s.pause t e).slskip = s.slskip := rfl
@[simp] theorem State.pause_fwver (t : PTile) (e : Eng) : (s.pause t e).fwver = s.fwver := rfl
@[simp] theorem State.pause_credits (t : PTile) (e : Eng) : (s.pause t e).credits = s.credits := rfl
@[simp] theorem State.pause_flying (t : PTile) (e : Eng) : (s.pause t e).flying = s.flying := rfl
@[simp] theorem State.pause_arrivals (t : PTile) (e : Eng) : (s.pause t e).arrivals = s.arrivals := rfl
@[simp] theorem State.pause_redvs (t : PTile) (e : Eng) : (s.pause t e).redvs = s.redvs := rfl
@[simp] theorem State.pause_sent (t : PTile) (e : Eng) : (s.pause t e).sent = s.sent := rfl
@[simp] theorem State.pause_cur (t : PTile) (e : Eng) : (s.pause t e).cur = s.cur := rfl
@[simp] theorem State.pause_sched (t : PTile) (e : Eng) : (s.pause t e).sched = s.sched := rfl
@[simp] theorem State.pause_fresh (t : PTile) (e : Eng) : (s.pause t e).fresh = s.fresh := rfl
@[simp] theorem State.pause_did (t : PTile) (e : Eng) : (s.pause t e).did = s.did := rfl

/-! ### What the changed unit reads as -/

theorem State.tile_setTile (t q : PTile) (x : Tile) : (s.setTile t x).tile q = if q = t then x else s.tile q := by
  simp only [State.tile, State.setTile, aget_aset]
  by_cases h : q = t
  · simp [h]
  · have : q.toNat ≠ t.toNat := fun e => h (BitVec.eq_of_toNat_eq e)
    simp [h, this]

theorem State.tile_modTile (t q : PTile) (f : Tile → Tile) :
    (s.modTile t f).tile q = if q = t then f (s.tile t) else s.tile q := by simp [State.modTile, State.tile_setTile]

theorem State.tile_modTc (t q : PTile) (f : TCtx → TCtx) :
    (s.modTc t f).tile q = if q = t then { s.tile t with tc := f (s.tc t) } else s.tile q := by
  simp [State.modTc, State.tile_modTile, State.tc]

@[simp] theorem State.tc_modTc_same (t : PTile) (f : TCtx → TCtx) : (s.modTc t f).tc t = f (s.tc t) := by
  simp [State.tc, State.tile_modTc]

theorem State.tc_modTc (t q : PTile) (f : TCtx → TCtx) : (s.modTc t f).tc q = if q = t then f (s.tc t) else s.tc q := by
  by_cases h : q = t <;> simp [State.tc, State.tile_modTc, h]

theorem State.ctx_modCtx (c k : Ctx) (f : Context → Context) :
    (s.modCtx c f).ctx k = if k = c then f (s.ctx c) else s.ctx k := by
  simp only [State.ctx, State.modCtx, aget_aset]
  by_cases h : k = c
  · simp [h]
  · have : k.toNat ≠ c.toNat := fun e => h (BitVec.eq_of_toNat_eq e)
    simp [h, this]

theorem State.die_modDie (d e : Bool) (f : Die → Die) : (s.modDie d f).die e = if e = d then f (s.die d) else s.die e := by
  cases d <;> cases e <;> rfl

theorem State.mbox_modMbox (c : Ctx) (m n : Nat) (f : Mailbox → Mailbox) :
    (s.modMbox c m f).mbox c n = if n = m then f (s.mbox c m) else s.mbox c n := by
  simp only [State.mbox, State.modMbox, State.ctx_modCtx, if_true, aget_aset]
  by_cases h : n = m <;> simp [h]

theorem State.wvt_modWvt (c : Ctx) (m n : Nat) (f : Wvt → Wvt) :
    (s.modWvt c m f).wvt c n = if n = m then f (s.wvt c m) else s.wvt c n := by
  simp only [State.wvt, State.modWvt, State.ctx_modCtx, if_true, aget_aset]
  by_cases h : n = m <;> simp [h]

theorem State.queue_modQueue (d : Bool) (m n : Nat) (f : Queue → Queue) :
    (s.modQueue d m f).queue d n = if n = m then f (s.queue d m) else s.queue d n := by
  simp only [State.queue, State.modQueue, State.die_modDie, if_true, aget_aset]
  by_cases h : n = m <;> simp [h]

theorem State.group_modGroup (d : Bool) (m n : Nat) (f : Group → Group) :
    (s.modGroup d m f).group d n = if n = m then f (s.group d m) else s.group d n := by
  simp only [State.group, State.modGroup, State.die_modDie, if_true, aget_aset]
  by_cases h : n = m <;> simp [h]

theorem State.slot_modSlot (d : Bool) (m n : Nat) (f : TSlot → TSlot) :
    (s.modSlot d m f).slot d n = if n = m then (s.slot d m).map f else s.slot d n := by
  simp only [State.slot, State.modSlot, State.die_modDie, if_true]
  cases h : aget (s.die d).slots m with
  | none => by_cases e : n = m <;> simp [e, h]
  | some t => by_cases e : n = m <;> simp [e, aget_aset]

theorem State.tc_advance (t q : PTile) (e : Eng) (n : Nat) (k : Bool) : (s.advance t e n k).tc q =
    if q = t then (s.tc t).modEng e (fun g => { g.drop with
      pc := pcAdd g.pc n, waiting := false, meet := .none, mark := (s.tc t).seq
      parms := if e = .c then (s.tc t).parmsAfter g n else g.parms
      count := if k && !(s.tc t).inh then g.count + n else g.count })
    else s.tc q := by
  by_cases h : q = t
  · subst h
    simp only [State.advance, State.progress, State.tc, State.tile_modTile, State.tile_modTc, if_true]
  · simp [State.advance, State.progress, State.tc, State.tile_modTile, State.tile_modTc, h]

/-! ### Engines of a tile context -/

@[simp] theorem TCtx.eng_modEng_same (c : TCtx) (e : Eng) (f : Engine → Engine) : (c.modEng e f).eng e = f (c.eng e) := by
  cases e <;> rfl

theorem TCtx.eng_modEng_other (c : TCtx) (e g : Eng) (f : Engine → Engine) (h : g ≠ e) : (c.modEng e f).eng g = c.eng g := by
  cases e <;> cases g <;> first | rfl | exact absurd rfl h

@[simp] theorem TCtx.modEng_task (c : TCtx) (e : Eng) (f : Engine → Engine) : (c.modEng e f).task = c.task := by cases e <;> rfl
@[simp] theorem TCtx.modEng_qs (c : TCtx) (e : Eng) (f : Engine → Engine) : (c.modEng e f).qs = c.qs := by cases e <;> rfl
@[simp] theorem TCtx.modEng_cqc (c : TCtx) (e : Eng) (f : Engine → Engine) : (c.modEng e f).cqc = c.cqc := by cases e <;> rfl
@[simp] theorem TCtx.modEng_cqv (c : TCtx) (e : Eng) (f : Engine → Engine) : (c.modEng e f).cqv = c.cqv := by cases e <;> rfl
@[simp] theorem TCtx.modEng_lcs (c : TCtx) (e : Eng) (f : Engine → Engine) : (c.modEng e f).lcs = c.lcs := by cases e <;> rfl
@[simp] theorem TCtx.modEng_sp (c : TCtx) (e : Eng) (f : Engine → Engine) : (c.modEng e f).sp = c.sp := by cases e <;> rfl
@[simp] theorem TCtx.modEng_spbase (c : TCtx) (e : Eng) (f : Engine → Engine) : (c.modEng e f).spbase = c.spbase := by cases e <;> rfl
@[simp] theorem TCtx.modEng_splim (c : TCtx) (e : Eng) (f : Engine → Engine) : (c.modEng e f).splim = c.splim := by cases e <;> rfl
@[simp] theorem TCtx.modEng_win (c : TCtx) (e : Eng) (f : Engine → Engine) : (c.modEng e f).win = c.win := by cases e <;> rfl
@[simp] theorem TCtx.modEng_fills (c : TCtx) (e : Eng) (f : Engine → Engine) : (c.modEng e f).fills = c.fills := by cases e <;> rfl
@[simp] theorem TCtx.modEng_seq (c : TCtx) (e : Eng) (f : Engine → Engine) : (c.modEng e f).seq = c.seq := by cases e <;> rfl
@[simp] theorem TCtx.modEng_vregs (c : TCtx) (e : Eng) (f : Engine → Engine) : (c.modEng e f).vregs = c.vregs := by cases e <;> rfl
@[simp] theorem TCtx.modEng_masks (c : TCtx) (e : Eng) (f : Engine → Engine) : (c.modEng e f).masks = c.masks := by cases e <;> rfl
@[simp] theorem TCtx.modEng_vas (c : TCtx) (e : Eng) (f : Engine → Engine) : (c.modEng e f).vas = c.vas := by cases e <;> rfl
@[simp] theorem TCtx.modEng_feed (c : TCtx) (e : Eng) (f : Engine → Engine) : (c.modEng e f).feed = c.feed := by cases e <;> rfl
@[simp] theorem TCtx.modEng_vflags (c : TCtx) (e : Eng) (f : Engine → Engine) : (c.modEng e f).vflags = c.vflags := by cases e <;> rfl
@[simp] theorem TCtx.modEng_dbgpend (c : TCtx) (e : Eng) (f : Engine → Engine) : (c.modEng e f).dbgpend = c.dbgpend := by cases e <;> rfl
@[simp] theorem TCtx.modEng_tick (c : TCtx) (e : Eng) (f : Engine → Engine) : (c.modEng e f).tick = c.tick := by cases e <;> rfl
@[simp] theorem TCtx.modEng_pending (c : TCtx) (e : Eng) (f : Engine → Engine) : (c.modEng e f).pending = c.pending := by cases e <;> rfl
@[simp] theorem TCtx.modEng_vloads (c : TCtx) (e : Eng) (f : Engine → Engine) : (c.modEng e f).vloads = c.vloads := by cases e <;> rfl
@[simp] theorem TCtx.modEng_vstores (c : TCtx) (e : Eng) (f : Engine → Engine) : (c.modEng e f).vstores = c.vstores := by cases e <;> rfl
@[simp] theorem TCtx.modEng_mstack (c : TCtx) (e : Eng) (f : Engine → Engine) : (c.modEng e f).mstack = c.mstack := by cases e <;> rfl
@[simp] theorem TCtx.modEng_mq (c : TCtx) (e : Eng) (f : Engine → Engine) : (c.modEng e f).mq = c.mq := by cases e <;> rfl
@[simp] theorem TCtx.modEng_zs (c : TCtx) (e : Eng) (f : Engine → Engine) : (c.modEng e f).zs = c.zs := by cases e <;> rfl
@[simp] theorem TCtx.modEng_side (c : TCtx) (e : Eng) (f : Engine → Engine) : (c.modEng e f).side = c.side := by cases e <;> rfl
@[simp] theorem TCtx.modEng_heap (c : TCtx) (e : Eng) (f : Engine → Engine) : (c.modEng e f).heap = c.heap := by cases e <;> rfl
@[simp] theorem TCtx.modEng_drain (c : TCtx) (e : Eng) (f : Engine → Engine) : (c.modEng e f).drain = c.drain := by cases e <;> rfl
@[simp] theorem TCtx.modEng_late (c : TCtx) (e : Eng) (f : Engine → Engine) : (c.modEng e f).late = c.late := by cases e <;> rfl
@[simp] theorem TCtx.modEng_xstack (c : TCtx) (e : Eng) (f : Engine → Engine) : (c.modEng e f).xstack = c.xstack := by cases e <;> rfl
@[simp] theorem TCtx.modEng_xrecs (c : TCtx) (e : Eng) (f : Engine → Engine) : (c.modEng e f).xrecs = c.xrecs := by cases e <;> rfl
@[simp] theorem TCtx.modEng_xnum (c : TCtx) (e : Eng) (f : Engine → Engine) : (c.modEng e f).xnum = c.xnum := by cases e <;> rfl
@[simp] theorem TCtx.modEng_fabric (c : TCtx) (e : Eng) (f : Engine → Engine) : (c.modEng e f).fabric = c.fabric := by cases e <;> rfl
@[simp] theorem TCtx.modEng_scratch (c : TCtx) (e : Eng) (f : Engine → Engine) : (c.modEng e f).scratch = c.scratch := by cases e <;> rfl
@[simp] theorem TCtx.modEng_bfmt (c : TCtx) (e : Eng) (f : Engine → Engine) : (c.modEng e f).bfmt = c.bfmt := by cases e <;> rfl
@[simp] theorem TCtx.modEng_ts (c : TCtx) (e : Eng) (f : Engine → Engine) : (c.modEng e f).ts = c.ts := by cases e <;> rfl
@[simp] theorem TCtx.modEng_fails (c : TCtx) (e : Eng) (f : Engine → Engine) : (c.modEng e f).fails = c.fails := by cases e <;> rfl
@[simp] theorem TCtx.modEng_gslots (c : TCtx) (e : Eng) (f : Engine → Engine) : (c.modEng e f).gslots = c.gslots := by cases e <;> rfl
@[simp] theorem TCtx.modEng_gsync (c : TCtx) (e : Eng) (f : Engine → Engine) : (c.modEng e f).gsync = c.gsync := by cases e <;> rfl
@[simp] theorem TCtx.modEng_recStop (c : TCtx) (e : Eng) (f : Engine → Engine) : (c.modEng e f).recStop = c.recStop := by cases e <;> rfl
@[simp] theorem TCtx.modEng_inh (c : TCtx) (e : Eng) (f : Engine → Engine) : (c.modEng e f).inh = c.inh := by cases e <;> rfl
@[simp] theorem TCtx.modEng_dbl (c : TCtx) (e : Eng) (f : Engine → Engine) : (c.modEng e f).dbl = c.dbl := by cases e <;> rfl
@[simp] theorem TCtx.modEng_resumed (c : TCtx) (e : Eng) (f : Engine → Engine) : (c.modEng e f).resumed = c.resumed := by cases e <;> rfl
@[simp] theorem TCtx.modEng_wdraw (c : TCtx) (e : Eng) (f : Engine → Engine) : (c.modEng e f).wdraw = c.wdraw := by cases e <;> rfl
@[simp] theorem TCtx.modEng_tcause (c : TCtx) (e : Eng) (f : Engine → Engine) : (c.modEng e f).tcause = c.tcause := by cases e <;> rfl
@[simp] theorem TCtx.modEng_tepc (c : TCtx) (e : Eng) (f : Engine → Engine) : (c.modEng e f).tepc = c.tepc := by cases e <;> rfl
@[simp] theorem TCtx.modEng_teng (c : TCtx) (e : Eng) (f : Engine → Engine) : (c.modEng e f).teng = c.teng := by cases e <;> rfl
@[simp] theorem TCtx.modEng_tval (c : TCtx) (e : Eng) (f : Engine → Engine) : (c.modEng e f).tval = c.tval := by cases e <;> rfl
@[simp] theorem TCtx.modEng_tvec (c : TCtx) (e : Eng) (f : Engine → Engine) : (c.modEng e f).tvec = c.tvec := by cases e <;> rfl
@[simp] theorem TCtx.modEng_tcpc (c : TCtx) (e : Eng) (f : Engine → Engine) : (c.modEng e f).tcpc = c.tcpc := by cases e <;> rfl
@[simp] theorem TCtx.modEng_adVer (c : TCtx) (e : Eng) (f : Engine → Engine) : (c.modEng e f).adVer = c.adVer := by cases e <;> rfl
@[simp] theorem TCtx.modEng_adChg (c : TCtx) (e : Eng) (f : Engine → Engine) : (c.modEng e f).adChg = c.adChg := by cases e <;> rfl
@[simp] theorem TCtx.modEng_adPol (c : TCtx) (e : Eng) (f : Engine → Engine) : (c.modEng e f).adPol = c.adPol := by cases e <;> rfl
@[simp] theorem TCtx.modEng_adIdx (c : TCtx) (e : Eng) (f : Engine → Engine) : (c.modEng e f).adIdx = c.adIdx := by cases e <;> rfl
@[simp] theorem TCtx.modEng_ftbase (c : TCtx) (e : Eng) (f : Engine → Engine) : (c.modEng e f).ftbase = c.ftbase := by cases e <;> rfl
@[simp] theorem TCtx.modEng_nextf (c : TCtx) (e : Eng) (f : Engine → Engine) : (c.modEng e f).nextf = c.nextf := by cases e <;> rfl
@[simp] theorem TCtx.modEng_acptmap (c : TCtx) (e : Eng) (f : Engine → Engine) : (c.modEng e f).acptmap = c.acptmap := by cases e <;> rfl

/-! ### Queue registers of a tile context -/

@[simp] theorem TCtx.setQ_task (c : TCtx) (n : BitVec 4) (ss : List Slot) : (c.setQ n ss).task = c.task := rfl
@[simp] theorem TCtx.setQ_c (c : TCtx) (n : BitVec 4) (ss : List Slot) : (c.setQ n ss).c = c.c := rfl
@[simp] theorem TCtx.setQ_v (c : TCtx) (n : BitVec 4) (ss : List Slot) : (c.setQ n ss).v = c.v := rfl
@[simp] theorem TCtx.setQ_m (c : TCtx) (n : BitVec 4) (ss : List Slot) : (c.setQ n ss).m = c.m := rfl
@[simp] theorem TCtx.setQ_x (c : TCtx) (n : BitVec 4) (ss : List Slot) : (c.setQ n ss).x = c.x := rfl
@[simp] theorem TCtx.setQ_cqc (c : TCtx) (n : BitVec 4) (ss : List Slot) : (c.setQ n ss).cqc = c.cqc := rfl
@[simp] theorem TCtx.setQ_cqv (c : TCtx) (n : BitVec 4) (ss : List Slot) : (c.setQ n ss).cqv = c.cqv := rfl
@[simp] theorem TCtx.setQ_lcs (c : TCtx) (n : BitVec 4) (ss : List Slot) : (c.setQ n ss).lcs = c.lcs := rfl
@[simp] theorem TCtx.setQ_sp (c : TCtx) (n : BitVec 4) (ss : List Slot) : (c.setQ n ss).sp = c.sp := rfl
@[simp] theorem TCtx.setQ_spbase (c : TCtx) (n : BitVec 4) (ss : List Slot) : (c.setQ n ss).spbase = c.spbase := rfl
@[simp] theorem TCtx.setQ_splim (c : TCtx) (n : BitVec 4) (ss : List Slot) : (c.setQ n ss).splim = c.splim := rfl
@[simp] theorem TCtx.setQ_win (c : TCtx) (n : BitVec 4) (ss : List Slot) : (c.setQ n ss).win = c.win := rfl
@[simp] theorem TCtx.setQ_fills (c : TCtx) (n : BitVec 4) (ss : List Slot) : (c.setQ n ss).fills = c.fills := rfl
@[simp] theorem TCtx.setQ_seq (c : TCtx) (n : BitVec 4) (ss : List Slot) : (c.setQ n ss).seq = c.seq := rfl
@[simp] theorem TCtx.setQ_vregs (c : TCtx) (n : BitVec 4) (ss : List Slot) : (c.setQ n ss).vregs = c.vregs := rfl
@[simp] theorem TCtx.setQ_masks (c : TCtx) (n : BitVec 4) (ss : List Slot) : (c.setQ n ss).masks = c.masks := rfl
@[simp] theorem TCtx.setQ_vas (c : TCtx) (n : BitVec 4) (ss : List Slot) : (c.setQ n ss).vas = c.vas := rfl
@[simp] theorem TCtx.setQ_feed (c : TCtx) (n : BitVec 4) (ss : List Slot) : (c.setQ n ss).feed = c.feed := rfl
@[simp] theorem TCtx.setQ_vflags (c : TCtx) (n : BitVec 4) (ss : List Slot) : (c.setQ n ss).vflags = c.vflags := rfl
@[simp] theorem TCtx.setQ_dbgpend (c : TCtx) (n : BitVec 4) (ss : List Slot) : (c.setQ n ss).dbgpend = c.dbgpend := rfl
@[simp] theorem TCtx.setQ_tick (c : TCtx) (n : BitVec 4) (ss : List Slot) : (c.setQ n ss).tick = c.tick := rfl
@[simp] theorem TCtx.setQ_pending (c : TCtx) (n : BitVec 4) (ss : List Slot) : (c.setQ n ss).pending = c.pending := rfl
@[simp] theorem TCtx.setQ_vloads (c : TCtx) (n : BitVec 4) (ss : List Slot) : (c.setQ n ss).vloads = c.vloads := rfl
@[simp] theorem TCtx.setQ_vstores (c : TCtx) (n : BitVec 4) (ss : List Slot) : (c.setQ n ss).vstores = c.vstores := rfl
@[simp] theorem TCtx.setQ_mstack (c : TCtx) (n : BitVec 4) (ss : List Slot) : (c.setQ n ss).mstack = c.mstack := rfl
@[simp] theorem TCtx.setQ_mq (c : TCtx) (n : BitVec 4) (ss : List Slot) : (c.setQ n ss).mq = c.mq := rfl
@[simp] theorem TCtx.setQ_zs (c : TCtx) (n : BitVec 4) (ss : List Slot) : (c.setQ n ss).zs = c.zs := rfl
@[simp] theorem TCtx.setQ_side (c : TCtx) (n : BitVec 4) (ss : List Slot) : (c.setQ n ss).side = c.side := rfl
@[simp] theorem TCtx.setQ_heap (c : TCtx) (n : BitVec 4) (ss : List Slot) : (c.setQ n ss).heap = c.heap := rfl
@[simp] theorem TCtx.setQ_drain (c : TCtx) (n : BitVec 4) (ss : List Slot) : (c.setQ n ss).drain = c.drain := rfl
@[simp] theorem TCtx.setQ_late (c : TCtx) (n : BitVec 4) (ss : List Slot) : (c.setQ n ss).late = c.late := rfl
@[simp] theorem TCtx.setQ_xstack (c : TCtx) (n : BitVec 4) (ss : List Slot) : (c.setQ n ss).xstack = c.xstack := rfl
@[simp] theorem TCtx.setQ_xrecs (c : TCtx) (n : BitVec 4) (ss : List Slot) : (c.setQ n ss).xrecs = c.xrecs := rfl
@[simp] theorem TCtx.setQ_xnum (c : TCtx) (n : BitVec 4) (ss : List Slot) : (c.setQ n ss).xnum = c.xnum := rfl
@[simp] theorem TCtx.setQ_fabric (c : TCtx) (n : BitVec 4) (ss : List Slot) : (c.setQ n ss).fabric = c.fabric := rfl
@[simp] theorem TCtx.setQ_scratch (c : TCtx) (n : BitVec 4) (ss : List Slot) : (c.setQ n ss).scratch = c.scratch := rfl
@[simp] theorem TCtx.setQ_bfmt (c : TCtx) (n : BitVec 4) (ss : List Slot) : (c.setQ n ss).bfmt = c.bfmt := rfl
@[simp] theorem TCtx.setQ_ts (c : TCtx) (n : BitVec 4) (ss : List Slot) : (c.setQ n ss).ts = c.ts := rfl
@[simp] theorem TCtx.setQ_fails (c : TCtx) (n : BitVec 4) (ss : List Slot) : (c.setQ n ss).fails = c.fails := rfl
@[simp] theorem TCtx.setQ_gslots (c : TCtx) (n : BitVec 4) (ss : List Slot) : (c.setQ n ss).gslots = c.gslots := rfl
@[simp] theorem TCtx.setQ_gsync (c : TCtx) (n : BitVec 4) (ss : List Slot) : (c.setQ n ss).gsync = c.gsync := rfl
@[simp] theorem TCtx.setQ_recStop (c : TCtx) (n : BitVec 4) (ss : List Slot) : (c.setQ n ss).recStop = c.recStop := rfl
@[simp] theorem TCtx.setQ_inh (c : TCtx) (n : BitVec 4) (ss : List Slot) : (c.setQ n ss).inh = c.inh := rfl
@[simp] theorem TCtx.setQ_dbl (c : TCtx) (n : BitVec 4) (ss : List Slot) : (c.setQ n ss).dbl = c.dbl := rfl
@[simp] theorem TCtx.setQ_resumed (c : TCtx) (n : BitVec 4) (ss : List Slot) : (c.setQ n ss).resumed = c.resumed := rfl
@[simp] theorem TCtx.setQ_wdraw (c : TCtx) (n : BitVec 4) (ss : List Slot) : (c.setQ n ss).wdraw = c.wdraw := rfl
@[simp] theorem TCtx.setQ_tcause (c : TCtx) (n : BitVec 4) (ss : List Slot) : (c.setQ n ss).tcause = c.tcause := rfl
@[simp] theorem TCtx.setQ_tepc (c : TCtx) (n : BitVec 4) (ss : List Slot) : (c.setQ n ss).tepc = c.tepc := rfl
@[simp] theorem TCtx.setQ_teng (c : TCtx) (n : BitVec 4) (ss : List Slot) : (c.setQ n ss).teng = c.teng := rfl
@[simp] theorem TCtx.setQ_tval (c : TCtx) (n : BitVec 4) (ss : List Slot) : (c.setQ n ss).tval = c.tval := rfl
@[simp] theorem TCtx.setQ_tvec (c : TCtx) (n : BitVec 4) (ss : List Slot) : (c.setQ n ss).tvec = c.tvec := rfl
@[simp] theorem TCtx.setQ_tcpc (c : TCtx) (n : BitVec 4) (ss : List Slot) : (c.setQ n ss).tcpc = c.tcpc := rfl
@[simp] theorem TCtx.setQ_adVer (c : TCtx) (n : BitVec 4) (ss : List Slot) : (c.setQ n ss).adVer = c.adVer := rfl
@[simp] theorem TCtx.setQ_adChg (c : TCtx) (n : BitVec 4) (ss : List Slot) : (c.setQ n ss).adChg = c.adChg := rfl
@[simp] theorem TCtx.setQ_adPol (c : TCtx) (n : BitVec 4) (ss : List Slot) : (c.setQ n ss).adPol = c.adPol := rfl
@[simp] theorem TCtx.setQ_adIdx (c : TCtx) (n : BitVec 4) (ss : List Slot) : (c.setQ n ss).adIdx = c.adIdx := rfl
@[simp] theorem TCtx.setQ_ftbase (c : TCtx) (n : BitVec 4) (ss : List Slot) : (c.setQ n ss).ftbase = c.ftbase := rfl
@[simp] theorem TCtx.setQ_nextf (c : TCtx) (n : BitVec 4) (ss : List Slot) : (c.setQ n ss).nextf = c.nextf := rfl
@[simp] theorem TCtx.setQ_acptmap (c : TCtx) (n : BitVec 4) (ss : List Slot) : (c.setQ n ss).acptmap = c.acptmap := rfl

@[simp] theorem TCtx.pushQ_task (c : TCtx) (n : BitVec 4) (v : Dbl) : (c.pushQ n v).task = c.task := rfl
@[simp] theorem TCtx.pushQ_c (c : TCtx) (n : BitVec 4) (v : Dbl) : (c.pushQ n v).c = c.c := rfl
@[simp] theorem TCtx.pushQ_v (c : TCtx) (n : BitVec 4) (v : Dbl) : (c.pushQ n v).v = c.v := rfl
@[simp] theorem TCtx.pushQ_m (c : TCtx) (n : BitVec 4) (v : Dbl) : (c.pushQ n v).m = c.m := rfl
@[simp] theorem TCtx.pushQ_x (c : TCtx) (n : BitVec 4) (v : Dbl) : (c.pushQ n v).x = c.x := rfl
@[simp] theorem TCtx.pushQ_cqc (c : TCtx) (n : BitVec 4) (v : Dbl) : (c.pushQ n v).cqc = c.cqc := rfl
@[simp] theorem TCtx.pushQ_cqv (c : TCtx) (n : BitVec 4) (v : Dbl) : (c.pushQ n v).cqv = c.cqv := rfl
@[simp] theorem TCtx.pushQ_lcs (c : TCtx) (n : BitVec 4) (v : Dbl) : (c.pushQ n v).lcs = c.lcs := rfl
@[simp] theorem TCtx.pushQ_sp (c : TCtx) (n : BitVec 4) (v : Dbl) : (c.pushQ n v).sp = c.sp := rfl
@[simp] theorem TCtx.pushQ_spbase (c : TCtx) (n : BitVec 4) (v : Dbl) : (c.pushQ n v).spbase = c.spbase := rfl
@[simp] theorem TCtx.pushQ_splim (c : TCtx) (n : BitVec 4) (v : Dbl) : (c.pushQ n v).splim = c.splim := rfl
@[simp] theorem TCtx.pushQ_win (c : TCtx) (n : BitVec 4) (v : Dbl) : (c.pushQ n v).win = c.win := rfl
@[simp] theorem TCtx.pushQ_fills (c : TCtx) (n : BitVec 4) (v : Dbl) : (c.pushQ n v).fills = c.fills := rfl
@[simp] theorem TCtx.pushQ_seq (c : TCtx) (n : BitVec 4) (v : Dbl) : (c.pushQ n v).seq = c.seq := rfl
@[simp] theorem TCtx.pushQ_vregs (c : TCtx) (n : BitVec 4) (v : Dbl) : (c.pushQ n v).vregs = c.vregs := rfl
@[simp] theorem TCtx.pushQ_masks (c : TCtx) (n : BitVec 4) (v : Dbl) : (c.pushQ n v).masks = c.masks := rfl
@[simp] theorem TCtx.pushQ_vas (c : TCtx) (n : BitVec 4) (v : Dbl) : (c.pushQ n v).vas = c.vas := rfl
@[simp] theorem TCtx.pushQ_feed (c : TCtx) (n : BitVec 4) (v : Dbl) : (c.pushQ n v).feed = c.feed := rfl
@[simp] theorem TCtx.pushQ_vflags (c : TCtx) (n : BitVec 4) (v : Dbl) : (c.pushQ n v).vflags = c.vflags := rfl
@[simp] theorem TCtx.pushQ_dbgpend (c : TCtx) (n : BitVec 4) (v : Dbl) : (c.pushQ n v).dbgpend = c.dbgpend := rfl
@[simp] theorem TCtx.pushQ_tick (c : TCtx) (n : BitVec 4) (v : Dbl) : (c.pushQ n v).tick = c.tick := rfl
@[simp] theorem TCtx.pushQ_pending (c : TCtx) (n : BitVec 4) (v : Dbl) : (c.pushQ n v).pending = c.pending := rfl
@[simp] theorem TCtx.pushQ_vloads (c : TCtx) (n : BitVec 4) (v : Dbl) : (c.pushQ n v).vloads = c.vloads := rfl
@[simp] theorem TCtx.pushQ_vstores (c : TCtx) (n : BitVec 4) (v : Dbl) : (c.pushQ n v).vstores = c.vstores := rfl
@[simp] theorem TCtx.pushQ_mstack (c : TCtx) (n : BitVec 4) (v : Dbl) : (c.pushQ n v).mstack = c.mstack := rfl
@[simp] theorem TCtx.pushQ_mq (c : TCtx) (n : BitVec 4) (v : Dbl) : (c.pushQ n v).mq = c.mq := rfl
@[simp] theorem TCtx.pushQ_zs (c : TCtx) (n : BitVec 4) (v : Dbl) : (c.pushQ n v).zs = c.zs := rfl
@[simp] theorem TCtx.pushQ_side (c : TCtx) (n : BitVec 4) (v : Dbl) : (c.pushQ n v).side = c.side := rfl
@[simp] theorem TCtx.pushQ_heap (c : TCtx) (n : BitVec 4) (v : Dbl) : (c.pushQ n v).heap = c.heap := rfl
@[simp] theorem TCtx.pushQ_drain (c : TCtx) (n : BitVec 4) (v : Dbl) : (c.pushQ n v).drain = c.drain := rfl
@[simp] theorem TCtx.pushQ_late (c : TCtx) (n : BitVec 4) (v : Dbl) : (c.pushQ n v).late = c.late := rfl
@[simp] theorem TCtx.pushQ_xstack (c : TCtx) (n : BitVec 4) (v : Dbl) : (c.pushQ n v).xstack = c.xstack := rfl
@[simp] theorem TCtx.pushQ_xrecs (c : TCtx) (n : BitVec 4) (v : Dbl) : (c.pushQ n v).xrecs = c.xrecs := rfl
@[simp] theorem TCtx.pushQ_xnum (c : TCtx) (n : BitVec 4) (v : Dbl) : (c.pushQ n v).xnum = c.xnum := rfl
@[simp] theorem TCtx.pushQ_fabric (c : TCtx) (n : BitVec 4) (v : Dbl) : (c.pushQ n v).fabric = c.fabric := rfl
@[simp] theorem TCtx.pushQ_scratch (c : TCtx) (n : BitVec 4) (v : Dbl) : (c.pushQ n v).scratch = c.scratch := rfl
@[simp] theorem TCtx.pushQ_bfmt (c : TCtx) (n : BitVec 4) (v : Dbl) : (c.pushQ n v).bfmt = c.bfmt := rfl
@[simp] theorem TCtx.pushQ_ts (c : TCtx) (n : BitVec 4) (v : Dbl) : (c.pushQ n v).ts = c.ts := rfl
@[simp] theorem TCtx.pushQ_fails (c : TCtx) (n : BitVec 4) (v : Dbl) : (c.pushQ n v).fails = c.fails := rfl
@[simp] theorem TCtx.pushQ_gslots (c : TCtx) (n : BitVec 4) (v : Dbl) : (c.pushQ n v).gslots = c.gslots := rfl
@[simp] theorem TCtx.pushQ_gsync (c : TCtx) (n : BitVec 4) (v : Dbl) : (c.pushQ n v).gsync = c.gsync := rfl
@[simp] theorem TCtx.pushQ_recStop (c : TCtx) (n : BitVec 4) (v : Dbl) : (c.pushQ n v).recStop = c.recStop := rfl
@[simp] theorem TCtx.pushQ_inh (c : TCtx) (n : BitVec 4) (v : Dbl) : (c.pushQ n v).inh = c.inh := rfl
@[simp] theorem TCtx.pushQ_dbl (c : TCtx) (n : BitVec 4) (v : Dbl) : (c.pushQ n v).dbl = c.dbl := rfl
@[simp] theorem TCtx.pushQ_resumed (c : TCtx) (n : BitVec 4) (v : Dbl) : (c.pushQ n v).resumed = c.resumed := rfl
@[simp] theorem TCtx.pushQ_wdraw (c : TCtx) (n : BitVec 4) (v : Dbl) : (c.pushQ n v).wdraw = c.wdraw := rfl
@[simp] theorem TCtx.pushQ_tcause (c : TCtx) (n : BitVec 4) (v : Dbl) : (c.pushQ n v).tcause = c.tcause := rfl
@[simp] theorem TCtx.pushQ_tepc (c : TCtx) (n : BitVec 4) (v : Dbl) : (c.pushQ n v).tepc = c.tepc := rfl
@[simp] theorem TCtx.pushQ_teng (c : TCtx) (n : BitVec 4) (v : Dbl) : (c.pushQ n v).teng = c.teng := rfl
@[simp] theorem TCtx.pushQ_tval (c : TCtx) (n : BitVec 4) (v : Dbl) : (c.pushQ n v).tval = c.tval := rfl
@[simp] theorem TCtx.pushQ_tvec (c : TCtx) (n : BitVec 4) (v : Dbl) : (c.pushQ n v).tvec = c.tvec := rfl
@[simp] theorem TCtx.pushQ_tcpc (c : TCtx) (n : BitVec 4) (v : Dbl) : (c.pushQ n v).tcpc = c.tcpc := rfl
@[simp] theorem TCtx.pushQ_adVer (c : TCtx) (n : BitVec 4) (v : Dbl) : (c.pushQ n v).adVer = c.adVer := rfl
@[simp] theorem TCtx.pushQ_adChg (c : TCtx) (n : BitVec 4) (v : Dbl) : (c.pushQ n v).adChg = c.adChg := rfl
@[simp] theorem TCtx.pushQ_adPol (c : TCtx) (n : BitVec 4) (v : Dbl) : (c.pushQ n v).adPol = c.adPol := rfl
@[simp] theorem TCtx.pushQ_adIdx (c : TCtx) (n : BitVec 4) (v : Dbl) : (c.pushQ n v).adIdx = c.adIdx := rfl
@[simp] theorem TCtx.pushQ_ftbase (c : TCtx) (n : BitVec 4) (v : Dbl) : (c.pushQ n v).ftbase = c.ftbase := rfl
@[simp] theorem TCtx.pushQ_nextf (c : TCtx) (n : BitVec 4) (v : Dbl) : (c.pushQ n v).nextf = c.nextf := rfl
@[simp] theorem TCtx.pushQ_acptmap (c : TCtx) (n : BitVec 4) (v : Dbl) : (c.pushQ n v).acptmap = c.acptmap := rfl

@[simp] theorem TCtx.reserve_task (c : TCtx) (n : BitVec 4) (k l : Nat) (op : FillOp) : (c.reserve n k l op).task = c.task := rfl
@[simp] theorem TCtx.reserve_c (c : TCtx) (n : BitVec 4) (k l : Nat) (op : FillOp) : (c.reserve n k l op).c = c.c := rfl
@[simp] theorem TCtx.reserve_v (c : TCtx) (n : BitVec 4) (k l : Nat) (op : FillOp) : (c.reserve n k l op).v = c.v := rfl
@[simp] theorem TCtx.reserve_m (c : TCtx) (n : BitVec 4) (k l : Nat) (op : FillOp) : (c.reserve n k l op).m = c.m := rfl
@[simp] theorem TCtx.reserve_x (c : TCtx) (n : BitVec 4) (k l : Nat) (op : FillOp) : (c.reserve n k l op).x = c.x := rfl
@[simp] theorem TCtx.reserve_cqc (c : TCtx) (n : BitVec 4) (k l : Nat) (op : FillOp) : (c.reserve n k l op).cqc = c.cqc := rfl
@[simp] theorem TCtx.reserve_cqv (c : TCtx) (n : BitVec 4) (k l : Nat) (op : FillOp) : (c.reserve n k l op).cqv = c.cqv := rfl
@[simp] theorem TCtx.reserve_lcs (c : TCtx) (n : BitVec 4) (k l : Nat) (op : FillOp) : (c.reserve n k l op).lcs = c.lcs := rfl
@[simp] theorem TCtx.reserve_sp (c : TCtx) (n : BitVec 4) (k l : Nat) (op : FillOp) : (c.reserve n k l op).sp = c.sp := rfl
@[simp] theorem TCtx.reserve_spbase (c : TCtx) (n : BitVec 4) (k l : Nat) (op : FillOp) : (c.reserve n k l op).spbase = c.spbase := rfl
@[simp] theorem TCtx.reserve_splim (c : TCtx) (n : BitVec 4) (k l : Nat) (op : FillOp) : (c.reserve n k l op).splim = c.splim := rfl
@[simp] theorem TCtx.reserve_win (c : TCtx) (n : BitVec 4) (k l : Nat) (op : FillOp) : (c.reserve n k l op).win = c.win := rfl
@[simp] theorem TCtx.reserve_vregs (c : TCtx) (n : BitVec 4) (k l : Nat) (op : FillOp) : (c.reserve n k l op).vregs = c.vregs := rfl
@[simp] theorem TCtx.reserve_masks (c : TCtx) (n : BitVec 4) (k l : Nat) (op : FillOp) : (c.reserve n k l op).masks = c.masks := rfl
@[simp] theorem TCtx.reserve_vas (c : TCtx) (n : BitVec 4) (k l : Nat) (op : FillOp) : (c.reserve n k l op).vas = c.vas := rfl
@[simp] theorem TCtx.reserve_feed (c : TCtx) (n : BitVec 4) (k l : Nat) (op : FillOp) : (c.reserve n k l op).feed = c.feed := rfl
@[simp] theorem TCtx.reserve_vflags (c : TCtx) (n : BitVec 4) (k l : Nat) (op : FillOp) : (c.reserve n k l op).vflags = c.vflags := rfl
@[simp] theorem TCtx.reserve_dbgpend (c : TCtx) (n : BitVec 4) (k l : Nat) (op : FillOp) : (c.reserve n k l op).dbgpend = c.dbgpend := rfl
@[simp] theorem TCtx.reserve_tick (c : TCtx) (n : BitVec 4) (k l : Nat) (op : FillOp) : (c.reserve n k l op).tick = c.tick := rfl
@[simp] theorem TCtx.reserve_pending (c : TCtx) (n : BitVec 4) (k l : Nat) (op : FillOp) : (c.reserve n k l op).pending = c.pending := rfl
@[simp] theorem TCtx.reserve_vloads (c : TCtx) (n : BitVec 4) (k l : Nat) (op : FillOp) : (c.reserve n k l op).vloads = c.vloads := rfl
@[simp] theorem TCtx.reserve_vstores (c : TCtx) (n : BitVec 4) (k l : Nat) (op : FillOp) : (c.reserve n k l op).vstores = c.vstores := rfl
@[simp] theorem TCtx.reserve_mstack (c : TCtx) (n : BitVec 4) (k l : Nat) (op : FillOp) : (c.reserve n k l op).mstack = c.mstack := rfl
@[simp] theorem TCtx.reserve_mq (c : TCtx) (n : BitVec 4) (k l : Nat) (op : FillOp) : (c.reserve n k l op).mq = c.mq := rfl
@[simp] theorem TCtx.reserve_zs (c : TCtx) (n : BitVec 4) (k l : Nat) (op : FillOp) : (c.reserve n k l op).zs = c.zs := rfl
@[simp] theorem TCtx.reserve_side (c : TCtx) (n : BitVec 4) (k l : Nat) (op : FillOp) : (c.reserve n k l op).side = c.side := rfl
@[simp] theorem TCtx.reserve_heap (c : TCtx) (n : BitVec 4) (k l : Nat) (op : FillOp) : (c.reserve n k l op).heap = c.heap := rfl
@[simp] theorem TCtx.reserve_drain (c : TCtx) (n : BitVec 4) (k l : Nat) (op : FillOp) : (c.reserve n k l op).drain = c.drain := rfl
@[simp] theorem TCtx.reserve_late (c : TCtx) (n : BitVec 4) (k l : Nat) (op : FillOp) : (c.reserve n k l op).late = c.late := rfl
@[simp] theorem TCtx.reserve_xstack (c : TCtx) (n : BitVec 4) (k l : Nat) (op : FillOp) : (c.reserve n k l op).xstack = c.xstack := rfl
@[simp] theorem TCtx.reserve_xrecs (c : TCtx) (n : BitVec 4) (k l : Nat) (op : FillOp) : (c.reserve n k l op).xrecs = c.xrecs := rfl
@[simp] theorem TCtx.reserve_xnum (c : TCtx) (n : BitVec 4) (k l : Nat) (op : FillOp) : (c.reserve n k l op).xnum = c.xnum := rfl
@[simp] theorem TCtx.reserve_fabric (c : TCtx) (n : BitVec 4) (k l : Nat) (op : FillOp) : (c.reserve n k l op).fabric = c.fabric := rfl
@[simp] theorem TCtx.reserve_scratch (c : TCtx) (n : BitVec 4) (k l : Nat) (op : FillOp) : (c.reserve n k l op).scratch = c.scratch := rfl
@[simp] theorem TCtx.reserve_bfmt (c : TCtx) (n : BitVec 4) (k l : Nat) (op : FillOp) : (c.reserve n k l op).bfmt = c.bfmt := rfl
@[simp] theorem TCtx.reserve_ts (c : TCtx) (n : BitVec 4) (k l : Nat) (op : FillOp) : (c.reserve n k l op).ts = c.ts := rfl
@[simp] theorem TCtx.reserve_fails (c : TCtx) (n : BitVec 4) (k l : Nat) (op : FillOp) : (c.reserve n k l op).fails = c.fails := rfl
@[simp] theorem TCtx.reserve_gslots (c : TCtx) (n : BitVec 4) (k l : Nat) (op : FillOp) : (c.reserve n k l op).gslots = c.gslots := rfl
@[simp] theorem TCtx.reserve_gsync (c : TCtx) (n : BitVec 4) (k l : Nat) (op : FillOp) : (c.reserve n k l op).gsync = c.gsync := rfl
@[simp] theorem TCtx.reserve_recStop (c : TCtx) (n : BitVec 4) (k l : Nat) (op : FillOp) : (c.reserve n k l op).recStop = c.recStop := rfl
@[simp] theorem TCtx.reserve_inh (c : TCtx) (n : BitVec 4) (k l : Nat) (op : FillOp) : (c.reserve n k l op).inh = c.inh := rfl
@[simp] theorem TCtx.reserve_dbl (c : TCtx) (n : BitVec 4) (k l : Nat) (op : FillOp) : (c.reserve n k l op).dbl = c.dbl := rfl
@[simp] theorem TCtx.reserve_resumed (c : TCtx) (n : BitVec 4) (k l : Nat) (op : FillOp) : (c.reserve n k l op).resumed = c.resumed := rfl
@[simp] theorem TCtx.reserve_wdraw (c : TCtx) (n : BitVec 4) (k l : Nat) (op : FillOp) : (c.reserve n k l op).wdraw = c.wdraw := rfl
@[simp] theorem TCtx.reserve_tcause (c : TCtx) (n : BitVec 4) (k l : Nat) (op : FillOp) : (c.reserve n k l op).tcause = c.tcause := rfl
@[simp] theorem TCtx.reserve_tepc (c : TCtx) (n : BitVec 4) (k l : Nat) (op : FillOp) : (c.reserve n k l op).tepc = c.tepc := rfl
@[simp] theorem TCtx.reserve_teng (c : TCtx) (n : BitVec 4) (k l : Nat) (op : FillOp) : (c.reserve n k l op).teng = c.teng := rfl
@[simp] theorem TCtx.reserve_tval (c : TCtx) (n : BitVec 4) (k l : Nat) (op : FillOp) : (c.reserve n k l op).tval = c.tval := rfl
@[simp] theorem TCtx.reserve_tvec (c : TCtx) (n : BitVec 4) (k l : Nat) (op : FillOp) : (c.reserve n k l op).tvec = c.tvec := rfl
@[simp] theorem TCtx.reserve_tcpc (c : TCtx) (n : BitVec 4) (k l : Nat) (op : FillOp) : (c.reserve n k l op).tcpc = c.tcpc := rfl
@[simp] theorem TCtx.reserve_adVer (c : TCtx) (n : BitVec 4) (k l : Nat) (op : FillOp) : (c.reserve n k l op).adVer = c.adVer := rfl
@[simp] theorem TCtx.reserve_adChg (c : TCtx) (n : BitVec 4) (k l : Nat) (op : FillOp) : (c.reserve n k l op).adChg = c.adChg := rfl
@[simp] theorem TCtx.reserve_adPol (c : TCtx) (n : BitVec 4) (k l : Nat) (op : FillOp) : (c.reserve n k l op).adPol = c.adPol := rfl
@[simp] theorem TCtx.reserve_adIdx (c : TCtx) (n : BitVec 4) (k l : Nat) (op : FillOp) : (c.reserve n k l op).adIdx = c.adIdx := rfl
@[simp] theorem TCtx.reserve_ftbase (c : TCtx) (n : BitVec 4) (k l : Nat) (op : FillOp) : (c.reserve n k l op).ftbase = c.ftbase := rfl
@[simp] theorem TCtx.reserve_nextf (c : TCtx) (n : BitVec 4) (k l : Nat) (op : FillOp) : (c.reserve n k l op).nextf = c.nextf := rfl
@[simp] theorem TCtx.reserve_acptmap (c : TCtx) (n : BitVec 4) (k l : Nat) (op : FillOp) : (c.reserve n k l op).acptmap = c.acptmap := rfl

theorem TCtx.q_setQ (c : TCtx) (n k : BitVec 4) (ss : List Slot) : (c.setQ n ss).q k = if k = n then ss else c.q k := by
  simp only [TCtx.q, TCtx.setQ, aget_aset]
  by_cases h : k = n
  · simp [h]
  · have : k.toNat ≠ n.toNat := fun e => h (BitVec.eq_of_toNat_eq e)
    simp [h, this]

theorem TCtx.q_pushQ (c : TCtx) (n k : BitVec 4) (v : Dbl) :
    (c.pushQ n v).q k = if k = n then c.q n ++ [.filled v] else c.q k := TCtx.q_setQ ..

@[simp] theorem TCtx.popQ_task (c : TCtx) (rs : List Src) : (c.popQ rs).task = c.task := by
  unfold TCtx.popQ
  induction rs generalizing c with
  | nil => rfl
  | cons r rs ih => rw [List.foldl_cons, ih]; split <;> rfl
@[simp] theorem TCtx.popQ_c (c : TCtx) (rs : List Src) : (c.popQ rs).c = c.c := by
  unfold TCtx.popQ
  induction rs generalizing c with
  | nil => rfl
  | cons r rs ih => rw [List.foldl_cons, ih]; split <;> rfl
@[simp] theorem TCtx.popQ_v (c : TCtx) (rs : List Src) : (c.popQ rs).v = c.v := by
  unfold TCtx.popQ
  induction rs generalizing c with
  | nil => rfl
  | cons r rs ih => rw [List.foldl_cons, ih]; split <;> rfl
@[simp] theorem TCtx.popQ_m (c : TCtx) (rs : List Src) : (c.popQ rs).m = c.m := by
  unfold TCtx.popQ
  induction rs generalizing c with
  | nil => rfl
  | cons r rs ih => rw [List.foldl_cons, ih]; split <;> rfl
@[simp] theorem TCtx.popQ_x (c : TCtx) (rs : List Src) : (c.popQ rs).x = c.x := by
  unfold TCtx.popQ
  induction rs generalizing c with
  | nil => rfl
  | cons r rs ih => rw [List.foldl_cons, ih]; split <;> rfl
@[simp] theorem TCtx.popQ_cqc (c : TCtx) (rs : List Src) : (c.popQ rs).cqc = c.cqc := by
  unfold TCtx.popQ
  induction rs generalizing c with
  | nil => rfl
  | cons r rs ih => rw [List.foldl_cons, ih]; split <;> rfl
@[simp] theorem TCtx.popQ_cqv (c : TCtx) (rs : List Src) : (c.popQ rs).cqv = c.cqv := by
  unfold TCtx.popQ
  induction rs generalizing c with
  | nil => rfl
  | cons r rs ih => rw [List.foldl_cons, ih]; split <;> rfl
@[simp] theorem TCtx.popQ_lcs (c : TCtx) (rs : List Src) : (c.popQ rs).lcs = c.lcs := by
  unfold TCtx.popQ
  induction rs generalizing c with
  | nil => rfl
  | cons r rs ih => rw [List.foldl_cons, ih]; split <;> rfl
@[simp] theorem TCtx.popQ_sp (c : TCtx) (rs : List Src) : (c.popQ rs).sp = c.sp := by
  unfold TCtx.popQ
  induction rs generalizing c with
  | nil => rfl
  | cons r rs ih => rw [List.foldl_cons, ih]; split <;> rfl
@[simp] theorem TCtx.popQ_spbase (c : TCtx) (rs : List Src) : (c.popQ rs).spbase = c.spbase := by
  unfold TCtx.popQ
  induction rs generalizing c with
  | nil => rfl
  | cons r rs ih => rw [List.foldl_cons, ih]; split <;> rfl
@[simp] theorem TCtx.popQ_splim (c : TCtx) (rs : List Src) : (c.popQ rs).splim = c.splim := by
  unfold TCtx.popQ
  induction rs generalizing c with
  | nil => rfl
  | cons r rs ih => rw [List.foldl_cons, ih]; split <;> rfl
@[simp] theorem TCtx.popQ_win (c : TCtx) (rs : List Src) : (c.popQ rs).win = c.win := by
  unfold TCtx.popQ
  induction rs generalizing c with
  | nil => rfl
  | cons r rs ih => rw [List.foldl_cons, ih]; split <;> rfl
@[simp] theorem TCtx.popQ_fills (c : TCtx) (rs : List Src) : (c.popQ rs).fills = c.fills := by
  unfold TCtx.popQ
  induction rs generalizing c with
  | nil => rfl
  | cons r rs ih => rw [List.foldl_cons, ih]; split <;> rfl
@[simp] theorem TCtx.popQ_seq (c : TCtx) (rs : List Src) : (c.popQ rs).seq = c.seq := by
  unfold TCtx.popQ
  induction rs generalizing c with
  | nil => rfl
  | cons r rs ih => rw [List.foldl_cons, ih]; split <;> rfl
@[simp] theorem TCtx.popQ_vregs (c : TCtx) (rs : List Src) : (c.popQ rs).vregs = c.vregs := by
  unfold TCtx.popQ
  induction rs generalizing c with
  | nil => rfl
  | cons r rs ih => rw [List.foldl_cons, ih]; split <;> rfl
@[simp] theorem TCtx.popQ_masks (c : TCtx) (rs : List Src) : (c.popQ rs).masks = c.masks := by
  unfold TCtx.popQ
  induction rs generalizing c with
  | nil => rfl
  | cons r rs ih => rw [List.foldl_cons, ih]; split <;> rfl
@[simp] theorem TCtx.popQ_vas (c : TCtx) (rs : List Src) : (c.popQ rs).vas = c.vas := by
  unfold TCtx.popQ
  induction rs generalizing c with
  | nil => rfl
  | cons r rs ih => rw [List.foldl_cons, ih]; split <;> rfl
@[simp] theorem TCtx.popQ_feed (c : TCtx) (rs : List Src) : (c.popQ rs).feed = c.feed := by
  unfold TCtx.popQ
  induction rs generalizing c with
  | nil => rfl
  | cons r rs ih => rw [List.foldl_cons, ih]; split <;> rfl
@[simp] theorem TCtx.popQ_vflags (c : TCtx) (rs : List Src) : (c.popQ rs).vflags = c.vflags := by
  unfold TCtx.popQ
  induction rs generalizing c with
  | nil => rfl
  | cons r rs ih => rw [List.foldl_cons, ih]; split <;> rfl
@[simp] theorem TCtx.popQ_dbgpend (c : TCtx) (rs : List Src) : (c.popQ rs).dbgpend = c.dbgpend := by
  unfold TCtx.popQ
  induction rs generalizing c with
  | nil => rfl
  | cons r rs ih => rw [List.foldl_cons, ih]; split <;> rfl
@[simp] theorem TCtx.popQ_tick (c : TCtx) (rs : List Src) : (c.popQ rs).tick = c.tick := by
  unfold TCtx.popQ
  induction rs generalizing c with
  | nil => rfl
  | cons r rs ih => rw [List.foldl_cons, ih]; split <;> rfl
@[simp] theorem TCtx.popQ_pending (c : TCtx) (rs : List Src) : (c.popQ rs).pending = c.pending := by
  unfold TCtx.popQ
  induction rs generalizing c with
  | nil => rfl
  | cons r rs ih => rw [List.foldl_cons, ih]; split <;> rfl
@[simp] theorem TCtx.popQ_vloads (c : TCtx) (rs : List Src) : (c.popQ rs).vloads = c.vloads := by
  unfold TCtx.popQ
  induction rs generalizing c with
  | nil => rfl
  | cons r rs ih => rw [List.foldl_cons, ih]; split <;> rfl
@[simp] theorem TCtx.popQ_vstores (c : TCtx) (rs : List Src) : (c.popQ rs).vstores = c.vstores := by
  unfold TCtx.popQ
  induction rs generalizing c with
  | nil => rfl
  | cons r rs ih => rw [List.foldl_cons, ih]; split <;> rfl
@[simp] theorem TCtx.popQ_mstack (c : TCtx) (rs : List Src) : (c.popQ rs).mstack = c.mstack := by
  unfold TCtx.popQ
  induction rs generalizing c with
  | nil => rfl
  | cons r rs ih => rw [List.foldl_cons, ih]; split <;> rfl
@[simp] theorem TCtx.popQ_mq (c : TCtx) (rs : List Src) : (c.popQ rs).mq = c.mq := by
  unfold TCtx.popQ
  induction rs generalizing c with
  | nil => rfl
  | cons r rs ih => rw [List.foldl_cons, ih]; split <;> rfl
@[simp] theorem TCtx.popQ_zs (c : TCtx) (rs : List Src) : (c.popQ rs).zs = c.zs := by
  unfold TCtx.popQ
  induction rs generalizing c with
  | nil => rfl
  | cons r rs ih => rw [List.foldl_cons, ih]; split <;> rfl
@[simp] theorem TCtx.popQ_side (c : TCtx) (rs : List Src) : (c.popQ rs).side = c.side := by
  unfold TCtx.popQ
  induction rs generalizing c with
  | nil => rfl
  | cons r rs ih => rw [List.foldl_cons, ih]; split <;> rfl
@[simp] theorem TCtx.popQ_heap (c : TCtx) (rs : List Src) : (c.popQ rs).heap = c.heap := by
  unfold TCtx.popQ
  induction rs generalizing c with
  | nil => rfl
  | cons r rs ih => rw [List.foldl_cons, ih]; split <;> rfl
@[simp] theorem TCtx.popQ_drain (c : TCtx) (rs : List Src) : (c.popQ rs).drain = c.drain := by
  unfold TCtx.popQ
  induction rs generalizing c with
  | nil => rfl
  | cons r rs ih => rw [List.foldl_cons, ih]; split <;> rfl
@[simp] theorem TCtx.popQ_late (c : TCtx) (rs : List Src) : (c.popQ rs).late = c.late := by
  unfold TCtx.popQ
  induction rs generalizing c with
  | nil => rfl
  | cons r rs ih => rw [List.foldl_cons, ih]; split <;> rfl
@[simp] theorem TCtx.popQ_xstack (c : TCtx) (rs : List Src) : (c.popQ rs).xstack = c.xstack := by
  unfold TCtx.popQ
  induction rs generalizing c with
  | nil => rfl
  | cons r rs ih => rw [List.foldl_cons, ih]; split <;> rfl
@[simp] theorem TCtx.popQ_xrecs (c : TCtx) (rs : List Src) : (c.popQ rs).xrecs = c.xrecs := by
  unfold TCtx.popQ
  induction rs generalizing c with
  | nil => rfl
  | cons r rs ih => rw [List.foldl_cons, ih]; split <;> rfl
@[simp] theorem TCtx.popQ_xnum (c : TCtx) (rs : List Src) : (c.popQ rs).xnum = c.xnum := by
  unfold TCtx.popQ
  induction rs generalizing c with
  | nil => rfl
  | cons r rs ih => rw [List.foldl_cons, ih]; split <;> rfl
@[simp] theorem TCtx.popQ_fabric (c : TCtx) (rs : List Src) : (c.popQ rs).fabric = c.fabric := by
  unfold TCtx.popQ
  induction rs generalizing c with
  | nil => rfl
  | cons r rs ih => rw [List.foldl_cons, ih]; split <;> rfl
@[simp] theorem TCtx.popQ_scratch (c : TCtx) (rs : List Src) : (c.popQ rs).scratch = c.scratch := by
  unfold TCtx.popQ
  induction rs generalizing c with
  | nil => rfl
  | cons r rs ih => rw [List.foldl_cons, ih]; split <;> rfl
@[simp] theorem TCtx.popQ_bfmt (c : TCtx) (rs : List Src) : (c.popQ rs).bfmt = c.bfmt := by
  unfold TCtx.popQ
  induction rs generalizing c with
  | nil => rfl
  | cons r rs ih => rw [List.foldl_cons, ih]; split <;> rfl
@[simp] theorem TCtx.popQ_ts (c : TCtx) (rs : List Src) : (c.popQ rs).ts = c.ts := by
  unfold TCtx.popQ
  induction rs generalizing c with
  | nil => rfl
  | cons r rs ih => rw [List.foldl_cons, ih]; split <;> rfl
@[simp] theorem TCtx.popQ_fails (c : TCtx) (rs : List Src) : (c.popQ rs).fails = c.fails := by
  unfold TCtx.popQ
  induction rs generalizing c with
  | nil => rfl
  | cons r rs ih => rw [List.foldl_cons, ih]; split <;> rfl
@[simp] theorem TCtx.popQ_gslots (c : TCtx) (rs : List Src) : (c.popQ rs).gslots = c.gslots := by
  unfold TCtx.popQ
  induction rs generalizing c with
  | nil => rfl
  | cons r rs ih => rw [List.foldl_cons, ih]; split <;> rfl
@[simp] theorem TCtx.popQ_gsync (c : TCtx) (rs : List Src) : (c.popQ rs).gsync = c.gsync := by
  unfold TCtx.popQ
  induction rs generalizing c with
  | nil => rfl
  | cons r rs ih => rw [List.foldl_cons, ih]; split <;> rfl
@[simp] theorem TCtx.popQ_recStop (c : TCtx) (rs : List Src) : (c.popQ rs).recStop = c.recStop := by
  unfold TCtx.popQ
  induction rs generalizing c with
  | nil => rfl
  | cons r rs ih => rw [List.foldl_cons, ih]; split <;> rfl
@[simp] theorem TCtx.popQ_inh (c : TCtx) (rs : List Src) : (c.popQ rs).inh = c.inh := by
  unfold TCtx.popQ
  induction rs generalizing c with
  | nil => rfl
  | cons r rs ih => rw [List.foldl_cons, ih]; split <;> rfl
@[simp] theorem TCtx.popQ_dbl (c : TCtx) (rs : List Src) : (c.popQ rs).dbl = c.dbl := by
  unfold TCtx.popQ
  induction rs generalizing c with
  | nil => rfl
  | cons r rs ih => rw [List.foldl_cons, ih]; split <;> rfl
@[simp] theorem TCtx.popQ_resumed (c : TCtx) (rs : List Src) : (c.popQ rs).resumed = c.resumed := by
  unfold TCtx.popQ
  induction rs generalizing c with
  | nil => rfl
  | cons r rs ih => rw [List.foldl_cons, ih]; split <;> rfl
@[simp] theorem TCtx.popQ_wdraw (c : TCtx) (rs : List Src) : (c.popQ rs).wdraw = c.wdraw := by
  unfold TCtx.popQ
  induction rs generalizing c with
  | nil => rfl
  | cons r rs ih => rw [List.foldl_cons, ih]; split <;> rfl
@[simp] theorem TCtx.popQ_tcause (c : TCtx) (rs : List Src) : (c.popQ rs).tcause = c.tcause := by
  unfold TCtx.popQ
  induction rs generalizing c with
  | nil => rfl
  | cons r rs ih => rw [List.foldl_cons, ih]; split <;> rfl
@[simp] theorem TCtx.popQ_tepc (c : TCtx) (rs : List Src) : (c.popQ rs).tepc = c.tepc := by
  unfold TCtx.popQ
  induction rs generalizing c with
  | nil => rfl
  | cons r rs ih => rw [List.foldl_cons, ih]; split <;> rfl
@[simp] theorem TCtx.popQ_teng (c : TCtx) (rs : List Src) : (c.popQ rs).teng = c.teng := by
  unfold TCtx.popQ
  induction rs generalizing c with
  | nil => rfl
  | cons r rs ih => rw [List.foldl_cons, ih]; split <;> rfl
@[simp] theorem TCtx.popQ_tval (c : TCtx) (rs : List Src) : (c.popQ rs).tval = c.tval := by
  unfold TCtx.popQ
  induction rs generalizing c with
  | nil => rfl
  | cons r rs ih => rw [List.foldl_cons, ih]; split <;> rfl
@[simp] theorem TCtx.popQ_tvec (c : TCtx) (rs : List Src) : (c.popQ rs).tvec = c.tvec := by
  unfold TCtx.popQ
  induction rs generalizing c with
  | nil => rfl
  | cons r rs ih => rw [List.foldl_cons, ih]; split <;> rfl
@[simp] theorem TCtx.popQ_tcpc (c : TCtx) (rs : List Src) : (c.popQ rs).tcpc = c.tcpc := by
  unfold TCtx.popQ
  induction rs generalizing c with
  | nil => rfl
  | cons r rs ih => rw [List.foldl_cons, ih]; split <;> rfl
@[simp] theorem TCtx.popQ_adVer (c : TCtx) (rs : List Src) : (c.popQ rs).adVer = c.adVer := by
  unfold TCtx.popQ
  induction rs generalizing c with
  | nil => rfl
  | cons r rs ih => rw [List.foldl_cons, ih]; split <;> rfl
@[simp] theorem TCtx.popQ_adChg (c : TCtx) (rs : List Src) : (c.popQ rs).adChg = c.adChg := by
  unfold TCtx.popQ
  induction rs generalizing c with
  | nil => rfl
  | cons r rs ih => rw [List.foldl_cons, ih]; split <;> rfl
@[simp] theorem TCtx.popQ_adPol (c : TCtx) (rs : List Src) : (c.popQ rs).adPol = c.adPol := by
  unfold TCtx.popQ
  induction rs generalizing c with
  | nil => rfl
  | cons r rs ih => rw [List.foldl_cons, ih]; split <;> rfl
@[simp] theorem TCtx.popQ_adIdx (c : TCtx) (rs : List Src) : (c.popQ rs).adIdx = c.adIdx := by
  unfold TCtx.popQ
  induction rs generalizing c with
  | nil => rfl
  | cons r rs ih => rw [List.foldl_cons, ih]; split <;> rfl
@[simp] theorem TCtx.popQ_ftbase (c : TCtx) (rs : List Src) : (c.popQ rs).ftbase = c.ftbase := by
  unfold TCtx.popQ
  induction rs generalizing c with
  | nil => rfl
  | cons r rs ih => rw [List.foldl_cons, ih]; split <;> rfl
@[simp] theorem TCtx.popQ_nextf (c : TCtx) (rs : List Src) : (c.popQ rs).nextf = c.nextf := by
  unfold TCtx.popQ
  induction rs generalizing c with
  | nil => rfl
  | cons r rs ih => rw [List.foldl_cons, ih]; split <;> rfl
@[simp] theorem TCtx.popQ_acptmap (c : TCtx) (rs : List Src) : (c.popQ rs).acptmap = c.acptmap := by
  unfold TCtx.popQ
  induction rs generalizing c with
  | nil => rfl
  | cons r rs ih => rw [List.foldl_cons, ih]; split <;> rfl

/-- The pops of an instruction (R23): each queue loses the entries that the reads take from it. -/
theorem TCtx.q_popQ (c : TCtx) (rs : List Src) (k : BitVec 4) : (c.popQ rs).q k = (c.q k).drop (taken rs k) := by
  unfold TCtx.popQ
  induction rs generalizing c with
  | nil => simp [taken]
  | cons r rs ih =>
    obtain ⟨n, p⟩ := r
    rw [List.foldl_cons, ih]
    cases p
    · by_cases h : k = n
      · subst h; simp [TCtx.q_setQ, taken, Nat.add_comm]
      · have h' : n ≠ k := fun e => h e.symm
        simp [TCtx.q_setQ, taken, h, h']
    · simp [taken]

end Sys2Proof.Machine
end

