-- ==== Sys2Proof/Laws/Memory.lean ====
section
/-! SUPPORT. Memories: what a read gives after a write, and that every memory operation keeps the canonical form (log 2). -/

namespace Sys2Proof.Machine

/-! ### One byte -/

theorem Memory.wfFrom_mono (m : Memory) (a b : Nat) (h : a ≤ b) (w : Memory.wfFrom b m = true) :
    Memory.wfFrom a m = true := by
  cases m with
  | nil => rfl
  | cons e r => obtain ⟨i, v⟩ := e; simp only [Memory.wfFrom, Bool.and_eq_true, decide_eq_true_eq] at w ⊢; exact ⟨⟨by omega, w.1.2⟩, w.2⟩

/-- Below its first address a memory in canonical form reads as 0. -/
theorem memGet_below (m : Memory) (a lo : Nat) (h : a < lo) (w : Memory.wfFrom lo m = true) : memGet m a = 0 := by
  induction m generalizing lo with
  | nil => rfl
  | cons e r ih =>
    obtain ⟨i, v⟩ := e
    simp only [Memory.wfFrom, Bool.and_eq_true, decide_eq_true_eq] at w
    simp only [memGet]
    rw [if_neg (by omega)]
    exact ih (i + 1) (by omega) w.2

/-- A byte written reads as written. -/
theorem memGet_memSet_same (m : Memory) (a lo : Nat) (v : Byte) (w : Memory.wfFrom lo m = true) :
    memGet (memSet m a v) a = v := by
  induction m generalizing lo with
  | nil =>
    simp only [memSet]
    split
    · rename_i h; rw [h]; rfl
    · simp [memGet]
  | cons e r ih =>
    obtain ⟨i, x⟩ := e
    simp only [Memory.wfFrom, Bool.and_eq_true, decide_eq_true_eq] at w
    simp only [memSet]
    split
    · split
      · rename_i h1 h2
        simp only [memGet]
        rw [if_neg (by omega), memGet_below r a (i + 1) (by omega) w.2, h2]
      · simp [memGet]
    · split
      · rename_i h1 h2
        subst h2
        split
        · rename_i h3; rw [memGet_below r a (a + 1) (by omega) w.2, h3]
        · simp [memGet]
      · simp only [memGet]
        rw [if_neg (by omega)]
        exact ih (i + 1) w.2

/-- A byte written leaves every other byte. -/
theorem memGet_memSet_other (m : Memory) (a b : Nat) (v : Byte) (h : b ≠ a) : memGet (memSet m a v) b = memGet m b := by
  induction m with
  | nil =>
    simp only [memSet]
    split
    · rfl
    · simp only [memGet]; rw [if_neg (by omega)]
  | cons e r ih =>
    obtain ⟨i, x⟩ := e
    simp only [memSet]
    split
    · split
      · rfl
      · simp only [memGet]; rw [if_neg (by omega)]
    · split
      · rename_i h1 h2
        subst h2
        split
        · simp only [memGet]; rw [if_neg (by omega)]
        · simp only [memGet]; rw [if_neg (by omega), if_neg (by omega)]
      · simp only [memGet]; split
        · rfl
        · exact ih

theorem wfFrom_memSet (m : Memory) (a lo : Nat) (v : Byte) (h : lo ≤ a) (w : Memory.wfFrom lo m = true) :
    Memory.wfFrom lo (memSet m a v) = true := by
  induction m generalizing lo with
  | nil =>
    simp only [memSet]
    split
    · rfl
    · rename_i e; simp only [Memory.wfFrom, Bool.and_true, Bool.and_eq_true, decide_eq_true_eq]; exact ⟨h, e⟩
  | cons e r ih =>
    obtain ⟨i, x⟩ := e
    have w' := w
    simp only [Memory.wfFrom, Bool.and_eq_true, decide_eq_true_eq] at w
    simp only [memSet]
    split
    · split
      · exact w'
      · rename_i h1 h2
        simp only [Memory.wfFrom, Bool.and_eq_true, decide_eq_true_eq]
        exact ⟨⟨h, h2⟩, ⟨by omega, w.1.2⟩, w.2⟩
    · split
      · rename_i h1 h2
        subst h2
        split
        · exact Memory.wfFrom_mono r lo (a + 1) (by omega) w.2
        · rename_i h3
          simp only [Memory.wfFrom, Bool.and_eq_true, decide_eq_true_eq]
          exact ⟨⟨h, h3⟩, w.2⟩
      · simp only [Memory.wfFrom, Bool.and_eq_true, decide_eq_true_eq]
        exact ⟨w.1, ih (i + 1) (by omega) w.2⟩

/-- One byte written keeps the canonical form. -/
theorem Memory.wf_memSet (m : Memory) (a : Nat) (v : Byte) (w : m.wf = true) : (memSet m a v).wf = true :=
  wfFrom_memSet m a 0 v (Nat.zero_le a) w

/-! ### Several bytes -/

/-- Bytes written keep the canonical form. -/
theorem Memory.wf_memWrite (m : Memory) (a : Nat) (bs : List Byte) (w : m.wf = true) : (memWrite m a bs).wf = true := by
  induction bs generalizing m a with
  | nil => exact w
  | cons b r ih => exact ih _ _ (Memory.wf_memSet m a b w)

/-- Bytes written leave every byte outside them. -/
theorem memGet_memWrite_other (m : Memory) (a b : Nat) (bs : List Byte) (h : ¬(a ≤ b ∧ b < a + bs.length)) :
    memGet (memWrite m a bs) b = memGet m b := by
  induction bs generalizing m a with
  | nil => rfl
  | cons x r ih =>
    simp only [List.length_cons] at h
    simp only [memWrite]
    rw [ih _ _ (by omega)]
    by_cases e : b = a
    · omega
    · exact memGet_memSet_other m a b x e

/-- Bytes written read as written. -/
theorem memGet_memWrite_same (m : Memory) (a k : Nat) (bs : List Byte) (h : k < bs.length) (w : m.wf = true) :
    memGet (memWrite m a bs) (a + k) = bs.getD k 0 := by
  induction bs generalizing m a k with
  | nil => simp at h
  | cons x r ih =>
    simp only [memWrite]
    cases k with
    | zero =>
      rw [memGet_memWrite_other _ _ _ _ (by omega)]
      simpa using memGet_memSet_same m a 0 x w
    | succ k =>
      have := ih (memSet m a x) (a + 1) k (by simpa using h) (Memory.wf_memSet m a x w)
      rw [show a + (k + 1) = a + 1 + k by omega, this]
      simp

/-- The bytes from the address of a write are those written. -/
theorem memBytes_memWrite (m : Memory) (a : Nat) (bs : List Byte) (w : m.wf = true) :
    memBytes (memWrite m a bs) a bs.length = bs := by
  apply List.ext_getElem
  · simp [memBytes]
  · intro k h1 h2
    simp only [memBytes, List.getElem_map, List.getElem_range]
    rw [memGet_memWrite_same m a k bs h2 w]
    simp [List.getD, h2]

theorem Memory.wf_foldl_memSet (l : List (Nat × Byte)) (m : Memory) (w : m.wf = true) :
    (l.foldl (fun m c => memSet m c.1 c.2) m).wf = true := by
  induction l generalizing m with
  | nil => exact w
  | cons c r ih => exact ih _ (Memory.wf_memSet m c.1 c.2 w)

/-! ### The home memory -/

theorem State.reset_memWf : State.reset.MemWf := rfl

theorem State.memWf_of_mem (s s' : State) (h : s'.mem = s.mem) (w : s.MemWf) : s'.MemWf := by
  unfold State.MemWf; rw [h]; exact w

/-- A write-back keeps the canonical form of the home memory. -/
theorem State.memWf_writeBackLine (s : State) (d : Bool) (l : Nat) (w : s.MemWf) : (s.writeBackLine d l).MemWf := by
  have := Memory.wf_foldl_memSet ((s.die d).l2.filter (fun c => lineOf c.1 = l)) s.mem w
  unfold State.MemWf State.writeBackLine
  cases d <;> exact this

/-- A line that goes home after others keeps the canonical form (R195). -/
theorem State.memWf_bringHome (s : State) (d : Bool) (l : Nat) (w : s.MemWf) : (s.bringHome d l).MemWf := by
  unfold State.bringHome
  generalize s.covered d l = ls
  induction ls generalizing s with
  | nil => exact w
  | cons q r ih => exact ih _ (State.memWf_writeBackLine s d q w)

theorem State.memWf_bothHome (s : State) (l : Nat) (w : s.MemWf) : (s.bothHome l).MemWf :=
  State.memWf_bringHome _ true l (State.memWf_bringHome s false l w)

theorem State.memWf_writeBack (s : State) (d : Bool) (ls : List Nat) (w : s.MemWf) : (s.writeBack d ls).MemWf := by
  unfold State.writeBack
  induction ls generalizing s with
  | nil => exact w
  | cons l r ih => exact ih _ (State.memWf_bringHome s d l w)

theorem State.memWf_writeBackSet (s : State) (t : PTile) (w : s.MemWf) : (s.writeBackSet t).MemWf :=
  State.memWf_writeBack s _ _ w

/-- A write at home keeps the canonical form. -/
theorem State.memWf_homeWrite (s : State) (a : Nat) (bs : List Byte) (w : s.MemWf) : (s.homeWrite a bs).MemWf :=
  Memory.wf_memWrite _ a bs (State.memWf_bothHome s _ w)

/-- An atomic OR at home keeps the canonical form. -/
theorem State.memWf_homeOr (s : State) (a : Nat) (bs : List Byte) (w : s.MemWf) : (s.homeOr a bs).MemWf :=
  Memory.wf_memWrite _ a _ (State.memWf_bothHome s _ w)

/-- A write at home reads as written (R87, R188). -/
theorem State.memBytes_homeWrite (s : State) (a : Nat) (bs : List Byte) (w : s.MemWf) :
    memBytes (s.homeWrite a bs).mem a bs.length = bs :=
  memBytes_memWrite _ a bs (State.memWf_bothHome s _ w)

theorem State.memWf_orEntry (s : State) (a : Nat) (b : Dbl) (w : s.MemWf) : (s.orEntry a b).MemWf :=
  State.memWf_homeOr s a _ w

/-- Writes into an L2 leave the home memory. -/
@[simp] theorem State.l2Write_mem (s : State) (t : PTile) (pa : Nat) (bs : List Byte) : (s.l2Write t pa bs).mem = s.mem := by
  induction bs generalizing s pa with
  | nil => rfl
  | cons b r ih => simp only [State.l2Write]; rw [ih]; simp

@[simp] theorem State.writeLoc_mem (s : State) (t : PTile) (l : Loc) (bs : List Byte) : (s.writeLoc t l bs).mem = s.mem := by
  cases l <;> simp [State.writeLoc]

@[simp] theorem State.dropCached_mem (s : State) (t : PTile) (l : Loc) : (s.dropCached t l).mem = s.mem := by
  cases l <;> simp [State.dropCached]

@[simp] theorem State.acquireCache_mem (s : State) (t : PTile) (k : Nat) : (s.acquireCache t k).mem = s.mem := by
  unfold State.acquireCache; split <;> simp

@[simp] theorem State.joinRelease_mem (s : State) (t : PTile) (k : Nat) (r : Release) : (s.joinRelease t k r).mem = s.mem := by
  unfold State.joinRelease
  rw [apply_ite State.mem]
  exact ite_self _

@[simp] theorem State.joinReleases_mem (s : State) (t : PTile) (k : Nat) (rs : List Release) :
    (rs.foldl (fun s r => s.joinRelease t k r) s).mem = s.mem := by
  induction rs generalizing s with
  | nil => rfl
  | cons r rs ih => rw [List.foldl_cons, ih, State.joinRelease_mem]

@[simp] theorem State.putRelease_mem (s : State) (pa : Nat) (r : Release) : (s.putRelease pa r).mem = s.mem := rfl

@[simp] theorem State.sees_mem (s : State) (t : PTile) (l : Loc) (n : Nat) : (s.sees t l n).mem = s.mem := by
  unfold State.sees; split <;> rfl

/-- Nothing that a tile reads is lost where no line of the scratchpad is uncorrectable (R387). -/
theorem State.lostByte_scr (s : State) (t p : PTile) (off n : Nat) (h : (s.tile p).spoiled = []) :
    s.lostByte t (.scr p off) n = none := by
  simp [State.lostByte, h]

/-- Nothing that a tile reads is lost where no line of the physical map is uncorrectable (R387). -/
theorem State.lostByte_mem (s : State) (t : PTile) (pa n : Nat) (h : s.poison = []) : s.lostByte t (.mem pa) n = none := by
  simp [State.lostByte, h]

theorem State.sees_sound (s : State) (t : PTile) (l : Loc) (n : Nat) (h : s.lostByte t l n = none) : s.sees t l n = s := by
  simp [State.sees, h]

theorem State.readsTables_sound (s : State) (d : Bool) (t : Option PTile) (c : Ctx) (va : Nat) (h : s.poison = []) :
    s.readsTables d t c va = s := by
  simp [State.readsTables, h]

@[simp] theorem State.unitReads_mem (s : State) (c : Ctx) (pa : Nat) (va : Dbl) : (s.unitReads c pa va).mem = s.mem := by
  unfold State.unitReads State.owesReport; split <;> rfl

@[simp] theorem State.readsTables_mem (s : State) (d : Bool) (t : Option PTile) (c : Ctx) (va : Nat) :
    (s.readsTables d t c va).mem = s.mem := by
  unfold State.readsTables
  split
  · rfl
  · rename_i h
    clear h
    generalize State.walkReads .. = as
    induction as generalizing s with
    | nil => rfl
    | cons a r ih => rw [List.foldl_cons, ih]; cases t <;> simp

@[simp] theorem State.cacheStoreAt_mem (s : State) (t : PTile) (l : Loc) (k : Nat) (bs : List Byte) :
    (s.cacheStoreAt t l k bs).mem = s.mem := by
  unfold State.cacheStoreAt State.cacheStore; split
  · rfl
  · simp only; split
    · rfl
    · split <;> rfl

@[simp] theorem State.cacheLine_mem (s : State) (t : PTile) (l : Nat) (b : List Byte) : (s.cacheLine t l b).mem = s.mem := rfl

/-- The write-back of a lazy release's set keeps the canonical form. -/
theorem State.memWf_writeBackLazy (s : State) (r : Option Release) (w : s.MemWf) : (s.writeBackLazy r).MemWf := by
  cases r with
  | none => exact w
  | some r => exact State.memWf_writeBack s _ _ w

theorem State.memWf_capSet (s : State) (t : PTile) (w : s.MemWf) : (s.capSet t).MemWf := by
  unfold State.capSet; split
  · exact State.memWf_writeBackSet s t w
  · exact w

/-- An acquire keeps the canonical form. -/
theorem State.memWf_acquireMem (s : State) (t : PTile) (k pa : Nat) (w : s.MemWf) : (s.acquireMem t k pa).MemWf := by
  unfold State.acquireMem State.MemWf
  simp only
  rw [State.acquireCache_mem, State.joinReleases_mem]
  split
  · exact State.memWf_writeBackLazy s _ w
  · exact w

/-- What a release writes back before its own write keeps the canonical form. -/
theorem State.memWf_releaseBefore (s : State) (t : PTile) (k pa : Nat) (w : s.MemWf) : (s.releaseBefore t k pa).MemWf := by
  unfold State.releaseBefore
  apply State.memWf_capSet
  split
  · exact State.memWf_writeBackLazy s _ w
  · exact w

/-! ### Translation -/

/-- A translation found or walked keeps the canonical form: a walk may set A in the entry's home (R186). -/
theorem State.memWf_findTlb (s s' : State) (d : Bool) (t : Option PTile) (c : Ctx) (va : Nat) (e : TlbEntry) (w : s.MemWf)
    (h : s.findTlb d t c va = some (s', e)) : s'.MemWf := by
  have enter : ∀ (u : State) (x : TlbEntry), u.MemWf → (match t with
      | some t => u.modTile t (fun y => { y with tlb := (y.tlb ++ [x]).drop (y.tlb.length + 1 - 128) })
      | none => u).MemWf := by
    intro u x hu; cases t <;> exact hu
  unfold State.findTlb at h
  simp only at h
  split at h
  · cases h; exact w
  · split at h
    · simp only [Option.some.injEq, Prod.mk.injEq] at h
      rw [← h.1]; exact enter s _ w
    · split at h
      · cases h
      · simp only [Option.some.injEq, Prod.mk.injEq] at h
        rw [← h.1]; apply enter
        have w1 : (s.readsTables d t c va).MemWf := State.memWf_of_mem _ _ (State.readsTables_mem ..) w
        refine State.memWf_of_mem _ _ (State.modDie_mem ..) ?_
        split
        · exact w1
        · exact State.memWf_orEntry _ _ _ w1

theorem State.memWf_setDirty (s : State) (t : Option PTile) (c : Ctx) (va : Nat) (e : TlbEntry) (w : s.MemWf) :
    (s.setDirty t c va e).MemWf := by
  unfold State.setDirty
  simp only
  have tail : ∀ u : State, u.MemWf → ∀ (p q : Prop) [Decidable p] [Decidable q] (a n : Nat) (b : Dbl) (bs : List Byte)
      (f : Context → Context), (if p then u.orEntry n b else if q then u.homeOr a bs else u.modCtx c f).MemWf := by
    intro u hu p q _ _ a n b bs f
    by_cases hp : p
    · rw [if_pos hp]; exact State.memWf_orEntry _ _ _ hu
    · rw [if_neg hp]
      by_cases hq : q
      · rw [if_pos hq]; exact State.memWf_homeOr _ _ _ hu
      · rw [if_neg hq]; exact hu
  by_cases hk : e.known.contains (e.pa va / 4096) = true
  · rw [if_pos hk]; exact w
  · rw [if_neg hk]
    cases t with
    | none => exact tail s w ..
    | some t => exact tail (s.modTile t _) w ..

/-- A translation keeps the canonical form: all that it writes is A, D and the dirty bitmap (R186, R188). -/
theorem State.memWf_translate (s s' : State) (d : Bool) (t : Option PTile) (c : Ctx) (va : Nat) (acc : Acc) (v : Dbl) (pa : Nat)
    (w : s.MemWf) (h : s.translate d t c va acc v = .ok (s', pa)) : s'.MemWf := by
  unfold State.translate at h
  split at h
  · cases h
  unfold State.throughTables at h
  split at h
  · cases h
  · rename_i s1 e hf
    have w1 := State.memWf_findTlb s s1 d t c va e w hf
    split at h
    · cases h
    · split at h
      · cases h
      · simp only [Except.ok.injEq, Prod.mk.injEq] at h
        rw [← h.1]; split
        · exact State.memWf_setDirty s1 t c va e w1
        · exact w1

/-- A place in the scratchpad of another tile is a scratchpad's. -/
theorem State.peerLoc_scr (s : State) (p : PTile) (o : Nat) (va : Dbl) (l : Loc) (h : s.peerLoc p o va = .ok l) : l = .scr p o := by
  unfold State.peerLoc at h
  split at h <;> cases h
  rfl

/-- The place of an access: all that it may change of the home memory keeps the canonical form. -/
theorem State.memWf_locate (s s' : State) (t : PTile) (va : Dbl) (n : Nat) (acc : Acc) (l : Loc) (w : s.MemWf)
    (h : s.locate t va n acc = .ok (s', l)) : s'.MemWf := by
  unfold State.locate at h
  simp only at h
  split at h
  · split at h <;> cases h; exact w
  · split at h
    · split at h
      · cases h
      · split at h
        · cases h; exact w
        · cases hp : s.peerLoc _ _ va <;> rw [hp] at h <;> cases h
          exact w
    · split at h
      · cases h
      · rename_i s1 pa ht
        cases h; exact State.memWf_translate s _ _ _ _ _ _ _ _ w ht

/-! ### Accesses -/

theorem State.memWf_ite (p : Prop) [Decidable p] (a b : State) (ha : a.MemWf) (hb : b.MemWf) :
    (if p then a else b).MemWf := by
  split
  · exact ha
  · exact hb

theorem State.memWf_drainStore (s : State) (t : PTile) (b : BufStore) (w : s.MemWf) : (s.drainStore t b).MemWf := by
  apply State.memWf_of_mem _ _ _ w
  simp [State.drainStore]

theorem State.loadBytes_mem (s : State) (t : PTile) (seq k sc : Nat) (l : Loc) (n : Nat) :
    (s.loadBytes t seq k sc l n).1.mem = s.mem := by
  unfold State.loadBytes
  simp only
  split
  · rfl
  · split
    · simp
    · split
      · split
        · rfl
        · simp
      · simp

theorem State.memWf_atomic (s : State) (t : PTile) (sc : Nat) (l : Loc) (n : Nat) (f : Dbl → Option Dbl) (w : s.MemWf) :
    (s.atomic t sc l n f).1.MemWf := by
  unfold State.atomic
  split
  · rename_i p off
    have w1 := State.memWf_writeBackSet _ t (State.memWf_of_mem _ _ (State.sees_mem s t (.scr p off) n) w)
    simp only
    unfold State.MemWf; rw [State.acquireCache_mem]
    split
    · rw [State.writeLoc_mem]; exact w1
    · exact w1
  · rename_i pa
    have w1 : (((s.sees t (.mem pa) n).releaseBefore t sc pa).dropCached t (.mem pa)).MemWf :=
      State.memWf_of_mem _ _ (State.dropCached_mem ..)
        (State.memWf_releaseBefore _ t sc pa (State.memWf_of_mem _ _ (State.sees_mem ..) w))
    have w2 := State.memWf_acquireMem _ t sc pa w1
    simp only
    split
    · unfold State.MemWf State.recordRelease
      rw [State.putRelease_mem]
      split
      · rw [State.l2Write_mem]; exact w2
      · exact w2
    · have w3 := State.memWf_bothHome _ (lineOf pa) w2
      unfold State.recordRelease
      refine State.memWf_of_mem _ _ (State.putRelease_mem ..) ?_
      split
      · exact State.memWf_homeWrite _ _ _ w3
      · exact w3

/-- A fill that is performed keeps the canonical form. -/
theorem State.memWf_performFill (s : State) (t : PTile) (f : Fill) (w : s.MemWf) : (s.performFill t f).MemWf := by
  unfold State.performFill
  split
  · exact w
  · simp only
    unfold State.MemWf
    rw [State.modTc_mem, State.loadBytes_mem]
    split
    · exact State.memWf_acquireMem s t _ _ w
    · rw [State.acquireCache_mem]; exact w
    · exact w
  · rename_i l n op v _
    exact State.memWf_of_mem (s.atomic t f.scope l n (fun old => some (amoOp op n old v))).1 _ (State.modTc_mem ..)
      (State.memWf_atomic s t _ _ _ _ w)
  · rename_i l n va e v _
    have wa := State.memWf_atomic s t f.scope l n (fun old => if old = zext e (8 * n) then some v else none) w
    simp only
    unfold State.MemWf
    rw [State.modTc_mem]
    split
    · split
      · split
        · rename_i s1 _ ht
          exact State.memWf_translate _ s1 _ _ _ _ _ _ _ wa ht
        · exact wa
      · exact wa
    · exact wa

theorem State.memWf_settle (s : State) (t : PTile) (n : Nat) (w : s.MemWf) : (s.settle t n).MemWf := by
  induction n generalizing s with
  | zero => exact w
  | succ n ih =>
    unfold State.settle
    split
    · exact w
    · exact ih _ (State.memWf_performFill s t _ w)
    · exact ih _ (State.memWf_drainStore s t _ w)
    · split
      · exact ih _ (State.memWf_performFill s t _ w)
      · exact ih _ (State.memWf_drainStore s t _ w)

theorem State.memWf_completeFills (s : State) (t : PTile) (w : s.MemWf) : (s.completeFills t).MemWf := by
  unfold State.completeFills; split
  · exact w
  · exact State.memWf_settle s t _ w

theorem State.performVStore_mem (s : State) (t : PTile) (v : VStore) : (s.performVStore t v).mem = s.mem := by
  unfold State.performVStore
  simp only
  have : ∀ (l : List (Loc × Byte × Byte)) (u : State), (l.foldl (fun s b =>
      let old := (s.readLoc t b.1 1).headD 0
      (s.writeLoc t b.1 [(old &&& ~~~b.2.1) ||| (b.2.2 &&& b.2.1)]).dropCached t b.1) u).mem = u.mem := by
    intro l
    induction l with
    | nil => intro u; rfl
    | cons b r ih => intro u; rw [List.foldl_cons, ih]; simp
  rw [State.progress_mem, this]; simp

theorem State.completeVLoad_mem (s : State) (t : PTile) (l : VLoad) : (s.completeVLoad t l).mem = s.mem := by
  unfold State.completeVLoad
  simp only
  rw [State.modTc_mem]
  generalize l.lanes = ls
  induction ls generalizing s with
  | nil => rfl
  | cons p r ih => rw [List.foldl_cons, ih, State.dropCached_mem, State.sees_mem]

theorem State.settleV_mem (s : State) (t : PTile) (n : Nat) : (s.settleV t n).mem = s.mem := by
  induction n generalizing s with
  | zero => rfl
  | succ n ih =>
    unfold State.settleV
    split
    · rfl
    · rw [ih, State.completeVLoad_mem]
    · rw [ih, State.performVStore_mem]
    · split
      · rw [ih, State.completeVLoad_mem]
      · rw [ih, State.performVStore_mem]

theorem State.completeVLoads_mem (s : State) (t : PTile) : (s.completeVLoads t).mem = s.mem := by
  unfold State.completeVLoads; split
  · rfl
  · exact State.settleV_mem s t _

/-! ### Records of traps and reports -/

theorem State.memWf_trapRings (s : State) (l : List (Nat × Ring)) (w : s.MemWf) :
    State.MemWf { s with trapRings := l } := w

theorem State.memWf_ringTrap (s : State) (d m : Bool) (r : Rec) (w : s.MemWf) : (s.ringTrap d m r).MemWf := by
  unfold State.ringTrap
  exact State.memWf_trapRings _ _ (State.memWf_homeWrite s _ _ w)

theorem State.memWf_deliver (s : State) (t : PTile) (m : Bool) (w : s.MemWf) : (s.deliver t m).MemWf := by
  unfold State.deliver
  split
  · exact w
  · exact State.memWf_ite _ _ _ w (State.memWf_ringTrap _ _ _ _ w)

theorem State.memWf_postTrap (s : State) (t : PTile) (m : Bool) (r : Rec) (w : s.MemWf) : (s.postTrap t m r).MemWf := by
  unfold State.postTrap
  exact State.memWf_deliver _ t m w

theorem State.memWf_faultQueue (s : State) (c : Ctx) (r : Rec) (w : s.MemWf) : (s.faultQueue c r).MemWf := by
  unfold State.faultQueue
  exact State.memWf_ite _ _ _ (by exact w) (State.memWf_of_mem (s.homeWrite _ (recBytes r)) _ (State.modCtx_mem ..)
    (State.memWf_homeWrite s _ _ w))

theorem State.memWf_report (s : State) (c : Ctx) (k : Nat) (r : Report) (w : s.MemWf) : (s.report c k r).MemWf := by
  unfold State.report
  simp only
  split
  · exact w
  · exact State.memWf_faultQueue _ _ _ w

/-- Taking a trap keeps the canonical form. -/
theorem State.memWf_takeTrap (s : State) (t : PTile) (e : Eng) (k : TrapKind) (c : Cause) (w : s.MemWf) :
    (s.takeTrap t e k c).MemWf := by
  have w1 : ((s.completeFills t).completeVLoads t).MemWf :=
    State.memWf_of_mem _ _ (State.completeVLoads_mem ..) (State.memWf_completeFills s t w)
  unfold State.takeTrap
  generalize (s.completeFills t).completeVLoads t = u at w1
  simp only
  split
  · exact State.memWf_ite _ _ _ (by exact w1) (by exact w1)
  · exact State.memWf_postTrap _ _ _ _ (State.memWf_ite _ _ _ (by exact w1) (by exact w1))

/-- The return from a trap leaves the home memory. -/
@[simp] theorem State.trapReturn_mem (s : State) (t : PTile) : (s.trapReturn t).mem = s.mem := rfl

/-! ### The shared endings of instructions -/

/-- What an instruction comes to keeps the canonical form, where its effect does. -/
theorem State.memWf_finish (s t : State) (e : Eng) (n : Nat) (r : Except Halt State) (w : s.MemWf)
    (hr : ∀ u, r = .ok u → u.MemWf) (h : s.finish e n r = .next t) : t.MemWf := by
  unfold State.finish at h
  split at h <;> cases h
  · exact State.memWf_of_mem _ _ (State.advance_mem ..) (hr _ rfl)
  · exact w
  · exact w
  · exact State.memWf_takeTrap s _ _ _ _ w

theorem State.memWf_finishJump (s t : State) (e : Eng) (n : Nat) (r : Except Halt (State × Pc)) (w : s.MemWf)
    (hr : ∀ u, r = .ok u → u.1.MemWf) (h : s.finishJump e n r = .next t) : t.MemWf := by
  unfold State.finishJump at h
  split at h <;> cases h
  · exact State.memWf_of_mem _ _ (State.goTo_mem ..) (hr _ rfl)
  · exact w
  · exact w
  · exact State.memWf_takeTrap s _ _ _ _ w

theorem State.memWf_finishTc (s t : State) (e : Eng) (n : Nat) (r : Except Halt TCtx) (w : s.MemWf)
    (h : s.finishTc e n r = .next t) : t.MemWf := by
  apply State.memWf_finish s t e n _ w _ h
  intro u hu
  cases r with
  | error k => cases hu
  | ok c => cases hu; exact w

end Sys2Proof.Machine
end

