-- ==== Sys2Proof/Laws/Steps.lean ====
section
/-! SUPPORT. The shared endings of instructions and the shared operand forms: what each can come to, said once. -/

namespace Sys2Proof.Machine

/-! ### Endings -/

@[simp] theorem State.finish_ok (s u : State) (e : Eng) (n : Nat) : s.finish e n (.ok u) = .next (u.advance s.cur e n true) := rfl
@[simp] theorem State.finish_wait (s : State) (e : Eng) (n : Nat) : s.finish e n (.error .wait) = .next (s.stand s.cur e) := rfl
@[simp] theorem State.finish_hold (s : State) (e : Eng) (n : Nat) : s.finish e n (.error .hold) = .next (s.pause s.cur e) := rfl
@[simp] theorem State.finish_trap (s : State) (e : Eng) (n : Nat) (k : Cause) :
    s.finish e n (.error (.trap k)) = .next (s.takeTrap s.cur e .fault k) := rfl
@[simp] theorem State.finishJump_ok (s u : State) (e : Eng) (n : Nat) (p : Pc) :
    s.finishJump e n (.ok (u, p)) = .next (u.goTo s.cur e n p) := rfl
@[simp] theorem State.finishJump_wait (s : State) (e : Eng) (n : Nat) :
    s.finishJump e n (.error .wait) = .next (s.stand s.cur e) := rfl
@[simp] theorem State.finishJump_hold (s : State) (e : Eng) (n : Nat) :
    s.finishJump e n (.error .hold) = .next (s.pause s.cur e) := rfl
@[simp] theorem State.finishJump_trap (s : State) (e : Eng) (n : Nat) (k : Cause) :
    s.finishJump e n (.error (.trap k)) = .next (s.takeTrap s.cur e .fault k) := rfl
@[simp] theorem State.finishTc_ok (s : State) (e : Eng) (n : Nat) (c : TCtx) :
    s.finishTc e n (.ok c) = .next ((s.modTc s.cur (fun _ => c)).advance s.cur e n true) := rfl
@[simp] theorem State.finishTc_error (s : State) (e : Eng) (n : Nat) (k : Halt) :
    s.finishTc e n (.error k) = s.finish e n (.error k) := rfl
@[simp] theorem State.finishV_ok (s : State) (n : Nat) (c : TCtx) :
    s.finishV n (.ok c) = .next ((s.modTc s.cur (fun _ => { c with tick := c.tick + 1 })).advance s.cur .v n true) := rfl
@[simp] theorem State.finishV_error (s : State) (n : Nat) (k : Halt) : s.finishV n (.error k) = s.finish .v n (.error k) := rfl

/-- Whatever an instruction's effect is, the machine goes on. -/
@[simp] theorem State.goesOn_finish (s : State) (e : Eng) (n : Nat) (r : Except Halt State) : goesOn (s.finish e n r) = true := by
  rcases r with (_ | _ | k) | u <;> rfl
@[simp] theorem State.goesOn_finishJump (s : State) (e : Eng) (n : Nat) (r : Except Halt (State × Pc)) :
    goesOn (s.finishJump e n r) = true := by
  rcases r with (_ | _ | k) | ⟨u, p⟩ <;> rfl
@[simp] theorem State.goesOn_finishTc (s : State) (e : Eng) (n : Nat) (r : Except Halt TCtx) :
    goesOn (s.finishTc e n r) = true := State.goesOn_finish ..
@[simp] theorem State.goesOn_finishV (s : State) (n : Nat) (r : Except Halt TCtx) : goesOn (s.finishV n r) = true :=
  State.goesOn_finishTc ..

/-- The four things an instruction can come to (R32). -/
theorem State.finish_cases (s t : State) (e : Eng) (n : Nat) (r : Except Halt State) (h : s.finish e n r = .next t) :
    (∃ u, r = .ok u ∧ t = u.advance s.cur e n true) ∨ (r = .error .wait ∧ t = s.stand s.cur e) ∨
      (r = .error .hold ∧ t = s.pause s.cur e) ∨ (∃ k, r = .error (.trap k) ∧ t = s.takeTrap s.cur e .fault k) := by
  rcases r with (_ | _ | k) | u
  · exact .inr (.inl ⟨rfl, by cases h; rfl⟩)
  · exact .inr (.inr (.inl ⟨rfl, by cases h; rfl⟩))
  · exact .inr (.inr (.inr ⟨k, rfl, by cases h; rfl⟩))
  · exact .inl ⟨u, rfl, by cases h; rfl⟩

/-! ### Control queues -/

/-- An instruction that computes: its value is pushed after its pops. -/
theorem TCtx.compute_ok (c : TCtx) (rs : List Src) (d : BitVec 4) (f : List Dbl → Dbl) (vs : List Dbl)
    (h : c.readQ rs = .ok vs) (w : c.roomQ rs [d] = .ok ()) :
    c.compute rs d f = .ok ((c.popQ rs).pushQ d (f vs)) := by
  simp [TCtx.compute, h, w]; rfl

theorem TCtx.compute_readError (c : TCtx) (rs : List Src) (d : BitVec 4) (f : List Dbl → Dbl) (k : Halt)
    (h : c.readQ rs = .error k) : c.compute rs d f = .error k := by
  simp [TCtx.compute, h]; rfl

theorem TCtx.compute_roomError (c : TCtx) (rs : List Src) (d : BitVec 4) (f : List Dbl → Dbl) (vs : List Dbl) (k : Halt)
    (h : c.readQ rs = .ok vs) (w : c.roomQ rs [d] = .error k) : c.compute rs d f = .error k := by
  simp [TCtx.compute, h, w]; rfl

/-- Pops change the queue registers alone. -/
theorem TCtx.popQ_frame (c : TCtx) (rs : List Src) : { c.popQ rs with qs := c.qs } = c := by
  induction rs generalizing c with
  | nil => rfl
  | cons r rest ih =>
    obtain ⟨a, k⟩ := r
    cases k with
    | true => exact ih c
    | false =>
      have := ih (c.setQ a ((c.q a).drop 1))
      have h : c.popQ ((a, false) :: rest) = (c.setQ a ((c.q a).drop 1)).popQ rest := rfl
      rw [h]
      calc { (c.setQ a ((c.q a).drop 1)).popQ rest with qs := c.qs }
          = { ({ (c.setQ a ((c.q a).drop 1)).popQ rest with qs := (c.setQ a ((c.q a).drop 1)).qs } : TCtx) with qs := c.qs } := rfl
        _ = c := by rw [this]; rfl

/-- A push changes the queue registers alone. -/
theorem TCtx.pushQ_frame (c : TCtx) (d : BitVec 4) (v : Dbl) : { c.pushQ d v with qs := c.qs } = c := rfl

/-! ### Hardware queues and the text an engine waits at -/

/-- An ENQ or DEQ that has issued keeps what it reserved (R97, R346). -/
theorem State.issueQueue_again (s : State) (q : Bool × Nat) (ws : List (BitVec 4)) (h : (s.tc s.cur).c.await.isSome = true) :
    s.issueQueue q ws = s.modTc s.cur (fun c => c) := by
  have h' : (s.tile s.cur).tc.c.await.isSome = true := h
  simp [State.issueQueue, State.modTc, State.modTile, h']

@[simp] theorem State.issueQueue_mem (s : State) (q : Bool × Nat) (ws : List (BitVec 4)) : (s.issueQueue q ws).mem = s.mem := rfl
@[simp] theorem State.issueQueue_die0 (s : State) (q : Bool × Nat) (ws : List (BitVec 4)) : (s.issueQueue q ws).die0 = s.die0 := rfl
@[simp] theorem State.issueQueue_die1 (s : State) (q : Bool × Nat) (ws : List (BitVec 4)) : (s.issueQueue q ws).die1 = s.die1 := rfl

theorem TCtx.roomIssue_again (c : TCtx) (rs : List Src) (ws : List (BitVec 4)) (h : c.c.await.isSome = true) :
    c.roomIssue rs ws = .ok () := by simp [TCtx.roomIssue, h]
theorem TCtx.roomIssue_first (c : TCtx) (rs : List Src) (ws : List (BitVec 4)) (h : c.c.await.isSome = false) :
    c.roomIssue rs ws = c.roomQ rs ws := by simp [TCtx.roomIssue, h]

/-- Values on their way change the pending fills alone. -/
theorem TCtx.fillIssued_frame (c : TCtx) (vs : List Dbl) : { c.fillIssued vs with fills := c.fills } = c := rfl

/-- A trap away from an ENQ or DEQ in its wait leaves every slot (R346). -/
theorem TCtx.unreserved_none (c : TCtx) (h : c.c.await.isNone = true) : c.unreserved = c.qs := by simp [TCtx.unreserved, h]

@[simp] theorem State.keepText_mem (s : State) (t : PTile) (e : Eng) (ps : List Parcel) : (s.keepText t e ps).mem = s.mem := rfl
@[simp] theorem State.keepText_die0 (s : State) (t : PTile) (e : Eng) (ps : List Parcel) : (s.keepText t e ps).die0 = s.die0 := rfl
@[simp] theorem State.keepText_die1 (s : State) (t : PTile) (e : Eng) (ps : List Parcel) : (s.keepText t e ps).die1 = s.die1 := rfl

/-! ### Group slots -/

/-- What a release leaves of a slot (R229): a held arrival has taken the place of the one that cleared. -/
@[simp] theorem GSlot.released_arr (y : GSlot) (bad awaited : Bool) : (y.released bad awaited).arr = y.held := rfl
@[simp] theorem GSlot.released_held (y : GSlot) (bad awaited : Bool) : (y.released bad awaited).held = false := rfl
@[simp] theorem GSlot.released_valid (y : GSlot) (bad awaited : Bool) : (y.released bad awaited).valid = y.valid := rfl

/-- The release that clears a waited arrival is the one its wait is judged by; no other release is kept (R237). -/
theorem GSlot.released_fail (y : GSlot) (bad awaited : Bool) :
    (y.released bad awaited).fail = if awaited = true ∧ y.arr = true ∧ y.held = false then some bad else y.fail := by
  cases awaited <;> cases h : y.arr <;> cases k : y.held <;> simp [GSlot.released, h, k]

/-! ### Vector instructions -/

/-- An elementwise instruction whose sources have arrived retires. -/
theorem State.elementwise_ok (s : State) (n : Nat) (vd : BitVec 6) (m : Msk) (codes : List (BitVec 6)) (l : Nat)
    (f : List Lane → FR) (vs : List (List Lane))
    (h : s.VReads (codes.map (fun k => (k, s.me.active m))) codes vs) :
    s.elementwise n vd m codes l f =
      (let c := s.me
       let act := c.active m
       let rs := (List.range 512).map (fun i => if act.getLsbD i then f (vs.map (fun v => v.getD i 0)) else ⟨0, 0⟩)
       s.finishV n (.ok { (c.vpops codes).expose vd.toNat act (rs.map (·.bits)) l with
         vflags := c.vflags ||| rs.foldl (fun (a : Fl) r => a ||| r.fl) 0 })) := by
  obtain ⟨h1, h2⟩ := h
  simp only [State.elementwise]
  rw [show s.tc s.cur = s.me from rfl, h1, h2]
  rfl

/-- A whole-vector instruction whose sources have arrived retires. -/
theorem State.wholeVector_ok (s : State) (vd : BitVec 6) (m : Msk) (codes : List (BitVec 6)) (l : Nat)
    (reads : Mask → List Mask) (f : Mask → List (List Lane) → List Lane × Fl) (vs : List (List Lane))
    (h : s.VReads (codes.zip (reads (s.me.active m))) codes vs) :
    s.wholeVector vd m codes l reads f =
      (let c := s.me
       let r := f (c.active m) vs
       s.finishV 3 (.ok { (c.vpops codes).expose vd.toNat allLanes r.1 l with vflags := c.vflags ||| r.2 })) := by
  obtain ⟨h1, h2⟩ := h
  simp only [State.wholeVector]
  rw [show s.tc s.cur = s.me from rfl, h1, h2]
  rfl

/-! ### A task that leaves its tile (R108) -/

@[simp] theorem TCtx.discard_task (c : TCtx) : c.discard.task = none := rfl
@[simp] theorem TCtx.discard_qs (c : TCtx) : c.discard.qs = [] := rfl
@[simp] theorem TCtx.discard_scratch (c : TCtx) : c.discard.scratch = c.scratch := rfl
@[simp] theorem TCtx.discard_ts (c : TCtx) : c.discard.ts = c.ts := rfl
@[simp] theorem TCtx.dropTask_task (c : TCtx) : c.dropTask.task = none := rfl
@[simp] theorem TCtx.dropTask_scratch (c : TCtx) : c.dropTask.scratch = c.scratch := rfl

/-! ### Turns, and the accesses of units -/

/-- A turn whose tile's clocks run is what it does (R385). -/
theorem State.turn_runs (s : State) (u : Turn) (h : (s.clockOf u).any s.frozen = false) : s.turn u = s.act u := by
  simp [State.turn, h]

/-- One that needs clocks which a thermal stop holds leaves the package as it is (R385). -/
theorem State.turn_frozen (s : State) (u : Turn) (h : (s.clockOf u).any s.frozen = true) : s.turn u = .next s := by
  simp [State.turn, h]

@[simp] theorem State.turn_walk (s : State) (t : PTile) (e : Eng) : s.turn (.walk t e) = s.walk t e := rfl
@[simp] theorem State.turn_kstep (s : State) (t : PTile) : s.turn (.kstep t) = .next (s.kstep t) := rfl
@[simp] theorem State.turn_ck (s : State) : s.turn .ck = .next s.tick := rfl
@[simp] theorem State.turn_serve (s : State) : s.turn .serve = s.serveCommand := rfl
@[simp] theorem State.turn_boot (s : State) (d : Bool) : s.turn (.boot d) = .next (s.bootStep d) := rfl

@[simp] theorem State.owesReport_mem (s : State) (bad : Bool) (c : Ctx) (va : Dbl) : (s.owesReport bad c va).mem = s.mem := by
  cases bad <;> rfl
@[simp] theorem State.owesReport_tiles (s : State) (bad : Bool) (c : Ctx) (va : Dbl) : (s.owesReport bad c va).tiles = s.tiles := by
  cases bad <;> rfl

/-- Where an access of a unit through a peer window leads (R76, R77): to the scratchpad of a tile that neither exchanges, nor is fenced,
nor has its clocks stopped. -/
theorem State.homeAt_peer (s : State) (d : Bool) (c : Ctx) (acc : Acc) (va n : Nat) (p : PTile) (o : Nat) (w : isWindow va = true)
    (h : s.peerOf c va n = some (p, o)) (f : s.frozen p = false) (r : (s.tile p).stop = .none) :
    s.homeAt d c acc va n = .ok (s, .scr p o) := by
  simp [State.homeAt, w, h, f, State.peerLoc, r, Except.map]

/-- An access that is held leads nowhere now. -/
theorem State.homeAt_held (s : State) (d : Bool) (c : Ctx) (acc : Acc) (va n : Nat) (p : PTile) (o : Nat) (w : isWindow va = true)
    (h : s.peerOf c va n = some (p, o)) (f : s.frozen p = true) : s.homeAt d c acc va n = .error .hold := by
  simp [State.homeAt, w, h, f]

/-! ### Parameter stacks -/

theorem stackOp_ok (st : List Dbl) (needs pops pushes : Nat) (f : List Dbl → List Dbl) (h : needs ≤ st.length)
    (w : st.length - pops + pushes ≤ 8) : stackOp st needs pops pushes f = .ok (f st) := by
  simp only [stackOp, stackCheck]
  rw [if_neg (by omega), if_neg (by omega)]
  rfl

theorem stackOp_under (st : List Dbl) (needs pops pushes : Nat) (f : List Dbl → List Dbl) (h : st.length < needs) :
    stackOp st needs pops pushes f = trapE cSTKUNDER 0xFFFFFFFFFFFFFFFF#64 := by
  simp only [stackOp, stackCheck]
  rw [if_pos h]
  rfl

theorem stackOp_over (st : List Dbl) (needs pops pushes : Nat) (f : List Dbl → List Dbl) (h : needs ≤ st.length)
    (w : 8 < st.length - pops + pushes) : stackOp st needs pops pushes f = trapE cSTKOVER 0xFFFFFFFFFFFFFFFF#64 := by
  simp only [stackOp, stackCheck]
  rw [if_neg (by omega), if_pos w]
  rfl

end Sys2Proof.Machine
end

