-- ==== Sys2Proof/Tests/Slice0.lean ====
section
/-! SUPPORT. Tests of this row: words written out from the spec's encodings, ill-formed terms, and for each statement a state
and operands that meet its hypotheses. -/

set_option maxRecDepth 100000
set_option Elab.async false

namespace Sys2Proof.Tests

open Sys2Proof Sys2Proof.Machine

/-- Words of R112. -/
theorem test_decode_alu : ([
    ([0x1056, 0x9C00], .add 5 9 12 true false),
    ([0x1056, 0x9C01], .sub 5 9 12 true false),
    ([0x1056, 0x9C02], .mul 5 9 12 true false),
    ([0x1056, 0x9C03], .mulh 5 9 12 true false),
    ([0x1056, 0x9C04], .mulhu 5 9 12 true false),
    ([0x1056, 0x9C05], .divs 5 9 12 true false),
    ([0x1056, 0x9C06], .divu 5 9 12 true false),
    ([0x1056, 0x9C07], .rems 5 9 12 true false),
    ([0x1056, 0x9C08], .remu 5 9 12 true false),
    ([0x1056, 0x9C10], .and 5 9 12 true false),
    ([0x1056, 0x9C11], .or 5 9 12 true false),
    ([0x1056, 0x9C12], .xor 5 9 12 true false),
    ([0x1056, 0x9C18], .shl 5 9 12 true false),
    ([0x1056, 0x9C19], .shr 5 9 12 true false),
    ([0x1056, 0x9C1A], .sha 5 9 12 true false),
    ([0x1056, 0x9C20], .min 5 9 12 true false),
    ([0x1056, 0x9C21], .max 5 9 12 true false),
    ([0x1056, 0x9C22], .minu 5 9 12 true false),
    ([0x1056, 0x9C23], .maxu 5 9 12 true false)] : List (List Parcel × Instr)).all (fun p => decode p.1 = .ok p.2) = true := by decide

/-- Words of R113, R114. -/
theorem test_decode_unary : ([
    ([0x109A, 0x3000], .mov 6 3 true),
    ([0x109A, 0x3001], .neg 6 3 true),
    ([0x109A, 0x3002], .not 6 3 true),
    ([0x109A, 0x3003], .clz 6 3 true),
    ([0x109A, 0x3004], .popc 6 3 true),
    ([0x109A, 0x3005], .sextb 6 3 true),
    ([0x109A, 0x3006], .sexth 6 3 true),
    ([0x109A, 0x3007], .sextw 6 3 true),
    ([0x109A, 0x3008], .zextb 6 3 true),
    ([0x109A, 0x3009], .zexth 6 3 true),
    ([0x109A, 0x300A], .zextw 6 3 true),
    ([0x10E8, 0x7ABC], .addi 10 7 false 0xABC),
    ([0x1128, 0x7ABC], .andi 10 7 false 0xABC),
    ([0x1168, 0x7ABC], .ori 10 7 false 0xABC),
    ([0x11A8, 0x7ABC], .xori 10 7 false 0xABC),
    ([0x11EA, 0x7025], .shli 10 7 true 37),
    ([0x122A, 0x7025], .shri 10 7 true 37),
    ([0x126A, 0x7025], .shai 10 7 true 37)] : List (List Parcel × Instr)).all (fun p => decode p.1 = .ok p.2) = true := by decide

/-- Words of R111, R115–R121. -/
theorem test_decode_queue : ([
    ([0x0000], .nop),
    ([0x228C, 0xCDEF, 0x89AB], .li 3 0x89ABCDEF),
    ([0x22D0, 0x5678, 0x1234], .lih 4 0x12345678),
    ([0x032C], .drop 11),
    ([0x0374], .qclr 13),
    ([0x1388, 0xE000], .qlen 2 14),
    ([0x13C3, 0x3105], .cmp 3 1 true true 5),
    ([0x1412, 0x6801], .cmpi 6 true 4 0x801),
    ([0x1454, 0xFFF0], .b 5 0xFFF0),
    ([0x14AC, 0x0007], .bt true false 3 7),
    ([0x14DA, 0x0008], .bf false true 6 8),
    ([0x1504, 0x0021], .call 1 0x21),
    ([0x0548], .ret 2),
    ([0x1593, 0xFFFC], .loop 3 4 0xFFFC),
    ([0x15CA, 0x8000], .lcset 2 8 true),
    ([0x1604, 0x9000], .spushm 1 9),
    ([0x164C, 0x3000], .spopm 3 3)] : List (List Parcel × Instr)).all (fun p => decode p.1 = .ok p.2) = true := by decide

/-- Words of R192, R196, R197. -/
theorem test_decode_memory : ([
    ([0x26A6, 0x5BD0, 0xFFF8], .ld ⟨9, 2, 5, 11, 6, true, 0xFFF8⟩),
    ([0x26E6, 0x5BD0, 0xFFF8], .lds ⟨9, 2, 5, 11, 6, true, 0xFFF8⟩),
    ([0x2766, 0x5BD0, 0xFFF8], .lda ⟨9, 2, 5, 11, 6, true, 0xFFF8⟩),
    ([0x2725, 0x5BC8, 0x0010], .st ⟨9, 1, 5, 11, 6, false, true, 0x0010⟩),
    ([0x27A5, 0x5BC8, 0x0010], .stl ⟨9, 1, 5, 11, 6, false, true, 0x0010⟩),
    ([0x27E7, 0x5BD0, 0x0000], .aadd ⟨9, true, 5, 11, 6, true, false⟩),
    ([0x27E7, 0x5BD0, 0x0001], .aand ⟨9, true, 5, 11, 6, true, false⟩),
    ([0x27E7, 0x5BD0, 0x0002], .aor ⟨9, true, 5, 11, 6, true, false⟩),
    ([0x27E7, 0x5BD0, 0x0003], .axor ⟨9, true, 5, 11, 6, true, false⟩),
    ([0x27E7, 0x5BD0, 0x0004], .amin ⟨9, true, 5, 11, 6, true, false⟩),
    ([0x27E7, 0x5BD0, 0x0005], .amax ⟨9, true, 5, 11, 6, true, false⟩),
    ([0x27E7, 0x5BD0, 0x0006], .aminu ⟨9, true, 5, 11, 6, true, false⟩),
    ([0x27E7, 0x5BD0, 0x0007], .amaxu ⟨9, true, 5, 11, 6, true, false⟩),
    ([0x27E7, 0x5BD0, 0x0008], .axchg ⟨9, true, 5, 11, 6, true, false⟩),
    ([0x2806, 0x4C70, 0x2700], .cas ⟨1, false, 4, 12, 3, true, 2, 7⟩)] : List (List Parcel × Instr)).all (fun p => decode p.1 = .ok p.2) = true := by decide

/-- Words of R232–R237. -/
theorem test_decode_sync : ([
    ([0x1868, 0x8001], .fenceFull 5 0x8001),
    ([0x1859, 0x0006], .fenceSs 3 0x0006),
    ([0x184A, 0x4000], .fenceLl 1 0x4000),
    ([0x18A3, 0x2300], .twait 17 true 2 1 true),
    ([0x18CC, 0x9200], .tadd 6 false 9 1 false),
    ([0x1906, 0x1000], .tread 1 3),
    ([0x1940, 0x123F], .waitc 1 2 3 15),
    ([0x09B8], .garv 3 true),
    ([0x09F8], .gwait 3 true),
    ([0x0A38], .gsync 3 true)] : List (List Parcel × Instr)).all (fun p => decode p.1 = .ok p.2) = true := by decide

/-- Words of R263–R270, R296–R298, R317–R319, R323–R326, R363–R365. -/
theorem test_decode_task : ([
    ([0x0A68], .fork true false true),
    ([0x0A80], .rdv),
    ([0x1AE7, 0x7000], .exit 4 true 3 7),
    ([0x0B00], .yield),
    ([0x0B40], .chkp),
    ([0x1B98, 0x003F], .parm 6 63),
    ([0x1BC0, 0x00C8], .winset 200),
    ([0x1C06, 0x0800], .enq 1 0 8 true false),
    ([0x1C54, 0x3001], .deq 5 3 false true),
    ([0x1C8A, 0x0000], .qstat 2 0 true),
    ([0x1CC2, 0x9000], .wpub 9 true),
    ([0x1D20, 0x0001], .wadoptToken 8),
    ([0x1D20, 0x0002], .wadoptSeq 8),
    ([0x1D4A, 0x3000], .whold 2 3 true),
    ([0x1D80, 0x5000], .wdrop 5 false),
    ([0x1DD2, 0x1000], .wqry 4 1 true),
    ([0x1E00, 0x7000], .spapp 7 false),
    ([0x1E56, 0x1404], .acpt 5 1 4 true false 4),
    ([0x0E98], .jfrag 6),
    ([0x0EFF], .trap 63),
    ([0x0FC0], .scall),
    ([0x0F00], .tret),
    ([0x1F4C, 0x0020], .csrr 3 0x020),
    ([0x1F82, 0x2005], .csrw 0x005 2 true)] : List (List Parcel × Instr)).all (fun p => decode p.1 = .ok p.2) = true := by decide

/-- Words of R136–R139, R146. -/
theorem test_decode_vector_numbers : ([
    ([0x606F, 0xE70B, 0x00D0], .vadd 47 57 48 ⟨5, true⟩ 1 ⟨true, false, 2⟩),
    ([0x60AF, 0xE70B, 0x00D0], .vsub 47 57 48 ⟨5, true⟩ 1 ⟨true, false, 2⟩),
    ([0x60EF, 0xE70B, 0x00D0], .vmul 47 57 48 ⟨5, true⟩ 1 ⟨true, false, 2⟩),
    ([0x61EF, 0xE70B, 0x00D0], .vmin 47 57 48 ⟨5, true⟩ 1 ⟨true, false, 2⟩),
    ([0x622F, 0xE70B, 0x00D0], .vmax 47 57 48 ⟨5, true⟩ 1 ⟨true, false, 2⟩),
    ([0x625E, 0x240B, 0x00D0], .vabs 30 9 ⟨5, true⟩ 1 ⟨true, false, 2⟩),
    ([0x629E, 0x240B, 0x00D0], .vneg 30 9 ⟨5, true⟩ 1 ⟨true, false, 2⟩),
    ([0x62C1, 0x083B, 0x0050], .vscale 1 2 3 ⟨5, true⟩ ⟨true, false, 2⟩),
    ([0x6107, 0x209B, 0xE050], .vfma 7 8 9 56 ⟨5, true⟩ 0 ⟨true, false, 2⟩),
    ([0x6147, 0x209B, 0xE050], .vfms 7 8 9 56 ⟨5, true⟩ 0 ⟨true, false, 2⟩),
    ([0x6187, 0x209B, 0xE050], .vfnma 7 8 9 56 ⟨5, true⟩ 0 ⟨true, false, 2⟩),
    ([0x6314, 0x540B, 0x0050], .vrcp 20 21 ⟨5, true⟩ ⟨true, false, 2⟩),
    ([0x6354, 0x540B, 0x0050], .vrsq 20 21 ⟨5, true⟩ ⟨true, false, 2⟩),
    ([0x6394, 0x540B, 0x0050], .vsqrt 20 21 ⟨5, true⟩ ⟨true, false, 2⟩),
    ([0x63D4, 0x540B, 0x0050], .vexp2 20 21 ⟨5, true⟩ ⟨true, false, 2⟩),
    ([0x6414, 0x540B, 0x0050], .vlog2 20 21 ⟨5, true⟩ ⟨true, false, 2⟩),
    ([0x6440, 0xE400, 0x0002], .vcvt 0 57 0 ⟨0, false⟩ 0 2 ⟨false, false, 0⟩),
    ([0x6443, 0x138B, 0x0240], .vcvtL6 3 4 56 ⟨5, true⟩ true)] : List (List Parcel × Instr)).all (fun p => decode p.1 = .ok p.2) = true := by decide

/-- Words of R135, R140–R151. -/
theorem test_decode_vector_bits : ([
    ([0x64A8, 0xC8CB, 0x0000], .vand 40 50 12 ⟨5, true⟩),
    ([0x64E8, 0xC8CB, 0x0000], .vor 40 50 12 ⟨5, true⟩),
    ([0x6528, 0xC8CB, 0x0000], .vxor 40 50 12 ⟨5, true⟩),
    ([0x65A8, 0xC8CB, 0x0000], .vshl 40 50 12 ⟨5, true⟩),
    ([0x65E8, 0xC8CB, 0x0000], .vshr 40 50 12 ⟨5, true⟩),
    ([0x6628, 0xC8CB, 0x0000], .vsha 40 50 12 ⟨5, true⟩),
    ([0x6668, 0xC8CB, 0x0000], .vsel 40 50 12 ⟨5, true⟩),
    ([0x6928, 0xC8CB, 0x0000], .vperm 40 50 12 ⟨5, true⟩),
    ([0x69E8, 0xC8CB, 0x0000], .vsort 40 50 12 ⟨5, true⟩),
    ([0x6568, 0xC80B, 0x0000], .vnot 40 50 ⟨5, true⟩),
    ([0x6A68, 0xC80B, 0x0000], .vmov 40 50 ⟨5, true⟩),
    ([0x6686, 0x042B, 0x0044], .vcmp 6 1 2 ⟨5, true⟩ 0 4 true),
    ([0x6786, 0x0C50, 0x0000], .vmand 6 3 5),
    ([0x6786, 0x0C50, 0x0001], .vmor 6 3 5),
    ([0x6786, 0x0C50, 0x0002], .vmxor 6 3 5),
    ([0x6786, 0x0C50, 0x0003], .vmandn 6 3 5),
    ([0x6786, 0x0C00, 0x0004], .vmnot 6 3),
    ([0x6786, 0x0000, 0x0005], .vmset 6),
    ([0x6786, 0x0000, 0x0006], .vmclr 6),
    ([0x67C5, 0x180B, 0x0051], .vrsum 5 6 ⟨5, true⟩ 0 true ⟨true, false, 2⟩),
    ([0x68C5, 0x180B, 0x0051], .vscan 5 6 ⟨5, true⟩ 0 true ⟨true, false, 2⟩),
    ([0x6805, 0x180B, 0x0101], .vrmax 5 6 ⟨5, true⟩ 2 true),
    ([0x6845, 0x180B, 0x0180], .vrmin 5 6 ⟨5, true⟩ 3 false),
    ([0x6885, 0x180B, 0x0001], .vramax 5 6 ⟨5, true⟩ true),
    ([0x6949, 0x280B, 0x01FF], .vrot 9 10 ⟨5, true⟩ 511),
    ([0x6989, 0x280B, 0x012C], .vbcast 9 10 ⟨5, true⟩ 300),
    ([0x4000], .vnop),
    ([0x6AA1, 0x000B, 0x8001], .vli 33 ⟨5, true⟩ 0x8001),
    ([0x66C1, 0x042B, 0x0182], .vcmpq true 1 2 ⟨5, true⟩ 3 2 false),
    ([0x6700, 0x240B, 0x00C0], .vtestz 9 ⟨5, true⟩ 1 true),
    ([0x6740, 0x240B, 0x0040], .vtestn 9 ⟨5, true⟩ 0 true),
    ([0x6A01, 0x083B, 0x0001], .vrand 1 2 3 ⟨5, true⟩ true)] : List (List Parcel × Instr)).all (fun p => decode p.1 = .ok p.2) = true := by decide

/-- Words of R152–R156. -/
theorem test_decode_vector_memory : ([
    ([0x6AF0, 0xCDEF, 0x89AB], .vai 6 0x89ABCDEF),
    ([0x5B28, 0xFFFE], .vaadd 5 0xFFFE),
    ([0x5B60, 0x003F], .vaparm 4 63),
    ([0x6BAD, 0xD2DB, 0xFFC0], .vld ⟨45, 6, 9, 3, 1, ⟨5, true⟩, 0xFFC0⟩),
    ([0x6BED, 0xD2DB, 0xFFC0], .vst ⟨45, 6, 9, 3, 1, ⟨5, true⟩, 0xFFC0⟩),
    ([0x6C2D, 0xD2FB, 0xB800], .vldx ⟨45, 6, 9, 3, 3, ⟨5, true⟩, 46⟩),
    ([0x6C6D, 0xD2FB, 0xB800], .vstx ⟨45, 6, 9, 3, 3, ⟨5, true⟩, 46⟩),
    ([0x5CB1, 0xDFF8], .vmovq 13 49 511)] : List (List Parcel × Instr)).all (fun p => decode p.1 = .ok p.2) = true := by decide

/-- Words of R175–R184. -/
theorem test_decode_matrix : ([
    ([0x8000], .mnop),
    ([0x807F], .mlit6 63),
    ([0x9080, 0xFFF0], .mlit16 0xFFF0),
    ([0xA0C0, 0x5678, 0x1234], .mlit32 0x12345678),
    ([0x8106], .mparm 6),
    ([0x8140], .mdup),
    ([0x8141], .mdrop),
    ([0x8142], .mswap),
    ([0x8143], .mover),
    ([0x8144], .madd),
    ([0x8145], .msub),
    ([0x8146], .mshl),
    ([0x8147], .mmul),
    ([0x819B], .mma true true false true true),
    ([0x81C6], .mmas false true true),
    ([0x8203], .mzero 3),
    ([0x8240], .mdrain),
    ([0x8280], .mepi),
    ([0x82C0], .mtopk)] : List (List Parcel × Instr)).all (fun p => decode p.1 = .ok p.2) = true := by decide

/-- Words of R209–R219, R235, R328, R330, R331. -/
theorem test_decode_copy : ([
    ([0xC000], .xnop),
    ([0xC07F], .xlit6 63),
    ([0xD080, 0x0064], .xlit16 0x0064),
    ([0xE0C0, 0x5678, 0x1234], .xlit32 0x12345678),
    ([0xC106], .xparm 6),
    ([0xC140], .xdup),
    ([0xC141], .xdrop),
    ([0xC142], .xswap),
    ([0xC143], .xover),
    ([0xC144], .xadd),
    ([0xC145], .xsub),
    ([0xC146], .xshl),
    ([0xC147], .xmul),
    ([0xC180], .xcopy),
    ([0xC1C0], .xcopy2),
    ([0xC200], .xgath),
    ([0xC240], .xscat),
    ([0xC2C0], .xmeta),
    ([0xC300], .xfill),
    ([0xC380], .xredv),
    ([0xC400], .xkvc),
    ([0xC283], .xfeed 3),
    ([0xC35F], .xfmt 31),
    ([0xC3C1], .xbcst true),
    ([0xC45F], .xtadd 31)] : List (List Parcel × Instr)).all (fun p => decode p.1 = .ok p.2) = true := by decide

/-- Terms that R42 refuse. -/
theorem test_ill_formed_control : ([
    .cmp 0 0 false false 6, .cmpi 0 false 6 0, .spushm 2 1, .spopm 15 14, .exit 5 false 0 0, .exit 1 false 1 0,
    .exit 0 false 0 1, .enq 0 0 9 false false, .deq 9 0 false false, .acpt 0 0 0 false false 0, .csrr 0 0x00B,
    .csrw 0x083 0 false, .csrw 0x000 0 false] : List Instr).all (fun i => !wellFormed i) = true := by decide

/-- Terms that R44, R46 refuse. -/
theorem test_ill_formed_vector_first : ([
    .vadd 48 0 0 ⟨0, false⟩ 0 ⟨false, false, 0⟩, .vadd 0 58 0 ⟨0, false⟩ 0 ⟨false, false, 0⟩,
    .vadd 0 0 58 ⟨0, false⟩ 0 ⟨false, false, 0⟩, .vadd 0 0 0 ⟨0, false⟩ 4 ⟨false, false, 0⟩,
    .vadd 0 0 0 ⟨0, false⟩ 2 ⟨false, false, 1⟩, .vsub 48 0 0 ⟨0, false⟩ 0 ⟨false, false, 0⟩,
    .vsub 0 58 0 ⟨0, false⟩ 0 ⟨false, false, 0⟩, .vsub 0 0 58 ⟨0, false⟩ 0 ⟨false, false, 0⟩,
    .vsub 0 0 0 ⟨0, false⟩ 4 ⟨false, false, 0⟩, .vsub 0 0 0 ⟨0, false⟩ 2 ⟨false, false, 1⟩,
    .vmul 48 0 0 ⟨0, false⟩ 0 ⟨false, false, 0⟩, .vmul 0 58 0 ⟨0, false⟩ 0 ⟨false, false, 0⟩,
    .vmul 0 0 58 ⟨0, false⟩ 0 ⟨false, false, 0⟩, .vmul 0 0 0 ⟨0, false⟩ 4 ⟨false, false, 0⟩,
    .vmul 0 0 0 ⟨0, false⟩ 2 ⟨false, false, 1⟩, .vmin 48 0 0 ⟨0, false⟩ 0 ⟨false, false, 0⟩,
    .vmin 0 58 0 ⟨0, false⟩ 0 ⟨false, false, 0⟩, .vmin 0 0 58 ⟨0, false⟩ 0 ⟨false, false, 0⟩,
    .vmin 0 0 0 ⟨0, false⟩ 4 ⟨false, false, 0⟩, .vmin 0 0 0 ⟨0, false⟩ 2 ⟨false, false, 1⟩,
    .vmax 48 0 0 ⟨0, false⟩ 0 ⟨false, false, 0⟩, .vmax 0 58 0 ⟨0, false⟩ 0 ⟨false, false, 0⟩,
    .vmax 0 0 58 ⟨0, false⟩ 0 ⟨false, false, 0⟩, .vmax 0 0 0 ⟨0, false⟩ 4 ⟨false, false, 0⟩,
    .vmax 0 0 0 ⟨0, false⟩ 2 ⟨false, false, 1⟩, .vabs 48 0 ⟨0, false⟩ 0 ⟨false, false, 0⟩,
    .vabs 0 58 ⟨0, false⟩ 0 ⟨false, false, 0⟩, .vabs 0 0 ⟨0, false⟩ 3 ⟨false, false, 0⟩,
    .vabs 0 0 ⟨0, false⟩ 4 ⟨false, false, 0⟩, .vneg 48 0 ⟨0, false⟩ 0 ⟨false, false, 0⟩,
    .vneg 0 58 ⟨0, false⟩ 0 ⟨false, false, 0⟩, .vneg 0 0 ⟨0, false⟩ 3 ⟨false, false, 0⟩,
    .vneg 0 0 ⟨0, false⟩ 4 ⟨false, false, 0⟩, .vscale 48 0 0 ⟨0, false⟩ ⟨false, false, 0⟩,
    .vscale 0 58 0 ⟨0, false⟩ ⟨false, false, 0⟩, .vscale 0 0 58 ⟨0, false⟩ ⟨false, false, 0⟩,
    .vfma 48 0 0 0 ⟨0, false⟩ 0 ⟨false, false, 0⟩, .vfma 0 58 0 0 ⟨0, false⟩ 0 ⟨false, false, 0⟩,
    .vfma 0 0 58 0 ⟨0, false⟩ 0 ⟨false, false, 0⟩, .vfma 0 0 0 58 ⟨0, false⟩ 0 ⟨false, false, 0⟩,
    .vfma 0 0 0 0 ⟨0, false⟩ 4 ⟨false, false, 0⟩, .vfms 48 0 0 0 ⟨0, false⟩ 0 ⟨false, false, 0⟩,
    .vfms 0 58 0 0 ⟨0, false⟩ 0 ⟨false, false, 0⟩, .vfms 0 0 58 0 ⟨0, false⟩ 0 ⟨false, false, 0⟩,
    .vfms 0 0 0 58 ⟨0, false⟩ 0 ⟨false, false, 0⟩, .vfms 0 0 0 0 ⟨0, false⟩ 4 ⟨false, false, 0⟩,
    .vfnma 48 0 0 0 ⟨0, false⟩ 0 ⟨false, false, 0⟩, .vfnma 0 58 0 0 ⟨0, false⟩ 0 ⟨false, false, 0⟩,
    .vfnma 0 0 58 0 ⟨0, false⟩ 0 ⟨false, false, 0⟩, .vfnma 0 0 0 58 ⟨0, false⟩ 0 ⟨false, false, 0⟩,
    .vfnma 0 0 0 0 ⟨0, false⟩ 4 ⟨false, false, 0⟩, .vrcp 48 0 ⟨0, false⟩ ⟨false, false, 0⟩,
    .vrcp 0 58 ⟨0, false⟩ ⟨false, false, 0⟩, .vrsq 48 0 ⟨0, false⟩ ⟨false, false, 0⟩,
    .vrsq 0 58 ⟨0, false⟩ ⟨false, false, 0⟩, .vsqrt 48 0 ⟨0, false⟩ ⟨false, false, 0⟩,
    .vsqrt 0 58 ⟨0, false⟩ ⟨false, false, 0⟩, .vexp2 48 0 ⟨0, false⟩ ⟨false, false, 0⟩,
    .vexp2 0 58 ⟨0, false⟩ ⟨false, false, 0⟩, .vlog2 48 0 ⟨0, false⟩ ⟨false, false, 0⟩,
    .vlog2 0 58 ⟨0, false⟩ ⟨false, false, 0⟩, .vcvt 48 0 0 ⟨0, false⟩ 0 1 ⟨false, false, 0⟩,
    .vcvt 0 58 0 ⟨0, false⟩ 0 1 ⟨false, false, 0⟩, .vcvt 0 0 1 ⟨0, false⟩ 0 1 ⟨false, false, 0⟩,
    .vcvt 0 0 0 ⟨0, false⟩ 0 1 ⟨false, false, 1⟩, .vcvt 0 0 58 ⟨0, false⟩ 1 0 ⟨false, false, 0⟩,
    .vcvt 0 0 0 ⟨0, false⟩ 0 0 ⟨false, false, 0⟩, .vcvt 0 0 0 ⟨0, false⟩ 0 4 ⟨true, false, 0⟩,
    .vcvt 0 0 0 ⟨0, false⟩ 0 2 ⟨true, false, 0⟩, .vcvt 0 0 0 ⟨0, false⟩ 2 0 ⟨false, true, 0⟩,
    .vcvt 0 0 0 ⟨0, false⟩ 2 3 ⟨false, false, 1⟩, .vcvt 0 0 0 ⟨0, false⟩ 5 0 ⟨false, false, 1⟩,
    .vcvtL6 48 0 0 ⟨0, false⟩ false, .vcvtL6 0 58 0 ⟨0, false⟩ false, .vcvtL6 0 0 58 ⟨0, false⟩ false] : List Instr).all (fun i => !wellFormed i) = true := by decide

/-- Terms that R44, R46 refuse. -/
theorem test_ill_formed_vector_second : ([
    .vand 48 0 0 ⟨0, false⟩, .vand 0 58 0 ⟨0, false⟩, .vand 0 0 58 ⟨0, false⟩, .vor 48 0 0 ⟨0, false⟩,
    .vor 0 58 0 ⟨0, false⟩, .vor 0 0 58 ⟨0, false⟩, .vxor 48 0 0 ⟨0, false⟩, .vxor 0 58 0 ⟨0, false⟩,
    .vxor 0 0 58 ⟨0, false⟩, .vshl 48 0 0 ⟨0, false⟩, .vshl 0 58 0 ⟨0, false⟩, .vshl 0 0 58 ⟨0, false⟩,
    .vshr 48 0 0 ⟨0, false⟩, .vshr 0 58 0 ⟨0, false⟩, .vshr 0 0 58 ⟨0, false⟩, .vsha 48 0 0 ⟨0, false⟩,
    .vsha 0 58 0 ⟨0, false⟩, .vsha 0 0 58 ⟨0, false⟩, .vsel 48 0 0 ⟨0, false⟩, .vsel 0 58 0 ⟨0, false⟩,
    .vsel 0 0 58 ⟨0, false⟩, .vperm 48 0 0 ⟨0, false⟩, .vperm 0 58 0 ⟨0, false⟩, .vperm 0 0 58 ⟨0, false⟩,
    .vnot 48 0 ⟨0, false⟩, .vnot 0 58 ⟨0, false⟩, .vmov 48 0 ⟨0, false⟩, .vmov 0 58 ⟨0, false⟩,
    .vcmp 0 58 0 ⟨0, false⟩ 0 0 false, .vcmp 0 0 58 ⟨0, false⟩ 0 0 false, .vcmp 0 0 0 ⟨0, false⟩ 1 0 false,
    .vcmp 0 0 0 ⟨0, false⟩ 2 0 true, .vcmpq false 58 0 ⟨0, false⟩ 0 0 false, .vcmpq false 0 58 ⟨0, false⟩ 0 0 false,
    .vcmpq false 0 0 ⟨0, false⟩ 1 0 false, .vcmpq false 0 0 ⟨0, false⟩ 2 0 true, .vtestz 58 ⟨0, false⟩ 0 false,
    .vtestz 0 ⟨0, false⟩ 4 false, .vtestz 0 ⟨0, false⟩ 2 true, .vtestn 58 ⟨0, false⟩ 0 false, .vtestn 0 ⟨0, false⟩ 2 false,
    .vrsum 48 0 ⟨0, false⟩ 0 false ⟨false, false, 0⟩, .vrsum 0 58 ⟨0, false⟩ 0 false ⟨false, false, 0⟩,
    .vrsum 0 0 ⟨0, false⟩ 1 false ⟨false, false, 0⟩, .vrsum 0 0 ⟨0, false⟩ 2 false ⟨false, false, 1⟩,
    .vscan 48 0 ⟨0, false⟩ 0 false ⟨false, false, 0⟩, .vscan 0 58 ⟨0, false⟩ 0 false ⟨false, false, 0⟩,
    .vscan 0 0 ⟨0, false⟩ 1 false ⟨false, false, 0⟩, .vscan 0 0 ⟨0, false⟩ 2 false ⟨false, false, 1⟩,
    .vrmax 48 0 ⟨0, false⟩ 0 false, .vrmax 0 58 ⟨0, false⟩ 0 false, .vrmax 0 0 ⟨0, false⟩ 1 false,
    .vrmin 48 0 ⟨0, false⟩ 0 false, .vrmin 0 58 ⟨0, false⟩ 0 false, .vrmin 0 0 ⟨0, false⟩ 1 false,
    .vramax 48 0 ⟨0, false⟩ false, .vramax 0 58 ⟨0, false⟩ false, .vrot 48 0 ⟨0, false⟩ 0, .vrot 0 58 ⟨0, false⟩ 0,
    .vbcast 48 0 ⟨0, false⟩ 0, .vbcast 0 58 ⟨0, false⟩ 0, .vsort 47 0 0 ⟨0, false⟩, .vsort 0 58 0 ⟨0, false⟩,
    .vsort 0 0 58 ⟨0, false⟩, .vrand 48 0 0 ⟨0, false⟩ false, .vrand 0 58 0 ⟨0, false⟩ false,
    .vrand 0 0 58 ⟨0, false⟩ false, .vli 48 ⟨0, false⟩ 0, .vld ⟨48, 0, 0, 0, 0, ⟨0, false⟩, 0⟩,
    .vst ⟨58, 0, 0, 0, 0, ⟨0, false⟩, 0⟩, .vldx ⟨48, 0, 0, 0, 0, ⟨0, false⟩, 0⟩, .vldx ⟨0, 0, 0, 0, 0, ⟨0, false⟩, 48⟩,
    .vstx ⟨58, 0, 0, 0, 0, ⟨0, false⟩, 0⟩, .vstx ⟨0, 0, 0, 0, 0, ⟨0, false⟩, 48⟩, .vmovq 0 58 0] : List Instr).all (fun i => !wellFormed i) = true := by decide

/-! ### Small states -/

/-- The package after reset with context 0 live on tile 0, which acts, and that tile's context state changed. -/
def at0 (f : TCtx → TCtx) : State := (State.reset.modTile 0 (fun x => { x with live := some 0 })).modTc 0 f

/-- A queue register of filled slots. -/
def filled (vs : List Dbl) : List Slot := vs.map Slot.filled

/-- Queue registers 1, 2, … of tile 0. -/
def qs0 (l : List (List Dbl)) : State := at0 (fun c => { c with qs := l.zipIdx.map (fun p => (p.2 + 1, filled p.1)) })

/-- A task whose launch block is all zero but for D2. -/
def task0 (d2 : Dbl) : Task := ⟨0, ⟨0, 0, d2, 0, 0, 0, 0, 0⟩, 0⟩

/-- The lowest GiB maps onto itself for every access, the next one for reads of an address that reaches no memory and the one
after that for reads only. -/
def paged (f : TCtx → TCtx) : State := (at0 f).modTile 0 (fun x => { x with tlb :=
  [⟨0, 0, 2, 0x9F, 0x3000, []⟩, ⟨0, 0x40000000, 2, 0x1800000009F, 0x3008, []⟩, ⟨0, 0x80000000, 2, 0x93, 0x3010, []⟩] })

/-- A Thicket slot that holds a task running on tile 0. -/
def slot0 (k : Task) : TSlot := { placedTask with ctx := 0, lb := k.lb, lba := k.lba, age := 5 }

/-- Queue registers 1, 2, … with translations. -/
def qp0 (l : List (List Dbl)) : State := paged (fun c => { c with qs := l.zipIdx.map (fun p => (p.2 + 1, filled p.1)) })

/-- The package after an access to an address has been led to its place. -/
def after (s : State) (va : Dbl) (n : Nat) (acc : Acc) : State :=
  match s.locate s.cur va n acc with
  | .ok (u, _) => u
  | .error _ => s

/-! ### The decoder and the control class -/

theorem wit_DecodeEncodeRoundTrip :
    wellFormed (.exit 4 true 3 15) = true ∧ encode (.exit 4 true 3 15) ≠ [] ∧ wellFormed .scall = true ∧ encode .scall ≠ [] := by
  decide

theorem wit_DecodedIsWellFormed : decode [0x1AE7, 0xF000, 0xFFFF] = .ok (.exit 4 true 3 15) := by decide

/-- Clause by clause: two queues, one popped twice, one peeked, none, one slot for two reads, a reserved slot. -/
theorem wit_QueueOperandRules :
    let c : TCtx := { TCtx.reset with qs := [(1, filled [7, 8]), (2, filled [3]), (4, [.reserved 0])] }
    c.q 1 = .filled 7 :: [.filled 8] ∧ c.q 2 = .filled 3 :: [] ∧ c.q 1 = .filled 7 :: .filled 8 :: [] ∧ c.q 3 = [] ∧
    c.q 2 = [.filled 3] ∧ c.q 4 = .reserved 0 :: [] := by decide

/-- Any operands; a divisor that is not 0, a divisor 0, and the least dividend by −1; a function no entry of the table names; a
full destination queue that the instruction itself pops. -/
theorem wit_ArithmeticResult :
    ((qs0 [[7], [3]]).Reads [(1, false), (2, true)] [7, 3] ∧ (qs0 [[7], [3], [0, 0, 0]]).Room [(1, false), (2, true)] [3]) ∧
    ((qs0 [[7, 1, 2, 3], [3]]).Reads [(1, false), (2, true)] [7, 3] ∧ (qs0 [[7, 1, 2, 3], [3]]).Room [(1, false), (2, true)] [1]) ∧
    ((qs0 [[7], [0]]).Reads [(1, false), (2, false)] [7, 0] ∧ (qs0 [[7], [0]]).Room [(1, false), (2, false)] [3]) ∧
    ((qs0 [[0x8000000000000000], [0xFFFFFFFFFFFFFFFF]]).Reads [(1, false), (2, false)] [0x8000000000000000, 0xFFFFFFFFFFFFFFFF] ∧
      (qs0 [[0x8000000000000000], [0xFFFFFFFFFFFFFFFF]]).Room [(1, false), (2, false)] [3]) ∧
    (0x09#8 ∉ [0x00#8, 0x01, 0x02, 0x03, 0x04, 0x05, 0x06, 0x07, 0x08, 0x10, 0x11, 0x12, 0x18, 0x19, 0x1A, 0x20, 0x21, 0x22, 0x23]) ∧
    (((qs0 [[7], [1, 2, 3]]).me.q 1).head? = some (.filled 7) ∧ ((qs0 [[7], [1, 2, 3]]).me.q 2).length < 4) := by
  refine ⟨⟨rfl, rfl⟩, ⟨rfl, rfl⟩, ⟨rfl, rfl⟩, ⟨rfl, rfl⟩, by decide, by decide⟩

theorem wit_UnaryAndLiteralResult :
    ((qs0 [[7]]).Reads [(1, true)] [7] ∧ (qs0 [[7]]).Room [(1, true)] [2]) ∧ (qs0 [[7, 8, 9]]).Room [] [1] ∧
    ((qs0 [[7, 8, 9, 10]]).Reads [(1, false)] [7] ∧ (qs0 [[7, 8, 9, 10]]).Room [(1, false)] [1]) ∧
    (0x040#12).extractLsb' 6 6 ≠ 0#6 ∧ 0x0A < (0x0B#8).toNat := by
  refine ⟨⟨rfl, rfl⟩, rfl, ⟨rfl, rfl⟩, by decide, by decide⟩

theorem wit_ComputeFrame :
    (computeForm (.addi 3 1 false 5) = some ([(1, false)], 3, 2) ∧ (qs0 [[7]]).Reads [(1, false)] [7] ∧
      (qs0 [[7]]).Room [(1, false)] [3]) ∧
    (computeForm (.lih 1 5) = some ([(1, false)], 1, 3) ∧ (qs0 [[7, 8, 9, 10]]).Reads [(1, false)] [7] ∧
      (qs0 [[7, 8, 9, 10]]).Room [(1, false)] [1]) ∧
    (computeForm (.qlen 3 1) = some ([], 3, 2) ∧ (qs0 [[7]]).Reads [] [] ∧ (qs0 [[7]]).Room [] [3]) := by
  refine ⟨⟨rfl, rfl, rfl⟩, ⟨rfl, rfl, rfl⟩, ⟨rfl, rfl, rfl⟩⟩

/-- An empty source, a reserved one, a full destination; then an empty condition queue, a full follower, a full and an empty
link stack. -/
theorem wit_ControlWaitsAndTraps :
    (computeForm (.mov 3 1 false) = some ([(1, false)], 3, 2) ∧
      (qs0 []).me.readQ [(1, false)] = .error (.trap ⟨0x03, 1⟩) ∧
      (at0 (fun c => { c with qs := [(1, [.reserved 0])] })).me.readQ [(1, false)] = .error .wait ∧
      (qs0 [[7], [0], [1, 2, 3, 4]]).Reads [(1, false)] [7] ∧
      (qs0 [[7], [0], [1, 2, 3, 4]]).me.roomQ [(1, false)] [3] = .error (.trap ⟨0x02, 3⟩)) ∧
    (let s := at0 (fun c => { c with v := { c.v with walking := true, oq := List.replicate 16 0 } })
     s.me.cqc = [] ∧ s.me.cqv = [] ∧ (∃ e, e ∈ s.me.followers 4 ∧ 16 ≤ (s.me.eng e).oq.length) ∧ s.me.c.stack = []) ∧
    8 ≤ (at0 (fun c => { c with c := { c.c with stack := List.replicate 8 0 } })).me.c.stack.length := by
  refine ⟨⟨rfl, rfl, rfl, rfl, rfl⟩, ⟨rfl, rfl, ⟨.v, by decide, by decide⟩, rfl⟩, by decide⟩

theorem wit_QueueAndCompareResult :
    (qs0 [[7], [3]]).Reads [(1, false)] [7] ∧ (at0 id).me.cqc.length < 8 ∧ (qs0 [[7], [3]]).Reads [(1, true), (2, false)] [7, 3] ∧
    ((qs0 [[7]]).me.q 1).all Slot.isFilled = true ∧ ((qs0 [[7, 8, 9]]).me.q 1).length < 4 ∧
    (at0 (fun c => { c with cqc := List.replicate 7 ⟨true, false⟩ })).me.cqc.length < 8 ∧
    8 ≤ (at0 (fun c => { c with cqc := List.replicate 8 ⟨true, false⟩ })).me.cqc.length ∧
    (1#6 ≠ 0 ∧ 256 ≤ (256#16).toNat) ∧ (qs0 [[7]]).me.c.clearing = none ∧
    (let s := at0 (fun c => { c with qs := [(1, [.filled 7, .reserved 0])], c := { c.c with clearing := some 1 } })
     s.me.c.clearing = some 1 ∧ ((s.me.q 1).take 1).all Slot.isFilled = true) := by
  refine ⟨rfl, by decide, rfl, by decide, by decide, by decide, by decide, by decide, by decide, by decide⟩

/-- A tile whose control engine has a condition in each queue and a link stack of seven, with a follower that has room. -/
def branching : State := at0 (fun c => { c with
  cqc := [⟨true, false⟩]
  cqv := [⟨false, false⟩]
  c := { c.c with walking := true, stack := List.replicate 7 0x100 }
  v := { c.v with walking := true, oq := List.replicate 15 0 } })

theorem branching_mayTell : branching.MayTell 4 := ⟨by decide, .inr (by decide)⟩

theorem wit_BranchResult :
    branching.MayTell 4 ∧ (if true then branching.me.cqv else branching.me.cqc) = ⟨false, false⟩ :: [] ∧
    (if false then branching.me.cqv else branching.me.cqc) = ⟨true, false⟩ :: [] ∧ branching.me.c.stack.length < 8 ∧
    branching.me.c.stack = 0x100 :: List.replicate 6 0x100 ∧ (0#16 = 0 ∧ branching.me.c.pc.getLsbD 0 = false) :=
  ⟨branching_mayTell, rfl, rfl, by decide, rfl, rfl, by decide⟩

theorem wit_BranchFrame : branching.MayTell 4 ∧ branching.me.c.stack ≠ [] ∧ branching.me.c.stack.length < 8 ∧
    branching.me.cqv ≠ [] ∧ ∃ t, exec (.loop 3 4 0xFFFC) branching = .next t :=
  ⟨branching_mayTell, by decide, by decide, by decide, _, rfl⟩

/-- A follower V at the word of a branch, a CALL or a RET in its text cache. -/
def following (p0 : Parcel) (oq stack : List Pc) : State :=
  (at0 (fun c => { c with
      task := some ⟨0, ⟨0, 0, 0, 0, 0, 0, 0, 0⟩, 0⟩
      c := { c.c with walking := true }
      v := { c.v with walking := true, pc := 0x40, oq := oq, stack := stack } })).modTile 0
    (fun x => { x with text := [⟨0, 0x40, p0⟩] })

theorem wit_OutcomePopResult :
    (∀ p, p ∈ [(0x1450#16, [], []), (0x1450, [0x80], []), (0x1510, [0x80], List.replicate 7 0), (0x0550, [0x80], [0x44])] →
      let s := following p.1 p.2.1 p.2.2
      let u := s.modTc 0 (fun c => { c with v := { c.v with fetched := [p.1] } })
      s.mayWalk 0 .v = true ∧ (s.me.eng .v).fetched = [] ∧ s.fetchFirst 0 (s.me.eng .v).pc = .ok (s, p.1) ∧ u.mayWalk 0 .v = true ∧
      (u.me.eng .v).fetched.head? = some p.1 ∧ meetingOf .v p.1 = .followed) ∧
    ((p0Op 0x1450).toNat ≠ 0x14 ∧ (p0Op 0x1450).toNat ≠ 0x15 ∧ (p0Op 0x1510).toNat = 0x14 ∧ (p0Op 0x0550).toNat = 0x15) := by
  refine ⟨?_, by decide⟩
  intro p hp
  simp only [List.mem_cons, List.not_mem_nil, or_false] at hp
  rcases hp with rfl | rfl | rfl | rfl <;> exact ⟨by decide, rfl, rfl, by decide, rfl, by decide⟩

/-- Lines that a plain store may have left, with a count of 5 and one of 2, above the two places that they take; then queues 1 and
2 of four and of no slots, at the last place of the spill area that takes them. -/
theorem wit_SpillRoundTrip :
    (let s := at0 (fun c => { c with spbase := 0x40, splim := 0x100, sp := 0xC0, scratch := [(0x40, 5), (0x48, 9), (0x80, 2), (0xB8, 1)] })
     s.controlQuiet s.cur = true ∧ spillOff s.me.spbase + 64 * 2 ≤ s.me.sp.toNat ∧
     ∀ q : BitVec 4, (1#4).toNat ≤ q.toNat ∧ q.toNat ≤ (2#4).toNat → s.me.q q = []) ∧
    let s := at0 (fun c => { c with qs := [(1, filled [1, 2, 3, 4])], spbase := 0x40, splim := 0x100, sp := 0x80 })
    (1#4).toNat ≤ (2#4).toNat ∧ s.controlQuiet s.cur = true ∧ s.me.scratch.wf = true ∧
    (∀ q : BitVec 4, (1#4).toNat ≤ q.toNat ∧ q.toNat ≤ (2#4).toNat →
      (s.me.q q).length ≤ 4 ∧ (s.me.q q).all Slot.isFilled = true) ∧
    s.me.sp.toNat + 64 * 2 ≤ spillOff s.me.splim ∧ spillOff s.me.spbase ≤ s.me.sp.toNat := by
  refine ⟨⟨by decide, by decide, by decide⟩, by decide, by decide, by decide, by decide, by decide, by decide⟩

/-! ### Memory -/

/-- Clause by clause: the last double of the own scratchpad and one past it; logical tiles 0 to 3 of the map: itself, a peer, a
fenced peer, none; the first address above the map; then pages that allow the access, that do not, and none. -/
theorem wit_AccessAddressing :
    (let s := ((at0 id).modCtx 0 (fun x => { x with tmap := [(0, 0x80), (1, 0x81), (2, 0x82)] })).modTile 2
       (fun x => { x with stop := .fenced })
     (0x00FF00000000 ≤ 0x00FF001FFFF8 ∧ 0x00FF001FFFF8 + 8 ≤ 0x00FF00200000) ∧
     (0x00FF00000000 ≤ 0x00FF001FFFF9 ∧ 0x00FF001FFFF9 < 0x010000000000 ∧ 0x00FF00200000 < 0x00FF001FFFF9 + 8) ∧
     (liveCtx (s.tile 0) = 0 ∧ s.mapTile 0 0 = some 0 ∧ s.mapTile 0 1 = some 1 ∧ (s.tile 1).stop = .none ∧
       s.mapTile 0 2 = some 2 ∧ (s.tile 2).stop = .fenced ∧ s.mapTile 0 3 = none) ∧
     (0x00FE00000000 ≤ 0x00FE10000000 ∧ 0x00FE10000000 < 0x00FF00000000 ∧ 0x00FE10000000 ≤ 0x00FE10000000)) ∧
    (let s := paged id
     (s.tile 0).tlb.find? (fun e => e.hits (liveCtx (s.tile 0)) 0x3FFFFFF8) = some ⟨0, 0, 2, 0x9F, 0x3000, []⟩ ∧
     s.mapped 0x3FFFFFF8 = true ∧
     (s.tile 0).tlb.find? (fun e => e.hits (liveCtx (s.tile 0)) 0x40000000) = some ⟨0, 0x40000000, 2, 0x1800000009F, 0x3008, []⟩ ∧
     (0x1800000009F#64).extractLsb' 16 37 = 0x1800000#37 ∧ s.mapped (0x1800000 * 2 ^ 15) = false ∧
     (s.tile 0).tlb.find? (fun e => e.hits (liveCtx (s.tile 0)) 0x80000000) = some ⟨0, 0x80000000, 2, 0x93, 0x3010, []⟩ ∧
     (0x93#64).getLsbD 2 = false ∧ s.findTlb (dieOf 0) (some 0) (liveCtx (s.tile 0)) 0xC0000000 = none) := by
  refine ⟨by decide, by decide⟩

/-- A context state with one fill that is pending. -/
def filling (op : FillOp) (scope : Nat) : State := at0 (fun c => { c with fills := [⟨0, 0, 0, scope, op⟩] })

/-- A line of one byte's value. -/
def line64 (b : Byte) : List Byte := List.replicate 64 b

/-- Loads of a window and of memory, PARM, and fills of a value, a window, memory at QUAD scope and an AMO. -/
theorem wit_LoadResult :
    (let s := qp0 [[0x00FF00000000]]
     s.Reads [(1, false)] [0x00FF00000000] ∧ s.Room [(1, false)] [3] ∧ s.Leads 0x00FF00000000 8 (2 ^ (3#2).toNat) accR s (.scr 0 8)) ∧
    (let s := qp0 [[0x1000]]
     s.Reads [(1, true)] [0x1000] ∧ s.Room [(1, true)] [1] ∧ s.Leads 0x1000 0xFFFF 1 accR s (.mem 0xFFF)) ∧
    (let s := paged (fun c => { c with task := some (task0 0x1000) })
     s.me.task = some (task0 0x1000) ∧ (s.me.q 3).length < 4 ∧ (0x1000#64).toNat % 64 = 0 ∧ (0x1000#64).toNat + 512 ≤ 2 ^ 56 ∧
       s.locate s.cur (0x1000 + 8 * 63) 8 accR = .ok (s, .mem 0x11F8)) ∧
    (∀ p, p ∈ [(FillOp.value 5, 0), (.load (.scr 0 8) 8 true false, 0), (.load (.mem 0x1000) 4 false false, 2),
        (.amo (.scr 0 0) 8 0 1, 1)] →
      let s := filling p.1 p.2
      (s.tc 0).fills[0]? = some ⟨0, 0, 0, p.2, p.1⟩ ∧ fillReady (s.tile 0) ⟨0, 0, 0, p.2, p.1⟩ = true ∧ (s.tile 0).rset = [] ∧
      (s.tile 0).sbuf = [] ∧ (s.tile 0).bad = none ∧ s.poison = [] ∧ (s.tile 0).spoiled = []) := by
  unfold State.Reads State.Room State.Leads; decide +kernel

/-- Fills of memory at TILE scope, at the end of a line that the cache holds and of one that it does not; and of an LDA of another
tile's scratchpad, of memory at DIE scope where a tile of the die has released a line that its L2 holds, at PKG scope with and without
such a release. -/
theorem wit_LoadResult_fill :
    ∀ p, p ∈ [(FillOp.load (.mem 0x103C) 4 true false, 1, true, false), (.load (.mem 0x103C) 4 true false, 0, false, false),
        (.load (.scr 1 0x1FFFF8) 8 true true, 2, true, true), (.load (.mem 0x1000) 8 false true, 3, true, true),
        (.load (.mem 0x1000) 8 false true, 4, true, true), (.load (.mem 0x1000) 8 false true, 4, true, false)] →
      let s : State := { (((filling p.1 p.2.1).modTile 0 (fun x => { x with
          dcache := if p.2.2.1 then [(0x40, line64 7)] else [] })).modDie false (fun x => { x with l2 := [(0x1001, 9)] })) with
        dir := if p.2.2.2 then [(0x200, ⟨1, false, 4, [0x40]⟩)] else [] }
      (s.tc 0).fills[0]? = some ⟨0, 0, 0, p.2.1, p.1⟩ ∧ fillReady (s.tile 0) ⟨0, 0, 0, p.2.1, p.1⟩ = true ∧ (s.tile 0).sbuf = [] ∧
      (s.tile 0).bad = none ∧ s.poison = [] ∧ (s.tile 1).spoiled = [] ∧ 0x103C % 64 + 4 ≤ 64 ∧
      aget (s.tile 0).dcache (0x103C / 64) = (if p.2.2.1 then some (line64 7) else none) ∧ (s.tile 0).dcache.length < 1024 ∧
      (s.releases 0x1000).find? (fun r => 4 ≤ r.scope) = (if p.2.2.2 then some ⟨1, false, 4, [0x40]⟩ else none) ∧
      (p.2.2.2 = true → (⟨1, false, 4, [0x40]⟩ : Release) ∈ s.releases 0x1000) ∧ inScope 3 0 1 = true ∧ inScope 4 1 0 = true ∧
      (1 : PTile) ≠ 0 ∧ dieOf 1 = dieOf 0 ∧ (s.die (dieOf 0)).l2.any (fun c => lineOf c.1 = 0x40) = true ∧ Memory.wf s.mem = true ∧
      ((s.die (dieOf 1)).l2.map (·.1)).Nodup ∧ lineOf 0x1001 ∈ [0x40] := by
  decide +kernel

theorem wit_AtomicResult :
    (let s := qp0 [[0x1000], [0], [5]]
     s.Reads [(1, false), (3, false)] [0x1000, 5] ∧ s.Room [(1, false), (3, false)] [3] ∧
     s.Leads 0x1000 0 8 accRW (after s 0x1000 8 accRW) (.mem 0x1000)) ∧
    (let s := qp0 [[0x00FF001FFFFC], [6], [5]]
     s.Reads [(1, true), (2, false), (3, false)] [0x00FF001FFFFC, 6, 5] ∧ s.Room [(1, true), (2, false), (3, false)] [4] ∧
     s.Leads 0x00FF001FFFFC 0 4 accCas s (.scr 0 0x1FFFFC)) := by
  unfold State.Reads State.Room State.Leads; decide +kernel

/-- A page of tile 0 whose dirty state is known, and bytes of memory that hold 5. -/
def atomically (op : FillOp) (scope : Nat) : State :=
  { (filling op scope).modTile 0 (fun x => { x with tlb := [⟨0, 0, 2, 0x9F, 0x3000, [1]⟩] }) with mem := [(0x1000, 5)] }

/-- Atomic operations whose turn it is: an AMO on memory at DIE and at PKG scope, a CAS there that finds its value and one that
does not, and a CAS on a scratchpad. -/
theorem wit_AtomicResult_fill :
    (∀ p, p ∈ [(FillOp.amo (.mem 0x1000) 8 0 7, 3), (.amo (.mem 0x1000) 4 5 7, 4), (.cas (.mem 0x1000) 8 0x1000 5 9, 3),
        (.cas (.mem 0x1000) 4 0x1000 6 9, 0), (.cas (.scr 1 0x1FFFF8) 8 0 0 9, 1)] →
      let s := atomically p.1 p.2
      (s.tc 0).fills[0]? = some ⟨0, 0, 0, p.2, p.1⟩ ∧ fillReady (s.tile 0) ⟨0, 0, 0, p.2, p.1⟩ = true ∧ (s.tile 0).rset = [] ∧
      (s.tile 0).bad = none ∧ s.poison = [] ∧ (s.tile 1).spoiled = [] ∧ s.releases 0x1000 = [] ∧ Memory.wf s.mem = true ∧ ofBytes (s.physBytes (dieOf 0) 0x1000 8) = zext 5 64 ∧
      ofBytes (s.physBytes (dieOf 0) 0x1000 4) ≠ zext 6 32) ∧
    (let s := atomically (.cas (.mem 0x1000) 8 0x1000 5 9) 3
     let y : TlbEntry := ⟨0, 0, 2, 0x9F, 0x3000, [1]⟩
     (s.tile 0).tlb.find? (·.hits (liveCtx (s.tile 0)) 0x1000) = some y ∧ y.allows accW = true ∧ s.mapped (y.pa 0x1000) = true ∧
     y.known.contains (y.pa 0x1000 / 4096) = true) := by
  decide +kernel

/-- R196, R197: what a fill leaves: the slot's value, and the double at 0x1000 as its die reads it. -/
def filledBy (op : FillOp) (scope : Nat) : Option (Option (List Slot) × Dbl) :=
  match exec (.queueSlotFill 0 0) ((atomically op scope).modTc 0 (fun c => { c with qs := [(2, [.reserved 0])] })) with
  | .next t => some (aget t.me.qs 2, ofBytes (t.physBytes false 0x1000 8))
  | _ => none

/-- R196: an AADD takes 5 and leaves 12; R197: a CAS that finds another value leaves it. -/
theorem test_atomic_fill : filledBy (.amo (.mem 0x1000) 8 0 7) 3 = some (some (filled [5]), 12) ∧
    filledBy (.amo (.mem 0x1000) 8 0 7) 4 = some (some (filled [5]), 12) := by decide +kernel
/-- R197: a CAS writes where the old value is E. -/
theorem test_cas_fill : filledBy (.cas (.mem 0x1000) 8 0x1000 5 9) 3 = some (some (filled [5]), 9) ∧
    filledBy (.cas (.mem 0x1000) 8 0x1000 6 9) 3 = some (some (filled [5]), 5) := by decide +kernel

/-- An address, a value, and so many buffered stores. -/
def storing (n : Nat) : State :=
  (qp0 [[0x1000], [9]]).modTile 0 (fun x => { x with sbuf := List.replicate n ⟨0, 0, 0, .scr 0 0, 8, 0⟩ })

/-- A store with one place in the buffer, one with none; stores that leave the buffer for memory and for a window. -/
theorem wit_StoreResult :
    (∀ n, n ∈ [15, 16] → let s := storing n
     s.Reads [(1, false), (2, true)] [0x1000, 9] ∧ s.Leads 0x1000 0x10 (2 ^ (3#2).toNat) accW (after s 0x1010 8 accW) (.mem 0x1010)) ∧
    ((storing 15).tile 0).sbuf.length < 16 ∧ 16 ≤ ((storing 16).tile 0).sbuf.length ∧
    (∀ b, b ∈ [(⟨0, 0, 0, .mem 0x1000, 8, 0x0102030405060708⟩ : BufStore), ⟨0, 0, 0, .scr 1 0x1FFFFF, 1, 0xAB⟩] →
      let s := State.reset.modTile 0 (fun x => { x with sbuf := [b] })
      (s.tile 0).sbuf[0]? = some b ∧ storeReady (s.tile 0) b = true ∧ Memory.wf (s.tc 1).scratch = true) := by
  unfold State.Reads State.Leads; decide +kernel

/-- With nothing outstanding, at DIE scope; with a load outstanding. -/
theorem wit_StoreReleaseResult :
    (let s := qp0 [[0x1000], [9]]
     let u := after s 0x1000 8 accW
     s.Reads [(1, false), (2, false)] [0x1000, 9] ∧ s.controlQuiet s.cur = true ∧ (3#3).toNat ≤ 3 ∧
     s.Leads 0x1000 0 (2 ^ (3#2).toNat) accW u (.mem 0x1000) ∧ (u.tile s.cur).rset.length ≤ 4096) ∧
    (let s := (qp0 [[0x1000], [9]]).modTc 0 (fun c => { c with fills := [⟨0, 0, 0, 0, .load (.scr 0 8) 8 true false⟩] })
     s.Reads [(1, false), (2, false)] [0x1000, 9] ∧ s.controlQuiet s.cur = false ∧
     s.Leads 0x1000 0 (2 ^ (3#2).toNat) accW (after s 0x1000 8 accW) (.mem 0x1000)) := by
  unfold State.Reads State.Leads; decide +kernel

/-- An STL to the last double of the own scratchpad. -/
theorem wit_StoreReleaseResult_window :
    (let s := qp0 [[0x00FF001FFFF8], [9]]
     s.Reads [(1, false), (2, false)] [0x00FF001FFFF8, 9] ∧ s.controlQuiet s.cur = true ∧ Memory.wf (s.tc 0).scratch = true ∧
     s.Leads 0x00FF001FFFF8 0 (2 ^ (3#2).toNat) accW s (.scr 0 0x1FFFF8)) ∧
    (let s := (qp0 [[0x00FF001FFFF8], [9]]).modTc 0 (fun c => { c with fills := [⟨0, 0, 0, 0, .load (.scr 0 8) 8 true false⟩] })
     s.controlQuiet s.cur = false) := by
  unfold State.Reads State.Leads; decide +kernel

theorem wit_WriteBackRule :
    let s := State.reset.modDie true (fun x => { x with l2 := [(0x1000, 7), (0x1001, 8), (0x1040, 9)] })
    ((s.die true).l2.map (·.1)).Nodup ∧ s.MemWf := ⟨by decide, rfl⟩

/-- A load of class 1 and a store of class 2 outstanding, with masks that name them and that do not; WAITC at the counts. -/
theorem wit_FenceAndWaitcResult :
    let s := (at0 (fun c => { c with fills := [⟨0, 0, 1, 0, .load (.scr 0 8) 8 true false⟩] })).modTile 0
      (fun x => { x with sbuf := [⟨1, 2, 0, .scr 0 0, 8, 0⟩] })
    (∀ f, f ∈ s.me.fills → (f.isAccess && (0x0004#16).getLsbD f.cls) = false) ∧
    (∀ f, f ∈ s.me.fills → f.releases = true → (f.isAccess && (0x0002#16).getLsbD f.cls) = false) ∧
    (∀ b, b ∈ (s.tile s.cur).sbuf → (0x0002#16).getLsbD b.cls = false) ∧
    (∃ f, f ∈ s.me.fills ∧ (f.isAccess && (0x0002#16).getLsbD f.cls) = true) ∧
    (∀ f, f ∈ s.me.fills → (f.isAccess && (0#16).getLsbD f.cls) = false) ∧ (∀ b, b ∈ (s.tile s.cur).sbuf → (0#16).getLsbD b.cls = false) ∧
    s.loadCount s.cur ≤ (1#4).toNat ∧ s.storeCount s.cur ≤ (1#4).toNat ∧ s.me.copyCount ≤ (0#4).toNat ∧
    s.me.matrixCount ≤ (0#4).toNat ∧ (0#4).toNat < s.loadCount s.cur := by decide

/-! ### Synchronisation, tasks and queues -/

/-- Counter 3 at 5, its FAIL bit as given, a value in queue 1 and so many entries in CQC. -/
def counting (v : Dbl) (fail : Bool) (n : Nat) : State := at0 (fun c => { c with
  ts := [(3, 5)]
  fails := if fail then 8 else 0
  qs := [(1, filled [v])]
  cqc := List.replicate n ⟨true, false⟩ })

/-- A value that the counter has reached and one it has not, with and without FAIL; an add that saturates. -/
theorem wit_CounterResult :
    ((counting 5 false 7).Reads [(1, true)] [5] ∧ (5#64).toNat ≤ ((counting 5 false 7).me.ctr 3).toNat ∧
      (counting 5 false 7).me.cqc.length < 8 ∧ (counting 5 false 7).controlQuiet 0 = true) ∧
    ((counting 6 true 7).Reads [(1, true)] [6] ∧ ((counting 6 true 7).me.ctr 3).toNat < (6#64).toNat ∧
      (counting 6 true 7).me.fails.getLsbD 3 = true) ∧
    ((counting 6 false 7).Reads [(1, false)] [6] ∧ (counting 6 false 7).me.fails.getLsbD 3 = false) ∧
    (counting 0xFFFFFFFFFFFFFFFF false 8).Reads [(1, false)] [0xFFFFFFFFFFFFFFFF] ∧
    ((qs0 [[1, 2, 3]]).me.q 1).length < 4 ∧ (1#12) ≠ 0 :=
  ⟨⟨rfl, by decide, by decide, by decide⟩, ⟨rfl, by decide, by decide⟩, ⟨rfl, by decide⟩, rfl, by decide, by decide⟩

/-- Group entry 0 of die 0 with logical tile 0 as its member, and tile 0's slot 0 that names it. -/
def grouped (arr : BitVec 128) (g : GSlot) : State :=
  ((at0 (fun c => { c with gslots := [(0, g)] })).modCtx 0 (fun x => { x with tmap := [(0, 0x80)] })).modDie false
    (fun x => { x with groups := [(0, ⟨true, 0, 1, 1, false, arr, 0, false⟩)] })

/-- A slot that names no entry; one with an arrival held, and one that waits for earlier accesses; one pending, one with none, one
whose wait a failed release ended or a good one, and an arrived GSYNC; an entry whose latest release failed; then an entry whose member
has arrived and one whose member has not; and the member's engine that waits on its slot. -/
theorem wit_GroupResult :
    (((at0 id).me.gslot 0).valid = false ∧ ((at0 id).me.gslot 0).synced = false) ∧
    (let g : GSlot := ⟨true, true, true, false, 0, none, false⟩
     ((grouped 1 g).me.gslot 0).valid = true ∧ ((grouped 1 g).me.gslot 0).held = true ∧ (grouped 1 g).me.cqc.length < 8 ∧
     ((grouped 1 g).modTc 0 (fun c => { c with fills := [⟨0, 0, 0, 0, .load (.mem 0) 8 false false⟩] })).controlQuiet 0 = false) ∧
    (∀ p, p ∈ [(true, none, false), (false, none, false), (false, some true, false), (false, some false, true), (true, none, true)] →
      let g : GSlot := ⟨true, false, p.1, false, 0, p.2.1, p.2.2⟩
      ((grouped 1 g).me.gslot 0) = g ∧ (grouped 1 g).controlQuiet 0 = true) ∧
    (let s := (grouped 0 ⟨true, false, false, false, 0, none, false⟩).modGroup false 0 (fun x => { x with fail := true, failed := 1 })
     (s.group false 0).fail = true ∧ ((s.group false 0).failed &&& (s.group false 0).members).getLsbD 0 = true) ∧
    (let g : GSlot := ⟨true, false, true, false, 0, none, false⟩
     let s := (grouped 1 g).modTc 0 (fun c => { c with c := { c.c with waiting := true, fetched := [0x09C8] } })
     let x := s.group false 0
     count128 x.arr + count128 ((x.failed &&& x.members) &&& ~~~x.arr) = count128 x.members ∧
     count128 ((grouped 0 g).group false 0).arr + count128 0 ≠ count128 ((grouped 0 g).group false 0).members ∧
     x.members.getLsbD 0 = true ∧ s.mapTile x.ctx 0 = some 0 ∧ (s.tile 0).live = some x.ctx ∧
     (∀ m, m < 128 → s.mapTile x.ctx m = some 0 → m = 0) ∧ ((s.tc 0).gslot 0).names false 0 = true ∧ (s.tc 0).c.waiting = true ∧
     (s.tc 0).c.fetched ≠ [] ∧ decode (s.tc 0).c.fetched = .ok (.gwait 0 true) ∧ (grouped 1 g).me.c.waiting = false ∧
     s.memberHeld false 0 0 = false ∧
     (grouped 1 ⟨true, true, true, false, 0, none, false⟩).memberHeld false 0 0 = true) := by
  decide +kernel

/-- No member of the group of such a state has an arrival held: one counted at its entry, or none, and a slot that has an arrival or none. -/
theorem wit_GroupResult_held (b c : Bool) (n : Nat) :
    (grouped (if b then 1 else 0) ⟨true, false, c, false, 0, none, false⟩).memberHeld false 0 n = false := by
  cases n with
  | zero => cases b <;> cases c <;> decide +kernel
  | succ n =>
    have h : (grouped (if b then 1 else 0) ⟨true, false, c, false, 0, none, false⟩).mapTile 0 (n + 1) = none := by
      have k : ((grouped (if b then 1 else 0) ⟨true, false, c, false, 0, none, false⟩).ctx 0).tmap = [(0, 0x80)] := by
        cases b <;> cases c <;> decide +kernel
      unfold State.mapTile
      rw [k]
      simp [aget]
    have g : ((grouped (if b then 1 else 0) ⟨true, false, c, false, 0, none, false⟩).group false 0).ctx = 0 := by
      cases b <;> cases c <;> decide +kernel
    unfold State.memberHeld
    simp only [g, h]

/-- The last member to arrive: its GARV or GSYNC, whose slot has no arrival and has not synced. -/
theorem wit_GroupResult_last :
    let g : GSlot := ⟨true, false, false, false, 0, none, false⟩
    let s := grouped 0 g
    let x := s.group false 0
    s.me.gslot 0 = g ∧ s.controlQuiet s.cur = true ∧ s.logical x.ctx s.cur = 0 ∧ x.members.getLsbD 0 = true ∧
    s.mapTile x.ctx 0 = some s.cur ∧ (s.tile s.cur).live = some x.ctx ∧ x.failed &&& x.members = 0 ∧
    count128 (x.arr ||| 1#128 <<< 0) = count128 x.members ∧ liveCtx (s.tile s.cur) = x.ctx ∧ g.names g.die g.entry.toNat = true ∧
    s.me.cqc.length < 8 ∧ g.fail = none ∧ s.me.c.waiting = false := by
  decide +kernel

/-- Its entry when another member is still to come, and once an arrival is counted. -/
theorem wit_GroupResult_arrive :
    (let g : GSlot := ⟨true, false, false, false, 0, none, false⟩
     let s := (grouped 0 g).modGroup false 0 (fun x => { x with members := 3 })
     let x := s.group false 0
     (s.me.gslot 0).arr = false ∧ count128 (x.arr ||| 1#128 <<< s.logical 0 s.cur) + count128 0 ≠ count128 x.members) ∧
    ((grouped 1 ⟨true, false, true, false, 0, none, false⟩).me.gslot 0).arr = true := by
  decide +kernel

/-- R229, R237: the GSYNC of the only member completes with its phase released: PHASE flips and no arrival is counted. -/
theorem test_gsync_last : (match exec (.gsync 0 true) (grouped 0 ⟨true, false, false, false, 0, none, false⟩) with
    | .next t => some (t.me.c.pc, t.me.cqc, (t.group false 0).phase, (t.group false 0).arr, (t.me.gslot 0).arr, (t.me.gslot 0).synced)
    | _ => none) = some (2, [⟨true, false⟩], true, 0, false, false) := by decide +kernel

/-- R229, R237: a GWAIT whose slot a failed release has cleared pushes ERR with st, and without it traps PEERFAIL with the entry and the
lowest failed member. -/
theorem test_gwait_failed :
    let s := (grouped 0 ⟨true, false, false, false, 0, some true, false⟩).modGroup false 0 (fun x => { x with members := 0x30, failed := 0x20 })
    ((match exec (.gwait 0 true) s with
      | .next t => some (t.me.c.pc, t.me.cqc, (t.me.gslot 0).fail)
      | _ => none) = some (2, [⟨false, true⟩], none)) ∧
    (match exec (.gwait 0 false) s with
      | .next t => some (t.me.tcause, t.me.tval)
      | _ => none) = some (0x0A, 0x50100) := by decide +kernel

/-- R229: a release moves a held arrival into the new phase. -/
theorem test_release_moves_held :
    let t := (grouped 1 ⟨true, true, true, false, 0, none, false⟩).testRelease false 0 1
    (t.group false 0).phase = true ∧ (t.group false 0).arr = 1 ∧ (t.me.gslot 0).arr = true ∧ (t.me.gslot 0).held = false := by
  decide +kernel

/-- Every engine walks or none but C; V at its RDV; a load outstanding. -/
def walking (m : Meet) (fs : List Fill) : State := at0 (fun c => { c with
  c := { c.c with walking := true }
  v := { c.v with walking := true, meet := m }
  fills := fs })

theorem wit_ForkAndRdvResult :
    (let s := walking .rdv []
     s.me.inh = false ∧ s.me.c.walking = true ∧ s.controlQuiet s.cur = true ∧ s.rdvQuiet s.cur = true ∧
     (∀ e : Eng, e = .c ∨ e = .v ∨ e = .m ∨ e = .x) ∧ (s.me.eng .v).meet = .rdv ∧ (s.me.eng .m).walking = false ∧
     (s.me.eng .x).walking = false) ∧
    (let s := walking .rdv [⟨0, 0, 1, 0, .load (.scr 0 8) 8 true false⟩]
     s.me.inh = false ∧ s.me.c.walking = true ∧ (s.me.eng .v).walking = true ∧ s.rdvQuiet s.cur = false ∧
     (s.me.eng .v).meet = .rdv) ∧
    (∀ n, n ∈ [4096, 4097] → let s := (walking .rdv []).modTile 0 (fun x => { x with rset := List.range n })
     s.me.inh = false ∧ s.me.c.walking = true ∧ s.controlQuiet s.cur = true ∧ (s.tile s.cur).rset.length = n ∧
     (s.me.eng .m).walking = false) := by
  refine ⟨⟨rfl, rfl, by decide, by decide, fun e => by cases e <;> simp, rfl, rfl, rfl⟩, ⟨rfl, rfl, rfl, by decide, rfl⟩,
    fun n _ => ⟨rfl, rfl, rfl, List.length_range, rfl⟩⟩

/-- A task of tile 0 whose second range is a write of 64 bytes at 0x1000. -/
def exiting : Task := ⟨0, ⟨0x8000000000000000, 0, 0, 0, 0x1000000001043, 0, 0, 0x77⟩, 0⟩

/-- Its tile, with a block at the last line of the scratchpad and its address in queue 1. -/
def exitState : State := (at0 (fun c => { c with
  task := some exiting
  c := { c.c with walking := true }
  v := { c.v with walking := true, meet := .exit }
  qs := [(1, filled [0x00FF001FFFC0])]
  scratch := [(0x1FFFC7, 0x80)] })).modDie false (fun x => { x with slots := [(0, slot0 exiting)] })

theorem wit_ExitResult :
    exitState.me.inh = false ∧ exitState.me.task = some exiting ∧ exitState.slot false 0 = some (slot0 exiting) ∧
    exitState.me.c.walking = true ∧ (rangesOf exiting.lb).any (fun g => g.idx = (1#2).toNat && g.write) = true ∧
    (exitState.me.eng .v).meet = .exit ∧ (exitState.me.eng .m).walking = false ∧ (exitState.me.eng .x).walking = false ∧
    exitState.exitQuiet exitState.cur = true := by decide +kernel

theorem wit_ExitAdmitsSuccessor :
    exitState.me.wdraw = false ∧ exitState.Reads [(1, false)] [0x00FF001FFFC0] ∧
    (0x00FF001FFFC0#64).toNat = 0x00FF00000000 + 0x1FFFC0 ∧ 0x1FFFC0 % 64 = 0 ∧ 0x1FFFC0 + 64 ≤ 0x200000 ∧
    blockOk (recOf (memBytes exitState.me.scratch 0x1FFFC0 64)) = true ∧ exitState.lowestFree (dieOf exitState.cur) = some 1 ∧
    (exitState.die (dieOf exitState.cur)).slots.length < 2048 := by
  unfold State.Reads; decide +kernel

/-- Queue 4 of die 0, of context 0 and generation 1. -/
def oneQueue (q : Queue → Queue) (s : State) : State :=
  s.modDie false (fun x => { x with queues := [(4, q { (s.queue false 4) with gen := 1, ctx := 0, valid := true, rlog2 := 4 })] })

/-- Its handle in queue 0, and a record in queues 8 to 15. -/
def enqueuing : State := at0 (fun c => { c with
  qs := (0, filled [0x40001]) :: (List.range 8).map (fun i => (8 + i, filled [BitVec.ofNat 64 (10 + i)])) })

/-- Resident with room, at the last of 32 slots; faulted; full; then a head to take, none, none and faulted. -/
theorem wit_QueueInstructionResult :
    (∀ q : Queue → Queue, q ∈ [(fun q => { q with res := true, recs := List.replicate 31 ⟨0, 0, 0, 0, 0, 0, 0, 0⟩ }),
        (fun q => { q with faulted := true }), (fun q => { q with tail := 16 }), (fun q => { q with res := true }),
        (fun q => { q with res := true, faulted := true }), (fun q => { q with res := true, refill := some [] })] →
      let s := oneQueue q enqueuing
      s.liveQueue 0x40001 = some (false, 4) ∧ some (s.queue false 4).ctx = (s.tile s.cur).live ∧ s.controlQuiet s.cur = true) ∧
    (let s := oneQueue id enqueuing
     let ops : List Src := (0, true) :: (List.range 8).map (fun i => (8 + BitVec.ofNat 4 i, false))
     s.Reads ops (0x40001 :: recDoubles ⟨10, 11, 12, 13, 14, 15, 16, 17⟩) ∧ s.Room ops [1] ∧ s.Reads [(0, false)] [0x40001] ∧
     s.Room [(0, false)] ((List.range 8).map (fun i => 1 + BitVec.ofNat 4 i)) ∧ s.Room [(0, false)] [0] ∧ s.me.cqc.length < 8) ∧
    (oneQueue (fun q => { q with res := true, recs := List.replicate 31 ⟨0, 0, 0, 0, 0, 0, 0, 0⟩ }) enqueuing |>.queue false 4).placement
      = .onDie ∧
    (oneQueue (fun q => { q with tail := 16 }) enqueuing |>.queue false 4).placement = .full ∧
    (oneQueue (fun q => { q with res := true }) enqueuing |>.queue false 4).rcount = 0 ∧
    (oneQueue (fun q => { q with res := true, faulted := true }) enqueuing |>.queue false 4).refill = none ∧
    (oneQueue (fun q => { q with res := true, refill := some [] }) enqueuing |>.queue false 4).refill.isSome = true ∧
    (oneQueue id enqueuing).liveQueue 0x40002 = none := by
  refine ⟨?_, ?_, ?_, ?_, ?_, ?_, ?_, ?_⟩
  · intro q hq
    simp only [List.mem_cons, List.not_mem_nil, or_false] at hq
    rcases hq with rfl | rfl | rfl | rfl | rfl | rfl <;> decide +kernel
  · unfold State.Reads State.Room; decide +kernel
  all_goals decide +kernel

/-- Of that ENQ or DEQ: it has not issued, or it has, and its slots stand; an access is outstanding. -/
theorem wit_QueueInstructionResult_await :
    (oneQueue id enqueuing).me.c.await = none ∧
    (let s := (oneQueue id enqueuing).modTc 0 (fun c => { c with
       qs := (1, [.reserved 5]) :: c.qs
       c := { c.c with await := some (4, 5) } })
     s.me.c.await = some (4, 5) ∧ s.Reads [(0, false)] [0x40001] ∧ s.liveQueue 0x40001 = some (false, 4)) ∧
    ((oneQueue id enqueuing).modTc 0 (fun c => { c with fills := [⟨0, 0, 0, 0, .load (.mem 0) 8 false false⟩] })).controlQuiet 0 = false := by
  unfold State.Reads; decide +kernel

/-- R97, R346: an ENQ that waits at a full queue has reserved its slot, and its trap would remove it. -/
theorem test_enq_reserves :
    let s := oneQueue (fun q => { q with tail := 16 }) enqueuing
    (match exec (.enq 1 0 8 true true) s with
      | .next t => some (t.me.q 1, t.me.c.waiting, (t.takeTrap 0 .c .fault ⟨0x0E, 0⟩).me.q 1)
      | _ => none) = some ([.reserved 0], true, []) := by decide +kernel

/-- A live queue of another context, and a work queue. -/
theorem wit_QueueInstructionResult_handle :
    (let s := oneQueue (fun q => { q with ctx := 1 }) enqueuing
     s.liveQueue 0x40001 = some (false, 4) ∧ some (s.queue false 4).ctx ≠ (s.tile s.cur).live) ∧
    (let s := oneQueue (fun q => { q with work := true }) enqueuing
     s.liveQueue 0x40001 = some (false, 4) ∧ (s.queue false 4).work = true ∧ s.Reads [(0, false)] [0x40001] ∧
     s.Room [(0, false)] ((List.range 8).map (fun i => 1 + BitVec.ofNat 4 i))) := by
  unfold State.Reads State.Room; decide +kernel

/-! ### The vector engine -/

/-- A halfway case above an odd and an even significand, an exact value, and the smallest subnormal's third, under every rounding
mode and sign. -/
theorem wit_RoundingRule :
    ∀ rm : BitVec 2, ∀ neg : Bool, ∀ p ∈ [(0x1000003, 0), (0x1000001, 0), (3, -1), (1, -151)],
      p.1 ≠ 0 ∧ (fround 24 rm false neg p.1 p.2 false).fl.getLsbD 2 = false := by
  decide +kernel

/-- Vector registers 0 and 1 hold values, feeder queue 2 one vector and mask register 1 lane 0. -/
def vecState : State := at0 (fun c => { c with
  vregs := [(0, [0x3F800000, 5, 0x7FC00001]), (1, [0xC0000000, 33])]
  feed := [(2, [[7, 8]])]
  masks := [(1, 1), (2, 6)]
  task := some (task0 0x00FF00001000)
  cqv := List.replicate 7 ⟨true, false⟩
  qs := [(3, filled [1, 2, 3])] })

/-- The same with the exposure check on and a write of register 0 that is visible. -/
def vecDebug : State := vecState.modTc 0 (fun c => { c with
  dbgpend := true
  tick := 9
  pending := [⟨0, 1, [0x40000000], 3, 9⟩, ⟨5, 1, [0x40000000], 3, 12⟩] })

/-- Two and three sources; a register, a feeder and the lane numbers; with the exposure check off and on. -/
theorem wit_VectorArithmeticResult : ∀ s ∈ [vecState, vecDebug],
    (∃ vs, s.VReads [(0, s.me.active ⟨0, false⟩), (50, s.me.active ⟨0, false⟩)] [0, 50] vs) ∧
    ∃ vs, s.VReads [(0, s.me.active ⟨1, true⟩), (1, s.me.active ⟨1, true⟩), (57, s.me.active ⟨1, true⟩)] [0, 1, 57] vs := by
  intro s hs
  simp only [List.mem_cons, List.not_mem_nil, or_false] at hs
  rcases hs with rfl | rfl <;> exact ⟨⟨_, by decide +kernel, rfl⟩, ⟨_, by decide +kernel, rfl⟩⟩

theorem wit_VectorFunctionResult :
    (∃ vs, vecState.VReads [(0, vecState.me.active ⟨1, false⟩), (1, vecState.me.active ⟨1, false⟩)] [0, 1] vs) ∧
    ∃ vs, vecState.VReads [(50, vecState.me.active ⟨2, true⟩)] [50] vs :=
  ⟨⟨_, rfl, rfl⟩, ⟨_, rfl, rfl⟩⟩

theorem wit_VectorLogicResult :
    (∃ vs, vecState.VReads [(0, vecState.me.active ⟨1, false⟩), (1, vecState.me.active ⟨1, false⟩)] [0, 1] vs) ∧
    (∃ vs, vecState.VReads [(57, vecState.me.active ⟨0, true⟩)] [57] vs) ∧ vecState.VReads [] [] [] ∧
    (∃ vs, vecState.VReads [(0, vecState.me.active ⟨1, false⟩), (1, ~~~(vecState.me.active ⟨1, false⟩))] [0, 1] vs) ∧
    (∃ vs, vecState.VReads [(0, readLanes (vecState.me.active ⟨1, false⟩) (fun i => (lane vs 1 i).toNat % 512)),
      (1, vecState.me.active ⟨1, false⟩)] [0, 1] vs) ∧
    (∃ vs, vecState.VReads [(0, readLanes (vecState.me.active ⟨2, false⟩) (fun i => (i + (511#9).toNat) % 512))] [0] vs) ∧
    (∃ vs, vecState.VReads [(0, 1#512 <<< (511#9).toNat)] [0] vs) ∧ ∃ vs, vecState.VReads [(0, 3), (1, 3)] [0, 1] vs :=
  ⟨⟨_, rfl, rfl⟩, ⟨_, rfl, rfl⟩, ⟨rfl, rfl⟩, ⟨_, rfl, rfl⟩, ⟨_, rfl, rfl⟩, ⟨_, rfl, rfl⟩, ⟨_, rfl, rfl⟩, ⟨_, rfl, rfl⟩⟩

theorem wit_VectorReductionResult :
    (∃ vs, vecState.VReads [(0, vecState.me.active ⟨1, false⟩)] [0] vs) ∧
    (∃ vs, vecState.VReads [(0, vecState.me.active ⟨1, false⟩), (56, lanesMask (((List.range 4).map (128 * ·)).filter (fun b =>
      (List.range 128).any (fun i => (vecState.me.active ⟨1, false⟩).getLsbD (b + i)))))] [0, 56] vs) ∧
    ∃ vs, vecState.VReads [(0, allLanes), (57, allLanes)] [0, 57] vs ∧
      ∀ i, i < 64 → (vecState.me.active ⟨0, false⟩).getLsbD (64 * 7 + i) = true ∧ isNanL (lane vs 0 (64 * 7 + i)) = false ∧
        lane vs 1 (64 * 7 + i) = BitVec.ofNat 32 (64 * 7 + i) := by
  refine ⟨⟨_, rfl, rfl⟩, ⟨_, rfl, rfl⟩, ⟨_, ⟨rfl, rfl⟩, ?_⟩⟩
  decide +kernel

/-- Seven and eight entries of CQV, three and four of Q[3]. -/
theorem wit_VectorHandOffResult :
    (∃ vs, vecState.VReads [(0, vecState.me.active ⟨1, false⟩), (1, vecState.me.active ⟨1, false⟩)] [0, 1] vs) ∧
    (∃ vs, vecState.VReads [(0, vecState.me.active ⟨1, false⟩)] [0] vs) ∧
    (∃ vs, vecState.VReads [(0, 1#512 <<< (511#9).toNat)] [0] vs) ∧
    vecState.me.cqv.length < 8 ∧ (vecState.me.q 3).length < 4 ∧ vecState.vectorQuiet vecState.cur = true ∧
    (let s := vecState.modTc 0 (fun c => { c with
       cqv := List.replicate 8 ⟨true, false⟩
       qs := [(3, filled [1, 2, 3, 4])] })
     8 ≤ s.me.cqv.length ∧ 4 ≤ (s.me.q 3).length ∧ (∃ vs, s.VReads [(0, s.me.active ⟨1, false⟩)] [0] vs) ∧
     ∃ vs, s.VReads [(0, 1#512 <<< (0#9).toNat)] [0] vs) :=
  ⟨⟨_, rfl, rfl⟩, ⟨_, rfl, rfl⟩, ⟨_, rfl, rfl⟩, by decide +kernel, by decide +kernel, by decide +kernel, by decide +kernel,
    by decide +kernel, ⟨_, rfl, rfl⟩, ⟨_, rfl, rfl⟩⟩

/-- The own scratchpad at the base of VA1, 15 or 16 loads in flight. -/
def vecMem (n : Nat) : State := vecState.modTc 0 (fun c => { c with
  vas := [(1, 0x00FF00000000)]
  vloads := List.replicate n ⟨0, 0, 0, 9, .w32, [], 0⟩ })

/-- Where one lane of VA1 + 64 and of VA1 leads. -/
theorem wit_lanes : ∀ n, n ∈ [0, 15, 16] → ∀ acc, acc ∈ [accR, accW] →
    (vecMem n).lineAccess ⟨0, 1, 0, 0, 0, ⟨1, false⟩, 1⟩ acc = .ok (vecMem n, .w32, [(0, .scr 0 64)]) ∧
    (vecMem n).gatherAccess ⟨0, 1, 0, 0, 0, ⟨1, false⟩, 57⟩ (List.range 512 |>.map (BitVec.ofNat 32)) acc =
      .ok (vecMem n, .w32, [(0, .scr 0 0)]) := by
  intro n hn acc ha
  simp only [List.mem_cons, List.not_mem_nil, or_false] at hn ha
  rcases hn with rfl | rfl | rfl <;> rcases ha with rfl | rfl <;> exact ⟨by decide +kernel, by decide +kernel⟩

theorem wit_VectorMemoryIssues :
    (vecState.paramWord vecState.cur 63 = .ok (vecState, 0) ∧ vecState.vectorQuiet vecState.cur = true) ∧
    (vecMem 15).me.vloads.length < 16 ∧ 16 ≤ (vecMem 16).me.vloads.length ∧
    (∃ vs, (vecMem 15).VReads [(57, (vecMem 15).me.active ⟨1, false⟩)] [57] vs) ∧
    (∃ vs, (vecMem 15).VReads [(0, (vecMem 15).me.active ⟨1, false⟩)] [0] vs) ∧
    ∃ vs, (vecMem 15).VReads [(57, (vecMem 15).me.active ⟨1, false⟩), (0, (vecMem 15).me.active ⟨1, false⟩)] [57, 0] vs :=
  ⟨by decide +kernel, by decide +kernel, by decide +kernel, ⟨_, rfl, rfl⟩, ⟨_, rfl, rfl⟩, ⟨_, rfl, rfl⟩⟩

/-- Lane addresses in memory, whose page stands in the tile's TLB, in the scratchpad of logical tile 1, and in a bank of L6. -/
theorem wit_VectorMemoryIssues_lanes :
    (∀ p, p ∈ [((0x1000#64 : Dbl), Loc.mem 0x1040, Loc.mem 0x1000), (0x00FE00200000, .scr 1 64, .scr 1 0)] →
      let s := (((vecMem 0).modTile 0 (fun x => { x with tlb := [⟨0, 0, 2, 0x9F, 0x3000, []⟩] })).modTc 0 (fun c => { c with
        vas := [(1, p.1)] })).modCtx 0 (fun x => { x with tmap := [(1, 0x81)] })
      s.lineAccess ⟨0, 1, 0, 0, 0, ⟨1, false⟩, 1⟩ accR = .ok (s, .w32, [(0, p.2.1)]) ∧
      s.gatherAccess ⟨0, 1, 0, 0, 0, ⟨1, false⟩, 57⟩ (List.range 512 |>.map (BitVec.ofNat 32)) accR = .ok (s, .w32, [(0, p.2.2)]) ∧
      s.mapTile (liveCtx (s.tile s.cur)) 1 = some 1 ∧
      (s.tile s.cur).tlb.find? (fun y => y.hits (liveCtx (s.tile s.cur)) 0x1040) = some ⟨0, 0, 2, 0x9F, 0x3000, []⟩) ∧
    (let s := (vecMem 0).modTc 0 (fun c => { c with bfmt := [(0, 5)] })
     s.lineAccess ⟨0, 1, 0, 0, 3, ⟨2, false⟩, 1⟩ accR = .ok (s, .l6, [(1, .scr 0 64), (2, .scr 0 65)])) := by
  refine ⟨?_, by decide +kernel⟩
  intro p hp
  simp only [List.mem_cons, List.not_mem_nil, or_false] at hp
  rcases hp with rfl | rfl <;> exact ⟨by decide +kernel, by decide +kernel, by decide +kernel, by decide +kernel⟩

/-- A result beside an earlier write that readers see before it; a load whose earlier accesses are performed; two writes due. -/
theorem wit_ExposureRule :
    ((List.replicate 512 7#32).length = 512 ∧ (2#512).getLsbD 1 = true ∧ (2#512).getLsbD 0 = false ∧
      ∀ w ∈ vecDebug.me.pending, w.reg = 0 → w.vis ≤ vecDebug.me.tick + 4 ∧ w.iss ≤ vecDebug.me.tick) ∧
    (let s := vecState.modTc 0 (fun c => { c with vloads := [⟨0, 0, 0, 9, .w32, [(0, .scr 0 0), (511, .scr 0 2044)], 0⟩] })
     s.me.vloads[0]? = some ⟨0, 0, 0, 9, .w32, [(0, .scr 0 0), (511, .scr 0 2044)], 0⟩ ∧
     vloadReady s.me ⟨0, 0, 0, 9, .w32, [(0, .scr 0 0), (511, .scr 0 2044)], 0⟩ = true ∧ [0, 511].Nodup ∧
     (s.tile s.cur).bad = none ∧ (s.tile 0).spoiled = [] ∧
     (let u := s.modTile 0 (fun x => { x with spoiled := [31] })
      u.me = s.me ∧ (u.tile u.cur).bad = none ∧ (u.tile 0).spoiled.contains (lineOf (2044 + 3)) = true)) ∧
    (∀ l, l ∈ [[], [0x40]] →
     let s : State := { vecState.modTc 0 (fun c => { c with vloads := [⟨0, 0, 0, 9, .w32, [(0, .mem 0x103C)], 0⟩] }) with poison := l }
     s.me.vloads[0]? = some ⟨0, 0, 0, 9, .w32, [(0, .mem 0x103C)], 0⟩ ∧ vloadReady s.me ⟨0, 0, 0, 9, .w32, [(0, .mem 0x103C)], 0⟩ = true ∧
     (s.tile s.cur).bad = none ∧ 3 < elemBytes .w32 0 ∧ s.poison.contains (lineOf (0x103C + 3)) = (l != [])) ∧
    (let s := vecState.modTc 0 (fun c => { c with
       tick := 9
       pending := [⟨0, 1, [1], 3, 7⟩, ⟨0, 3, [2, 2], 4, 9⟩] })
     s.me.pending[0]? = some ⟨0, 1, [1], 3, 7⟩ ∧ 7 ≤ s.me.tick ∧ (∀ l ∈ s.me.vloads, l.reg ≠ 0) ∧ s.me.pending.Nodup ∧
     ∀ x ∈ s.me.pending, x.reg = 0 → x ≠ ⟨0, 1, [1], 3, 7⟩ →
       (⟨0, 1, [1], 3, 7⟩ : VWrite).before x = true ∧ x.before ⟨0, 1, [1], 3, 7⟩ = false) := by
  decide +kernel

theorem wit_VectorFrame :
    (∃ vs reads, vectorForm vecState.me.active vs (.vperm 3 50 1 ⟨1, false⟩) = some (3, [50, 1], reads) ∧
      vecState.VReads reads [50, 1] vs) ∧
    ∃ vs reads, vectorForm vecState.me.active vs (.vfma 0 0 1 57 ⟨2, true⟩ 0 ⟨false, false, 0⟩) = some (0, [0, 1, 57], reads) ∧
      vecState.VReads reads [0, 1, 57] vs :=
  ⟨⟨_, _, rfl, rfl, rfl⟩, ⟨_, _, rfl, rfl, rfl⟩⟩

/-! ### The matrix and the copy engine -/

/-- The stacks of both engines, with a task whose parameter area lies in the scratchpad window. -/
def stacked (st : List Dbl) : State := at0 (fun c => { c with
  mstack := st
  xstack := st
  task := some (task0 0x00FF00001000) })

/-- None, one, two, seven and eight entries; a format word at the end of its range; a parameter word. -/
theorem wit_StackResult :
    ((stacked []).me.mstack = [] ∧ (stacked []).me.xstack = [] ∧ (stacked [5]).me.mstack.length < 2 ∧
      (stacked [5]).me.xstack.length < 2) ∧
    ((stacked (List.replicate 7 1)).me.mstack.length < 8 ∧ (stacked (List.replicate 7 1)).me.xstack.length < 8) ∧
    ((stacked (List.replicate 8 1)).me.mstack.length = 8 ∧ (stacked (List.replicate 8 1)).me.xstack.length = 8) ∧
    ((stacked [2, 5]).me.mstack = 2 :: 5 :: [] ∧ (stacked [2, 5]).me.xstack = 2 :: 5 :: []) ∧
    (stacked [0x1FFFFF6]).me.xstack = 0x1FFFFF6 :: [] ∧ (0x1FFFFF6#64).toNat < 2 ^ 25 ∧ (0x1FFFFF6#64).toNat % 16 ≤ 6 ∧
    (stacked []).paramWord (stacked []).cur 63 = .ok (stacked [], 0) := by
  decide +kernel

/-- A matrix operation record that has not started. -/
def mrec (op : Nat) (flags : BitVec 6) (ops : List Dbl) : MRec := ⟨op, flags, 0, ops, 0, 0, false, false, [], none, none⟩

/-- Operands of the largest MMA: 128 rows, 128 columns and 128 steps, A at 0, B above it, a drain to feeder queue 3. -/
def mmaOps : List Dbl := [0x47F7F, 0x60003000, 0x60000000, 0x34]

/-- A version in entry 63: two columns of 96 bytes at 0x10000, and a quota of the three lines. -/
def versioned (f : TCtx → TCtx) : State := ((paged f).modCtx 0 (fun x => { x with quota0 := 3 })).modWvt 0 63 (fun w => { w with
  version := 7
  fmt := 5
  st := .published
  base := 0x10000
  length := 192 })

/-- What a check that passes leaves. -/
def okWith {ε α : Type} (e : Except ε α) (p : α → Bool) : Bool :=
  match e with
  | .ok x => p x
  | .error _ => false

/-- Records in the queue, the stack, and a heap of eight rows of one pair. -/
def queued (n : Nat) (st : List Dbl) : State := at0 (fun c => { c with
  mq := List.replicate n (mrec 6 0 mmaOps)
  mstack := st
  heap := ⟨1, 8, 0, true, []⟩ })

/-- A field of a double. -/
def bitsOf (d : Dbl) (lo n : Nat) : Nat := d.toNat / 2 ^ lo % 2 ^ n

/-- The operands of the largest MMA pass every check; a 129th row does not; A from the last 16 bytes of the scratchpad on reaches
beyond it; a ZSPEC of each DMODE, and one whose DQ is not 0 beside DMODE 0. -/
theorem wit_MatrixIssueResult :
    (∀ n, n ∈ [3, 4] → (queued n (mmaOps ++ [9])).me.mstack = mmaOps ++ [9] ∧ (queued n (mmaOps ++ [9])).me.mq.length = n) ∧
    (bitsOf 0x47F7F 32 32 = 0 ∧ bitsOf 0x47F7F 44 20 = 0 ∧ 16 * bitsOf 0x47F7F 32 12 + 128 * (128 / 8) ≤ 65536 ∧
      bitsOf 0x47F7F 0 8 + 1 = 128 ∧ bitsOf 0x47F7F 8 8 + 1 = 128 ∧ bitsOf 0x47F7F 16 16 * 32 = 128 ∧ ¬ bitsOf 0x47F80 0 8 + 1 ≤ 128) ∧
    (∀ p, p ∈ [((0x60003000#64 : Dbl), 0x3000), (0x60000000, 0), (0x601FFFF0, 0x1FFFF0)] → bitsOf p.1 40 24 = 0 ∧ bitsOf p.1 21 3 = 0 ∧
      bitsOf p.1 0 21 = p.2 ∧ p.2 % 16 = 0 ∧ bitsOf p.1 24 16 = 96) ∧
    (∀ p, p ∈ [((0x34#64 : Dbl), 1), (0xC, 3), (0x001F000000000008, 2), (0x001FFE0000000008, 2)] →
      bitsOf p.1 62 2 = 0 ∧ bitsOf p.1 53 3 = 0 ∧ bitsOf p.1 6 26 = 0 ∧ bitsOf p.1 32 21 % 64 = 0 ∧ bitsOf p.1 2 2 = p.2 ∧
      (p.2 ≠ 1 → bitsOf p.1 4 2 = 0) ∧ bitsOf p.1 56 5 = 0) ∧
    (bitsOf 0xF3 2 2 = 0 ∧ bitsOf 0xF3 4 2 ≠ 0) ∧
    (∀ y, (0x200000 ≤ y ∧ ∃ k, k < 128 ∧ 0x3000 + k * 96 ≤ y ∧ y < 0x3000 + k * 96 + 256) → False) ∧
    ((0x200000 ≤ 0x200000 ∧ ∃ k, k < 128 ∧ 0x1FFFF0 + k * 96 ≤ 0x200000 ∧ 0x200000 < 0x1FFFF0 + k * 96 + 96) ∧
      (0x200000 ≤ 0x200000 ∧ ∃ k, k < 128 ∧ 0x1FFE00 + k * 512 ≤ 0x200000 ∧ 0x200000 < 0x1FFE00 + k * 512 + 4 * 128)) := by
  refine ⟨by decide +kernel, by decide +kernel, by decide +kernel, by decide +kernel, by decide +kernel, ?_,
    ⟨Nat.le_refl _, 0, by omega⟩, ⟨Nat.le_refl _, 1, by omega⟩⟩
  rintro y ⟨h, k, hk, _, hy⟩
  omega

/-- B of one row and two columns of 128 k-steps through entry 63, dense and of MMAS: a FREE entry, a byte too few, the other
format code, no holder more, a base without a translation, and the entry as it should be. -/
theorem wit_MatrixIssueResult_version :
    let sh : Dbl := 0x40100
    let b : Dbl := 0x003F000000000000
    let f (c : TCtx) : TCtx := { c with mstack := [sh, b, 0x60000000, 0x34] }
    let s := versioned f
    (bitsOf sh 0 8 + 1 = 1 ∧ bitsOf sh 8 8 + 1 = 2 ∧ bitsOf sh 16 16 * 32 = 128 ∧ bitsOf b 56 8 = 0 ∧ bitsOf b 48 8 = 63 ∧
      bitsOf b 0 48 = 0 ∧ s.me.mstack = [sh, b, 0x60000000, 0x34]) ∧
    ((at0 f).wvt 0 63).st = .free ∧ ((s.wvt 0 63).st ≠ .free ∧ 0 + 2 * 96 ≤ (s.wvt 0 63).length.toNat ∧ (s.wvt 0 63).fmt = 5 ∧
      (s.wvt 0 63).holders < 65535) ∧
    ¬ 0 + 2 * 96 ≤ ((s.modWvt 0 63 (fun w => { w with length := 191 })).wvt 0 63).length.toNat ∧
    ((s.modWvt 0 63 (fun w => { w with fmt := 2 })).wvt 0 63).fmt ≠ 5 ∧
    ((s.modWvt 0 63 (fun w => { w with holders := 65535 })).wvt 0 63).holders = 65535 ∧
    (0xC0000000 < 2 ^ 56 ∧ 0xC0000000 / 0x8000 = (0xC0000000 + 2 * 96 - 1) / 0x8000 ∧
      s.findTlb (dieOf s.cur) (some s.cur) 0 0xC0000000 = none) ∧
    ∀ p, p ∈ [(6, 96), (7, 48)] → okWith (s.pagesOk s.cur 0x10000 (2 * p.2)) (fun s1 =>
      okWith (s1.windowSizes s.cur (mshape p.1 (mmaFlags false false false true false) s.me.mstack) (128 / 128) 0) (fun q =>
        decide ((q.1.tc s.cur).mstack = s.me.mstack ∧ (q.1.tc s.cur).mq.length < 4))) = true := by
  decide +kernel

/-- Accumulator tiles and records before an MDRAIN and an MTOPK; CFG and OFF at their largest, and beyond. -/
theorem wit_MatrixIssueResult_rest :
    (∀ r, r ∈ (queued 3 []).me.mq → r.isMma = true → r.shape.m ≤ 128 ∧ r.shape.n ≤ 128) ∧
    ((queued 3 []).me.ztile 0).m ≤ 128 ∧ ((queued 3 []).me.ztile 0).n ≤ 128 ∧
    bitsOf 0x001F000000000008 32 21 + 512 * 127 + 4 * 128 ≤ 0x200000 ∧
    (let s := at0 (fun c => { c with mstack := [0x001FFE0000000008], zs := [(0, ⟨.bf16, 128, 128, []⟩)], mq := [mrec 10 0 [0x7F7F]] })
     (∀ r, r ∈ s.me.mq → r.isMma = false ∧ r.op ≠ 8) ∧ (s.me.ztile 0).m = 128 ∧ (s.me.ztile 0).n = 128 ∧
     s.me.mq = [] ++ mrec 10 0 [0x7F7F] :: [] ∧ bitsOf 0x7F7F 8 8 + 1 = 128 ∧ bitsOf 0x7F7F 0 6 + 1 = 64 ∧
     0x200000 < 0x1FFFC0 + 8 * 128 * 64 ∧ 0x1F0000 + 8 * 128 * 64 ≤ 0x200000) ∧
    ((0xFFFFFFFF7F7F#64).toNat < 2 ^ 48 ∧ bitsOf 0xFFFFFFFF7F7F 7 1 = 0 ∧ bitsOf 0xFFFFFFFF7F7F 8 8 ≤ 127 ∧ bitsOf 0x8000 8 8 = 128) ∧
    ((0x1FFFC0#64).toNat % 64 = 0 ∧ (0x1FFFC0#64).toNat < 2 ^ 21 ∧ (∀ r, r ∈ (queued 3 []).me.mq → r.op ≠ 10) ∧
      (0x1FFFC0#64).toNat + 8 * (queued 3 []).me.heap.rows * (queued 3 []).me.heap.k ≤ 0x200000 ∧ 2 ^ 21 ≤ (0x200000#64).toNat) := by
  decide +kernel

/-- Records of the matrix engine and a drain latch whose feeder queue 3 holds so many vectors. -/
def matrixState (r : MRec) (next n : Nat) : State := at0 (fun c => { c with
  mq := [r, mrec 8 1 []]
  zs := [(0, ⟨.bf16, 128, 128, [(0, 5), (16383, 7)]⟩)]
  drain := some ⟨0x2500000000000034, false, 128, 128, [], next⟩
  feed := [(3, List.replicate n [1])] })

/-- MZERO, MDRAIN and the largest MMA about to start; a drain's first and last vector with room and with none. -/
theorem wit_MatrixEventResult :
    (∀ r, r ∈ [mrec 8 3 [], mrec 9 0 [0x34], mrec 6 (mmaFlags true false false false true) mmaOps, mrec 7 0 mmaOps] →
      let s := (matrixState r 0 0).modTc 0 (fun c => { c with drain := none })
      s.recordsRun s.cur = true ∧ s.me.mq = r :: [mrec 8 1 []] ∧ r.started = false ∧ r.holder = false ∧ s.me.drain = none) ∧
    (mrec 6 (mmaFlags true false false false true) mmaOps).isMma = true ∧
    (mrec 6 (mmaFlags true false false false true) mmaOps).shape.n ≤ 128 ∧
    (((matrixState (mrec 8 3 []) 0 0).me.ztile 0).cells.map (·.1)).Pairwise (· < ·) ∧
    dmode 0x2500000000000034 = 1 ∧ dqOf 0x2500000000000034 = 3 ∧ (0x2500000000000034#64).getLsbD 61 = true ∧
    ((matrixState (mrec 9 0 [0x34]) 30 3).me.drain = some ⟨0x2500000000000034, false, 128, 128, [], 30⟩ ∧ 30 + 1 < (128 + 3) / 4 ∧
      ((aget (matrixState (mrec 9 0 [0x34]) 30 3).me.feed 3).getD []).length < 4) ∧
    ((matrixState (mrec 9 0 [0x34]) 31 4).me.drain = some ⟨0x2500000000000034, false, 128, 128, [], 31⟩ ∧ (128 + 3) / 4 ≤ 31 + 1 ∧
      4 ≤ ((aget (matrixState (mrec 9 0 [0x34]) 31 4).me.feed 3).getD []).length) := by
  decide +kernel

/-- An MEPI and an MTOPK about to start. -/
theorem wit_MatrixEventResult_heap : ∀ r, r ∈ [mrec 10 0 [0x7F7F], mrec 11 0 [0x1FFFC0]] →
    let s := at0 (fun c => { c with mq := [r] })
    s.recordsRun s.cur = true ∧ s.me.mq = [r] ∧ r.started = false ∧ r.holder = false ∧ Memory.wf s.me.scratch = true := by
  decide +kernel

/-- An operation whose operands lie in the own scratchpad, at a k-step, with its accumulator tile as its start leaves it. -/
def stepping (op : Nat) (bf16 : Bool) (k : Nat) (zspec : Dbl) : State := at0 (fun c => { c with
  mq := [{ mrec op (mmaFlags bf16 false false false false) [0x40101, 0x1000000200, 0x1000000400, zspec] with
    kstep := k
    started := true }]
  zs := [(0, ⟨if bf16 then .bf16 else .l6, 2, 2, []⟩)]
  scratch := [(0x200, 1), (0x201, 0x80), (0x400, 1), (0x401, 0x40)] })

/-- A k-step in the middle of a block and one at its end, dense and sparse and of BF16; rows of a drain, the last among them. -/
theorem wit_MatrixEventResult_step :
    (∀ p, p ∈ [(6, false, 3, 0x4), (6, false, 127, 0x4), (6, true, 0, 0x8), (7, false, 124, 0xC), (6, true, 127, 0x0), (6, true, 127, 0x8)] →
      let s := stepping p.1 p.2.1 p.2.2.1 p.2.2.2
      let r := s.me.mq.headD (mrec 6 0 [])
      let x := r.shape
      let z := s.me.ztile (zOf x.zspec)
      s.recordsRun s.cur = true ∧ s.me.mq = [r] ∧ r.started = true ∧ r.isMma = true ∧ r.kstep < x.k ∧ r.fault = none ∧
      r.holder = false ∧ r.pins = [] ∧ x.bver = false ∧ s.me.drain = none ∧ (s.tile s.cur).spoiled = [] ∧ x.m ≤ 128 ∧ x.n ≤ 128 ∧
      (z.cells.map (·.1)).Pairwise (· < ·) ∧ z.tag = (if x.bf16 then .bf16 else .l6)) ∧
    (∀ p, p ∈ [((0x8#64 : Dbl), 0), (0xC, 1)] →
      let d : Drain := ⟨p.1, true, 2, 2, [[1, 2], [3, 4]], p.2⟩
      let s := at0 (fun c => { c with drain := some d })
      s.recordsRun s.cur = true ∧ s.me.drain = some d ∧ (dmode d.zspec = 2 ∨ dmode d.zspec = 3) ∧ Memory.wf s.me.scratch = true) ∧
    ((⟨1, 1, 0, true, []⟩ : Heap).en = true ∧ isNanL 0x7FC00000 = true ∧ isNanL 0x3F800000 = false) := by
  decide +kernel

/-- R64: the product of +q1 and −q2 adds −55,109 × 2^8, and that of +q1 and +q3 adds 32,768 × 2^9 (the example of R65). -/
theorem test_l6_products : l6Prod 1 34 = -14107904 ∧ l6Prod 1 3 = 16777216 := by decide +kernel

/-- R65: 64 of each drain 20.365234375. -/
theorem test_l6_drain : l6Drain 170835968 = 0x41A2EC00 := by decide +kernel

/-- A record that asks for its only window, of three lines, which are all that its context may pin. -/
theorem wit_MatrixEventResult_grant :
    let r : MRec := ⟨6, mmaFlags false false false true false, 0, [0x40100, 0x003F000000000000, 0x60000000, 0x34], 0, 0, true, false,
      [], some 0, none⟩
    let s := versioned (fun c => { c with mq := [r] })
    s.recordsRun s.cur = true ∧ s.me.mq = r :: [] ∧ r.ask = some 0 ∧ r.fault = none ∧
    (∀ e, e ∈ s.tiles → dieOf (BitVec.ofNat 7 e.1) = dieOf s.cur → ∀ q, q ∈ e.2.tc.mq → ∀ b, q.ask = some b → 0 ≤ b) ∧
    okWith (s.windowLines s.cur r.shape r.asked (max r.kstep (r.shape.blk * r.asked))) (fun p =>
      let pins := p.1.diePins (dieOf s.cur)
      decide (((pins.filter (fun q => q.1 = 0)).map (fun q => q.2.length)).sum + p.2.length ≤ p.1.quota (dieOf s.cur) 0 ∧
        waysMax (p.2 ++ pins.flatMap (·.2)).dedup (p.2 ++ pins.flatMap (·.2)).dedup ≤ 14)) = true := by
  intro r s
  refine ⟨by decide +kernel, by decide +kernel, rfl, rfl, fun _ _ _ _ _ b _ => Nat.zero_le b, by decide +kernel⟩

/-- A copy record whose first unit has been read. -/
def xrec (kind : Nat) (cspec : Dbl) (ops : List Dbl) (flight : List (Nat × List Byte × Nat × Bool)) : XRec :=
  ⟨0, kind, cspec, ops, 0, 0, 0x100, 0, 0, true, 0, 8, 2, flight, none, none, false⟩

/-- Operands on the stack and records. -/
def copying (st : List Dbl) (l : List XRec) : State := at0 (fun c => { c with
  xstack := st
  xrecs := l })

theorem wit_CopyIssueResult :
    let s := copying [] (List.replicate 31 (xrec 0 0 [] []))
    let f := copying [] (List.replicate 32 (xrec 0 0 [] []))
    let ok (p : Except Halt XPlan) : Prop := okWith p (fun _ => true) = true
    (s.me.xrecs.length < 32 ∧ 32 ≤ f.me.xrecs.length ∧ s.me.xstack.length ≤ 8) ∧
    ok (s.xcopyPlan [0x1FFF, 64, 0x1000, 0x00FF001FFFC0]) ∧ ok (f.xcopyPlan [0, 0, 0, 0]) ∧
    ok (s.xcopy2Plan [0, 0x200000040, 64, 64, 0x1000, 0x00FF00000000]) ∧
    ok (s.gatherPlan .xgath 3 [0, 0x200000040, 0x00FF001FFFF8, 0x1000, 0x00FF00000000]) ∧
    ok (s.gatherPlan .xscat 4 [0, 0x200000040, 0x00FF001FFFF8, 0x00FF00000000, 0x1000]) ∧ ok (s.xfeedPlan 3 [1, 0x00FF001FF800]) ∧
    ok (s.xmetaPlan [0, 64, 0x1000, 0xFFC0]) ∧ ok (s.xfillPlan [0, 64, 5, 0x1000]) ∧
    ok (s.xkvcPlan [0, 0x10017F, 0x1000, 0x2000, 0x3000]) ∧ ok (s.xredvPlan [0x1800, 64, 0x1000, 0x2000, 5]) ∧
    ok (s.xbcstPlan true [0x1800, 64, 0x1000, 0, 0x1F3F, 0x00FF001FFFFC, 1]) ∧ ok (s.xtaddPlan 31 [5, 7]) := by
  decide +kernel

/-- The operands of the second half, at their largest and smallest. -/
theorem wit_CopyIssueResult_ends :
    ((0x1FFF#64).toNat < 2 ^ 13 ∧ (0x00FDFFFFFFC0#64).toNat % 64 = 0 ∧ (0x40#64).toNat % 64 = 0) ∧
    ((0x00FDFFFFFFC0#64).toNat < 0x00FE00000000 ∧ 0x010000000000 ≤ (0xFFFFFFFFFFFFC0#64).toNat ∧
      (0xFFFFFFFFFFFFC0#64).toNat + (0x40#64).toNat ≤ 2 ^ 56 ∧ (0x40#64).toNat < 2 ^ 40) ∧
    ((0xFFC0#64).toNat + (0x40#64).toNat ≤ 65536) ∧ ((0xFFFF#64).toNat < 2 ^ 16 ∧ 2048 * (0xFFFF#64).toNat ≤ 2 ^ 56) ∧
    (7#64).toNat < 8 ∧
    ((0xFF9F#64).toNat + (0x40#64).toNat ≤ 65536 ∧ (0xFF9F#64).toNat % 64 ≠ 0 ∧ geomOk 0x200000040 = true ∧ (63#64).toNat % 64 ≠ 0) := by
  decide +kernel

/-- A line of 64 bytes that has not left the port, one that has, and a unit beside it. -/

theorem wit_CopyUnitResult :
    let r := xrec 0 0x25 [0x25, 0x200, 0x1000, 0x00FF001FFE00] [(7, line64 1, 0, false)]
    let s := copying [] [r]
    s.me.xrec 0 = some r ∧ r.flight.find? (fun e => e.1 = 7) = some (7, line64 1, 0, false) ∧ s.recordsRun s.cur = true ∧
    s.me.mayWrite r = true ∧ (line64 1).length = 64 ∧ (r.dstAddr 7).toNat = 0x00FF00000000 + 0x1FFFC0 ∧ 0x1FFFC0 % 64 = 0 ∧
    0x1FFFC0 + 64 ≤ 0x200000 ∧ Memory.wf s.me.scratch = true ∧ r.mode = true := by
  decide +kernel

theorem wit_CopyUnitResult_fabric :
    let r := xrec 9 0x1800 [0x1800, 0x200, 0x1000, 0x2000, 0x3FFFF] [(0, line64 1, 0, false), (1, line64 2, 2, true)]
    let s : State := { copying [] [r] with credits := [(0x3FFFF, 1)] }
    s.me.xrec 0 = some r ∧ s.recordsRun s.cur = true ∧ s.me.mayWrite r = true ∧
    r.flight.find? (fun e => e.1 = 0) = some (0, line64 1, 0, false) ∧ aget s.credits ((r.op 4).extractLsb' 0 18).toNat = some (0 + 1) ∧
    aget (copying [] [r]).credits ((r.op 4).extractLsb' 0 18).toNat = none ∧
    r.flight.find? (fun e => e.1 = 1) = some (1, line64 2, 2, true) ∧ (∃ e, e ∈ r.flight ∧ e.1 ≠ 1) ∧ 2 < 3 := by
  intro r s
  refine ⟨by decide +kernel, by decide +kernel, by decide +kernel, by decide +kernel, by decide +kernel, by decide +kernel,
    by decide +kernel, ⟨_, List.mem_cons_self, by decide⟩, by decide⟩

theorem wit_CopyUnitResult_xtadd :
    let r := xrec 11 0x1C1F [5, 7] []
    let s := copying [] [r]
    s.me.xrec 0 = some r ∧ r.target.1 = 0 ∧ s.recordsRun s.cur = true ∧
    ∀ e, e ∈ s.me.earlier 0 → e.age ≠ r.age ∨ e.own ≠ r.own := by
  decide +kernel

/-! ### Generation and learning, traps, the Thicket -/

/-- Context 0's versions: 5 is current, 6 is building and 63 is retiring with one holder; and the version adopted. -/
def learning (ver : BitVec 32) (idx : BitVec 6) (st5 : Wvt → Wvt) (l : List (List Dbl)) : State :=
  (((qs0 l).modTc 0 (fun c => { c with
      adVer := ver
      adIdx := idx
      adPol := 1 })).modWvt 0 5 (fun w => st5 { w with
    version := 50
    st := .published
    cur := true
    holders := 65534 })).modWvt 0 6 (fun w => { w with
    version := 60
    st := .building }) |>.modWvt 0 63 (fun w => { w with
    version := 63
    st := .retiring
    holders := 1 })

theorem wit_VersionTableResult :
    (let s := learning 0 0 id [[0x3C00000006]]
     s.Reads [(1, false)] [0x3C00000006] ∧ s.liveHandle 0 0x3C00000006 = some 6 ∧ (s.wvt 0 6).st = .building ∧
     s.controlQuiet s.cur = true ∧ s.curEntry 0 = some 5) ∧
    (let s := learning 0 0 id [[0x3F0000003F]]
     s.Reads [(1, true)] [0x3F0000003F] ∧ s.liveHandle 0 0x3F0000003F = some 63 ∧ (s.wvt 0 63).holders ≠ 0 ∧ s.controlQuiet s.cur = true) ∧
    (let s := learning 0 0 id [[0x3D0000003F]]
     s.Reads [(1, false)] [0x3D0000003F] ∧ s.liveHandle 0 0x3D0000003F = none) ∧
    (let s := learning 0 0 id [[0xFFFFFFFFFFFFFFFF], [63]]
     s.Reads [(1, false)] [0xFFFFFFFFFFFFFFFF] ∧ s.Room [(1, false)] [2] ∧ s.curEntry 0 = some 5 ∧ (s.wvt 0 5).st = .published ∧
     (s.wvt 0 5).holders < 65535 ∧ s.Reads [(2, true)] [63] ∧ s.Room [(2, true)] [2] ∧ (63#64).toNat = 63 ∧ 63 ≤ 63 ∧
     (s.wvt 0 63).st = .retiring) ∧
    (let s := learning 50 5 id []
     (s.me.q 3).length < 4 ∧ s.me.cqc.length < 8 ∧ s.newCurrent s.cur = none) := by
  unfold State.Reads State.Room; decide +kernel

/-- A version adopted that retires, none, and none where the index is that of the current entry. -/
theorem wit_VersionTableResult_adopt :
    ∀ s, s ∈ [learning 63 63 id [], learning 0 0 id [], learning 0 5 id []] →
     (s.me.q 3).length < 4 ∧ s.me.cqc.length < 8 ∧ s.newCurrent s.cur = some 5 ∧ (s.wvt 0 5).holders < 65535 ∧ (s.wvt 0 5).version ≠ 0 ∧
     (s.me.adVer = 0 ∨ s.me.adIdx.toNat ≠ 5) ∧ s.me.adPol ≠ 0 := by
  intro s hs
  simp only [List.mem_cons, List.not_mem_nil, or_false] at hs
  rcases hs with rfl | rfl | rfl <;> decide +kernel

/-- Words at both ends of the scratchpad, a fragment table there, and a log of 63 records that does or does not run. -/
def spooring (on : Bool) (l : List (List Dbl)) : State :=
  ((qs0 l).modTc 0 (fun c => { c with
    scratch := [(0, 1), (4, 2), (8, 3), (0x1FFFF0, 1), (0x1FFFF4, 2), (0x1FFFF8, 9)]
    ftbase := 0x00FF00000000
    nextf := 63
    acptmap := 0x3F041 })).modDie false (fun x => { x with logs := [(0, { (State.reset.log false 0) with
      d0 := if on then 0x22 else 2
      inq := List.replicate 63 ⟨0, 0, 0, 0, 0, 0, 0, 0⟩ })] })

theorem wit_SpoorAndFragmentResult :
    (∀ on, on ∈ [true, false] → let s := spooring on [[0x00FF001FFFC8]]
     s.Reads [(1, false)] [0x00FF001FFFC8] ∧ (0x00FF001FFFC8#64).toNat = 0x00FF00000000 + 0x1FFFC8 ∧ 0x1FFFC8 + 56 ≤ 0x200000 ∧
     0x1FFFC8 % 8 = 0 ∧ (s.log (dieOf s.cur) (liveCtx (s.tile s.cur))).d0.getLsbD 5 = on ∧ s.controlQuiet s.cur = true ∧
     (s.log (dieOf s.cur) (liveCtx (s.tile s.cur))).inq.length < 64) ∧
    (let s := spooring true [[0x00FF00000000], [0x00FF001FFFF0]]
     s.Reads [(1, false), (2, false)] [0x00FF00000000, 0x00FF001FFFF0] ∧ s.Room [(1, false), (2, false)] [1] ∧
     s.controlQuiet s.cur = true ∧ 0x1FFFF0 + 4 * (3#8).toNat ≤ 0x200000 ∧ 0x1FFFF0 % 4 = 0 ∧
     (∀ i, i < 2 → memBytes s.me.scratch (0 + 4 * i) 4 = memBytes s.me.scratch (0x1FFFF0 + 4 * i) 4) ∧
     memBytes s.me.scratch (0 + 4 * 2) 4 ≠ memBytes s.me.scratch (0x1FFFF0 + 4 * 2) 4 ∧ 2 ≤ (3#8).toNat ∧ 2 = (2#8).toNat ∧
     (s.tile s.cur).spoiled = []) ∧
    (let s := spooring true []
     let va : Dbl := (s.me.ftbase &&& 0x00FFFFFFFFFFFFC0#64) + 8 * s.me.nextf.setWidth 64
     va.toNat < 2 ^ 56 ∧ s.locate s.cur va 8 accR = .ok (s, .scr 0 0x1F8) ∧ s.controlQuiet s.cur = true ∧
     (∀ f, f ∈ s.me.fills → f.ofAcpt = false) ∧ s.me.adPol ≠ 2 ∧ s.me.followers 0 = []) := by
  unfold State.Reads State.Room; decide +kernel

theorem wit_ControlRegisterResult :
    (let s := qs0 [[0x3F]]
     s.controlQuiet s.cur = true ∧ (s.me.q 3).length < 4 ∧ s.Reads [(1, false)] [0x3F]) ∧
    (let s := qs0 [[0x80]]
     s.Reads [(1, true)] [0x80] ∧ (0x80#64).extractLsb' 6 2 ≠ 3#2 ∧ (0x80#64).extractLsb' 32 32 = s.me.adVer ∧
     (0x80#64).extractLsb' 0 6 = s.me.adIdx) ∧
    ((qs0 []).tile 0).reqs = [] ∧
    (let s := (qs0 []).modTile 0 (fun x => { x with reqs := [⟨2, 5⟩, ⟨1, 3⟩] })
     (⟨1, 3⟩ : PReq) ∈ (s.tile 0).reqs ∧ ∀ z, z ∈ (s.tile 0).reqs → 3 ≤ z.left) := by
  unfold State.Reads; decide +kernel

/-- A tile whose traps go where the delegation, the vector and INH say, with the rings of its die empty or full. -/
def trapping (deleg tvec : BitVec 48) (inh full : Bool) : State :=
  { (at0 (fun c => { c with
      tvec := tvec
      inh := inh
      tick := 9
      pending := [⟨0, 1, [1], 3, 9⟩, ⟨5, 1, [1], 3, 12⟩] })).modCtx 0 (fun x => { x with tdeleg := deleg.setWidth 64 }) with
    trapRings := [(0, ⟨0, 1, if full then 2 else 1, 0⟩), (1, ⟨0, 1, if full then 2 else 1, 0⟩)] }

/-- Cause 1 handled in the tile, sent to S and to M, double, without a handler; MCHECK; each ring with one record of two or
full. -/
theorem wit_TrapEntryResult :
    (let s := trapping 0 0x100 false false
     let d := trapping 0 0x100 true true
     (s.tc 0).fills = [] ∧ (s.tc 0).vloads = [] ∧ (s.tc 0).inh = false ∧ (s.tc 0).tvec ≠ 0 ∧ (d.tc 0).fills = [] ∧
     (d.tc 0).vloads = [] ∧ (d.tc 0).inh = true ∧ (trapping 0 0 false false).me.tvec = 0) ∧
    ((trapping 0 0x100 false false).tc 0).c.await = none ∧
    ((trapping 0 0x100 false false).modTc 0 (fun c => { c with
      qs := [(1, [.filled 3, .reserved 0])]
      c := { c.c with await := some (4, 0) } })).me.c.await ≠ none ∧
    ((trapping 0 0x100 false false).ctx 0).tdeleg.toNat / 4 ^ (1#8).toNat % 4 = 0 ∧
    ((trapping 4 0x100 false false).ctx 0).tdeleg.toNat / 4 ^ (1#8).toNat % 4 = 1 ∧
    ((trapping 8 0x100 false false).ctx 0).tdeleg.toNat / 4 ^ (1#8).toNat % 4 = 2 ∧
    (∀ m, ((trapping 4 0x100 false false).trapRing false m).full = false ∧ ((trapping 4 0x100 false true).trapRing false m).full = true) := by
  decide +kernel

/-- A handler that runs, entered by the control engine, by the copy engine; no handler and no request. -/
theorem wit_HandlerRules :
    (∀ e, e ∈ [0, 3] → let s := at0 (fun c => { c with
       inh := true
       teng := e })
     s.me.inh = true ∧ s.me.recStop = false ∧ (e = 3 → s.me.teng ≠ 0)) ∧
    (at0 id).me.inh = false ∧ ((at0 id).tile (at0 id).cur).reqs = [] := by
  decide +kernel

/-- A task of die 0 in slot 2047, and one that depends on it. -/
def thicket (e : TSlot → TSlot) : State :=
  (at0 id).modDie false (fun x => { x with slots := [(3, { placedTask with
      st := .waiting
      age := 9
      deps := [(2047, .raw, 0)] }), (2047, e { placedTask with
      age := 5
      st := .ready
      tile := none })] })

theorem wit_ThicketEventResult :
    (let s := thicket id
     s.slot false (2047#11).toNat = some { placedTask with age := 5, st := .ready, tile := none } ∧
     s.nextDispatch false = some (0, (2047#11).toNat) ∧ ({ placedTask with age := 5, st := .ready, tile := none } : TSlot).image = none) ∧
    (let e : TSlot := { placedTask with age := 5, st := .running, tile := some 0, exited := true }
     let s := thicket (fun _ => e)
     s.slot false (2047#11).toNat = some e ∧ e.tile = some 0 ∧ s.completable 0 e = true ∧
     ((s.die false).slots.map (·.1)).Pairwise (· < ·)) ∧
    (let e : TSlot := { placedTask with st := .ready, readyCk := 2 ^ 20, prio := 3 }
     let s := thicket (fun _ => e)
     s.slot false (2047#11).toNat = some e ∧ e.st = .ready ∧ 2 ^ 20 ≤ e.readyCk) := by
  decide +kernel

/-! ### Events -/

/-- The first GiB maps onto itself for the units of die 0 too. -/
def pagedDie (f : TCtx → TCtx) : State := (paged f).modDie false (fun x => { x with stlb := [⟨0, 0, 2, 0x9F, 0x3000, []⟩] })

/-- The last queue slot of die 0, of context 0. -/
def lastQueue (q : Queue → Queue) : State :=
  (pagedDie id).modDie false (fun x => { x with queues := [(511, q { ((pagedDie id).queue false 511) with
    gen := 1
    ctx := 0
    valid := true
    res := true
    rlog2 := 3
    rbase := 0x2000 })] })

/-- A block without ranges. -/
def plainBlock : Rec := ⟨0x8000000000000000, 0, 0, 0, 0, 0, 0, 0⟩

/-- The Spoor log of context 0 on die 0, with its ring of two records at 0x4000 and its counts at 0x5000 and 0x5040. -/
def logged : State :=
  (pagedDie id).modDie false (fun x => { x with logs := [(0, { ((pagedDie id).log false 0) with
    d0 := 0x4021
    acnt := 0x5000
    rcnt := 0x5040
    inq := [plainBlock] })] })

/-- Mailbox 63 of context 0, bound, with three of its four slots taken, and an arrival for it. -/
def arriving : State :=
  { (pagedDie id).modMbox 0 63 (fun x => { x with
      bound := true
      slots := 2
      live := 3 }) with arrivals := [(0, 62, .xtadd 5 1), (0, 63, .xtadd 5 0xFFFFFFFFFFFFFFFF)] }

theorem wit_QueueEventResult :
    (let s := lastQueue (fun q => { q with
       work := true
       deficit := 1
       recs := [plainBlock] })
     256 < s.freeSlots false ∧ s.nextEligible false = some (511#9).toNat ∧ (s.queue false 511).recs = plainBlock :: [] ∧
     blockOk plainBlock = true ∧ s.lowestFree false = some 0) ∧
    (let s := lastQueue (fun q => { q with
       spill := true
       tail := 1
       head := 0xFFFFFFF9
       recs := List.replicate 24 plainBlock })
     let q := s.queue false 511
     q.valid = true ∧ q.res = true ∧ q.spill = true ∧ q.faulted = false ∧ q.refill = none ∧ 0 < q.rcount ∧ q.recs.length ≤ 24 ∧
     okWith (s.ringRead false 511 (min 8 q.rcount) q.head) (fun _ => true) = true) ∧
    (let s := lastQueue (fun q => { q with refill := some [plainBlock] })
     (s.queue false 511).valid = true ∧ (s.queue false 511).refill = some [plainBlock]) ∧
    (arriving.arrivals[1]? = some (0, 63, .xtadd 5 0xFFFFFFFFFFFFFFFF) ∧ (arriving.mbox 0 63).bound = true ∧
      (∀ d, arriving.mailboxFree d 0 63 = true) ∧ (arriving.ctx 0).migrating = false ∧
      ((arriving.modCtx 0 (fun x => { x with migrating := true })).ctx 0).migrating = true ∧
      ∀ p, p ∈ arriving.arrivals.take 1 → p.1 = 0 → p.2.1 = 63 → p.2.2.sender ≠ (1, 5)) := by
  decide +kernel

/-- The slot and the handler's block of that arrival, for the units of either die. -/
theorem wit_QueueEventResult_slot :
    let s : State := { ((arriving.modDie true (fun x => { x with stlb := [⟨0, 0, 2, 0x9F, 0x3000, []⟩] })).modMbox 0 63 (fun x => { x with
        addr := 0x7000
        arr := 3
        handler := 0x6000 })) with mem := memWrite [] 0x6000 (recBytes plainBlock) }
    (s.mbox 0 63).bound = true ∧ (s.mbox 0 63).live < 4 ∧ ∀ dd : Bool,
      okWith ((({ s with arrivals := s.arrivals.eraseIdx 1 } : State).modMbox 0 63 (fun y => { y with
          mctr := 0xFFFFFFFFFFFFFFFF
          arr := 4 })).translate dd none 0 0x70C0 accW 0x70C0) (fun p =>
        okWith ((p.1.unitWrite dd p.2 (recBytes ⟨0x501, 0xFFFFFFFFFFFFFFFF, 0xFFFFFFFFFFFFFFFF, 0, 0, 0, 0, 0⟩)).translate dd none 0 0x6000 accR
          0x6000) (fun h => !h.1.poison.contains (lineOf h.2) && decide (h.1.lowestFree dd = some 0) &&
            blockOk { recOf (h.1.physBytes dd h.2 64) with d2 := 0x70C0 })) = true := by
  decide +kernel

theorem wit_QueueEventResult_log :
    let g := logged.log false 0
    (logged.ctx 0).migrating = false ∧ ((logged.modCtx 0 (fun x => { x with migrating := true })).ctx 0).migrating = true ∧
    g.inq = plainBlock :: [] ∧ g.stopped = false ∧ 2 ^ (g.d0.extractLsb' 0 5).toNat = 2 ∧
    okWith (logged.translate false none 0 g.rcnt.toNat accR g.rcnt) (fun p1 =>
      okWith (p1.1.translate false none 0 g.acnt.toNat accW g.acnt) (fun p2 =>
        let count := ofBytes (p2.1.physBytes false p2.2 8)
        okWith (p2.1.translate false none 0 ((g.d0.extractLsb' 6 50).toNat * 64 + 64 * (count.toNat % 2)) accW
          (BitVec.ofNat 64 ((g.d0.extractLsb' 6 50).toNat * 64 + 64 * (count.toNat % 2)))) (fun p3 =>
          decide (aget p2.1.dir (p1.2 / 8) = none ∧ aget p3.1.dir (p2.2 / 8) = none ∧
            (count - ofBytes (p2.1.physBytes false p1.2 8)).toNat < 2 ∧ p3.2 % 64 = 0 ∧ p2.2 % 8 = 0 ∧ lineOf p3.2 ≠ lineOf p2.2)))) =
      true := by
  decide +kernel

/-- A tile whose task waits for nothing, in slot 0 of die 0. -/
def running (f : TCtx → TCtx) (g : Tile → Tile) : State :=
  ((at0 (fun c => f { c with task := some (task0 0) })).modTile 0 g).modDie false (fun x => { x with slots := [(0, slot0 (task0 0))] })

/-- Two slices, the later of context 1, which tile 0 may run; a time; and the task's place. -/
def sliced (start len : Dbl) (t : Nat) (g : Tile → Tile) : State :=
  { ((running id g).modCtx 1 (fun x => { x with tmap := [(0, 0x80)] })).modCtx 0 (fun x => { x with pdead := 9 }) with
    ns9 := t
    slhead := 0xFFFFFFFF
    sltail := 1
    slices := [(0, (0x8000000000000001, start, len))] }

theorem wit_TileEventResult :
    (∀ f, let s := { at0 id with flying := [⟨0, 0, 31, 0xFFFFFFFFFFFFFFFF, f⟩] }
     s.flying[0]? = some ⟨0, 0, 31, 0xFFFFFFFFFFFFFFFF, f⟩ ∧ (s.tile 0).live = some 0 ∧ s.exchanging 0 = false) ∧
    (let r : XRec := { xrec 0 0 [] [] with fault := some ⟨5, 0⟩ }
     let s := running (fun c => { c with xrecs := [r] }) id
     (∀ q, q ∈ (s.tc 0).mq → q.fault = none) ∧ (s.tc 0).xrecs.find? (fun r => r.fault.isSome) = some r ∧ r.own = true ∧
     s.taskRuns 0 = true ∧ (s.tile 0).stop = .none ∧ (s.tc 0).recStop = false) ∧
    (let s := running (fun c => { c with c := { c.c with
       walking := true
       waiting := true } }) (fun x => { x with prog := 2 ^ 24 })
     2 ^ 24 ≤ (s.tile 0).prog ∧ (s.tc 0).task = some (task0 0) ∧ (s.tile 0).stop = .none ∧ s.waitMet 0 = false ∧
     (s.tc 0).walkers.find? (fun e => ((s.tc 0).eng e).stands) = some .c) ∧
    (let s := (at0 id).modTile 0 (fun x => { x with due := true })
     s.exchangeReady 0 = true ∧ (s.tc 0).task = none) ∧
    (let s := running id (fun x => { x with due := true })
     s.exchangeReady 0 = true ∧ (s.tc 0).task = some (task0 0) ∧ s.slot (dieOf 0) 0 = some (slot0 (task0 0)) ∧
     (s.stopForSave 0).isSome = true) ∧
    (let s := (at0 id).modTile 0 (fun x => { x with due := true, held := some (true, plainBlock) })
     (s.tile 0).records ≠ []) ∧
    (∀ b due, let s : State := { ((at0 id).modTile 0 (fun x => { x with
       stop := .exchanging b
       due := due
       sett := some (1, .reset, none) })) with slices := [(0, (0x8000000000000001, 0, 0))] }
     (s.tile 0).stop = .exchanging b ∧ s.settWait = none ∧ ((s.tile 0).sett.map (fun y => y.2.1.task)).getD none = none ∧
     ((s.tile 0).sett.map (·.2.2)).getD none = none ∧ sliceValid (s.sliceAt s.slhead) = true ∧
     (s.tile 0).sett.map (·.1) = some ((s.sliceAt s.slhead).1.extractLsb' 0 5)) := by
  decide +kernel

/-- A TWAIT whose FAIL bit is set, and a GWAIT and a GSYNC whose slots have no arrival: the wait is over. -/
theorem wit_TileEventResult_met :
    (let s := running (fun c => { c with
       qs := [(1, filled [7])]
       fails := 8
       c := { c.c with
         walking := true
         waiting := true
         fetched := [6279, 4352] } }) id
     s.me.c.waiting = true ∧ s.me.c.fetched ≠ [] ∧ decode s.me.c.fetched = .ok (.twait 3 true 1 0 true) ∧
     s.me.readQ [(1, true)] = .ok [7] ∧ s.me.fails.getLsbD (3#5).toNat = true ∧ s.waitMet 0 = true) ∧
    ∀ p : Parcel × Instr, p ∈ [(0x09C8, Instr.gwait 0 true), (0x0A18, .gsync 1 true)] →
      let s := running (fun c => { c with c := { c.c with
        walking := true
        waiting := true
        fetched := [p.1] } }) id
      s.me.c.waiting = true ∧ s.me.c.fetched ≠ [] ∧ decode s.me.c.fetched = .ok p.2 ∧ s.waitMet 0 = true := by
  decide +kernel

/-- A slice that begins after the notice a task is due, behind an entry that is not VALID; one that has begun, and one that has
passed. -/
theorem wit_TileEventResult_slices :
    (let s : State := { sliced 5 100 0 (fun x => { x with reqs := [⟨0, 0⟩] }) with slhead := 0xFFFFFFFE }
     let next := s.sliceAt (s.slhead + 1 + 1)
     1 + 1 < (s.sltail - s.slhead).toNat ∧ sliceValid (s.sliceAt s.slhead) = false ∧ sliceValid (s.sliceAt (s.slhead + 1)) = false ∧
     sliceValid next = true ∧ max (s.ns9 / 9) 0 < sliceEnd next ∧ 0 ∈ s.sliceTiles (next.1.extractLsb' 0 5) ∧
     (s.tile 0).sreq = none ∧ (s.tc 0).task = some (task0 0) ∧ (∀ p, p ∈ (s.tile 0).reqs → p.cause ≠ 1) ∧
     9 * max 0 (nsOf next.2.1) ≤ s.ns9 + 5 * (s.ctx (liveCtx (s.tile 0))).pdead.toNat) ∧
    (let s := sliced 5 100 45 (fun x => { x with sett := some (1, .reset, none) })
     s.hasNext = true ∧ s.boundary ≤ s.ns9 / 9 ∧ sliceValid (s.sliceAt (s.slhead + 1)) = true ∧
     s.ns9 / 9 < sliceEnd (s.sliceAt (s.slhead + 1)) ∧ (s.tile 0).pend = false ∧
     0 ∈ s.sliceTiles ((s.sliceAt (s.slhead + 1)).1.extractLsb' 0 5) ∧ (s.tc 0).task = some (task0 0) ∧ (s.tile 0).sreq = none) ∧
    (let s := sliced 5 0 45 id
     s.hasNext = true ∧ s.boundary ≤ s.ns9 / 9 ∧ sliceEnd (s.sliceAt (s.slhead + 1)) ≤ s.ns9 / 9) := by
  decide +kernel

/-! ### Messages and arrivals -/

theorem tag_ne (x : Dbl) : x ≠ x + 1 := by
  intro h
  have := congrArg (fun y => y - x) h
  simp at this

/-- A hardware queue with seven records of eight in its ring, and handle 0x1FF0001. -/
def messaged (q : Queue → Queue) : State := lastQueue (fun x => q { x with
  tail := 7
  spill := true
  lastseq := 4 })

/-- Tags that verify and one that does not; a ring with one free place, none, an increment of 0 and of 2; room for a record and
none. -/
theorem wit_MessageResult :
    (let s := messaged id
     let q := s.queue false 511
     s.liveQueue 0x1FF0001 = some (false, 511) ∧ (s.ctx q.ctx).migrating = false ∧ q.lastseq.toNat < (5#32).toNat ∧
     1 ≤ (8#32 - q.tail).toNat ∧ (8#32 - q.tail).toNat + q.rcount ≤ q.rcap ∧ (7#32 - q.tail).toNat = 0 ∧
     q.rcap < (9#32 - q.tail).toNat + q.rcount ∧ (4#32).toNat ≤ q.lastseq.toNat ∧
     s.liveQueue 0x1FF0002 = none) ∧
    (∀ (k : BitVec 128) (m : List Byte), (∃ tag, cmac8 k m = tag) ∧ ∃ tag, cmac8 k m ≠ tag) ∧
    ((messaged (fun q => { q with
        spill := false
        tail := 0 })).queue false 511).placement = .onDie ∧
    ((messaged (fun q => { q with tail := 8 })).queue false 511).placement = .full ∧
    (let s := arriving.modCtx 0 (fun x => { x with valid := true })
     (31#8).toNat < 32 ∧ (63#8).toNat < 64 ∧ (s.ctx ((0#8).setWidth 5)).valid = true ∧ (s.ctx 0).migrating = false ∧
     (s.mbox 0 ((63#8).setWidth 6 : BitVec 6).toNat).bound = true ∧ (s.mbox 0 63).lastseq.toNat < (5#32).toNat ∧
     s.mailboxFree true 0 63 = true ∧ s.writeHeld 0 63 = false ∧ (s.mbox 0 63).live < 2 ^ (s.mbox 0 63).slots.toNat ∧
     { s with arrivals := [(0, 63, .benrek plainBlock)] }.writeHeld 0 63 = true) ∧
    (∀ b, ({ State.reset with mgmtset := b } : State).mgmtset = b) ∧ State.reset.sumlast.toNat < (5#32).toNat ∧
    State.reset.MemWf ∧
    (let s : State := { State.reset with recvRings := [(0, ⟨0x1000, 1, 1, 0⟩), (1, ⟨0x2000, 1, 2, 0⟩)] }
     (s.recvRing false).full = false ∧ (s.recvRing true).full = true) := by
  unfold State.MemWf
  refine ⟨by decide +kernel, fun k m => ⟨⟨_, rfl⟩, ⟨_, tag_ne _⟩⟩, by decide +kernel, by decide +kernel, by decide +kernel, fun _ => rfl,
    by decide, by decide +kernel, by decide +kernel⟩

/-- A context that is valid, with a building version of two lines at 0x2000. -/
def homeState : State := ((pagedDie id).modCtx 0 (fun x => { x with valid := true })).modWvt 0 63 (fun w => { w with
  version := 7
  st := .building
  base := 0x2000
  length := 128 })

/-- What a value that is there satisfies. -/
def someWith {α : Type} (o : Option α) (p : α → Bool) : Bool :=
  match o with
  | some x => p x
  | none => false

/-- A unit of 64 bytes, the first of two and the only one; a broadcast unit that ends the version; accesses that lead
somewhere and one that does not; a compare that finds 0. -/
theorem wit_FabricArrivalResult :
    ((homeState.ctx 0).valid = true ∧ (homeState.ctx 0).migrating = false) ∧
    someWith (homeState.homeRead false 0 0x1000 64) (fun p => decide (p.2.length = 64) &&
      decide ((sumUnit (lanesOf16 p.2) (lanesOf16 (recBytes plainBlock))).length = 64) && someWith (p.1.homeWriteVa false 0 0x1000
      (sumUnit (lanesOf16 p.2) (lanesOf16 (recBytes plainBlock)))) (fun s2 =>
        let k := ((s2.redvs.find? (fun e => e.1 = 5 && e.2.1 = 0)).map (·.2.2)).getD 0 + 1
        decide (k < (128#32).toNat / 64 ∧ (64#32).toNat / 64 ≤ k))) = true ∧
    (let w := homeState.wvt ((0x70000003F#64).extractLsb' 8 5) ((0x70000003F#64).extractLsb' 0 6).toNat
     w.st = .building ∧ w.version = (0x70000003F#64).extractLsb' 32 32 ∧ 64 + 64 ≤ w.length.toNat ∧ w.pubDone = false ∧
     w.version ≠ (0x80000003F#64).extractLsb' 32 32 ∧ w.landed.toNat + 64 < w.length.toNat ∧
     ((w.pubs.find? (fun q => q.1 = 5 && q.2.1 = 0)).map (·.2.2)).getD 0 + 1 < 64 / 64 * (1 + 1) ∧
     64 / 64 * (0 + 1) ≤ ((w.pubs.find? (fun q => q.1 = 5 && q.2.1 = 0)).map (·.2.2)).getD 0 + 1 ∧
     (({ w with landed := 64 } : Wvt).length.toNat ≤ ((64 : Dbl) + 64).toNat) ∧
     someWith (homeState.homeWriteVa false 0 (w.base.toNat + 64 + 64 * (0 % (64 / 64))) (recBytes plainBlock))
       (fun s1 => decide (s1.wvt 0 63 = w)) = true) ∧
    someWith (homeState.homeRead false 0 0x1000 8) (fun p => decide (ofBytes p.2 = 0) && decide (ofBytes p.2 ≠ 1) &&
      (p.1.homeWriteVa false 0 0x1000 (toBytes (amoOp 0 8 (ofBytes p.2) 5) 8)).isSome &&
      (p.1.homeWriteVa false 0 0x1000 (toBytes 5 8)).isSome) = true ∧
    homeState.homeRead false 0 0x40000000 8 = none ∧ homeState.homeRead false 0 0x40000000 64 = none ∧
    homeState.homeWriteVa false 0 0x40000000 [1] = none := by
  decide +kernel

/-- The peer window of logical tile 127, which is tile 5: it is idle, exchanges, or has its clocks stopped. -/
theorem wit_FabricArrivalResult_window :
    let s := homeState.modCtx 0 (fun x => { x with tmap := [(127, 0x85)] })
    isWindow (0x00FE0FE00040#64).toNat = true ∧ (0x00FE0FE00040#64).toNat % 64 = 0 ∧
    s.peerOf 0 (0x00FE0FE00040#64).toNat 64 = some (5, 64) ∧ s.frozen 5 = false ∧ (s.tile 5).stop = .none ∧
    (s.modTile 5 (fun x => { x with stop := .exchanging true })).exchanging 5 = true ∧
    ({ s with islands := [(0, { Island.reset with tstop := true })] } : State).frozen 5 = true := by
  decide +kernel

/-- R76: a unit's access to the peer window of a tile reaches its scratchpad; one to the self window reaches nothing. -/
theorem test_unit_window :
    let s := homeState.modCtx 0 (fun x => { x with tmap := [(127, 0x85)] })
    someWith (s.homeWriteVa false 0 0x00FE0FE00040 [1, 2]) (fun u => decide (memBytes (u.tc 5).scratch 64 2 = [1, 2] ∧ u.mem = s.mem)) =
      true ∧ s.homeWriteVa false 0 0x00FF00000000 [1] = none := by
  decide +kernel

/-- A die that asks for its firmware for the second time, a timer that has run out, and three requests made. -/
def booting (f : Die → Die) : State := State.reset.modDie true (fun x => f { x with
  bootPhase := 1
  bootSrc := true
  bootOff := 4096
  bootReq := 2
  bootTotal := 2
  bootTimer := 0 })

theorem wit_PackageEventResult :
    (((booting id).island 19).on = true ∧
      (({ booting id with islands := [(19, { State.reset.island 19 with on := false })] } : State).island 19).on = false) ∧
    (let x := (booting id).die true
     x.bootPhase = 1 ∧ x.bootSrc = true ∧ (4096#32).toNat = x.bootOff ∧ [1#8] ≠ [] ∧ x.bootImg.length + 1 < (2#32).toNat ∧
     (2#32).toNat = x.bootTotal ∧ (2#32).toNat ≤ x.bootImg.length + 2 ∧ x.bootTimer = 0 ∧ x.bootReq < 3) ∧
    (let x := (booting (fun x => { x with bootSrc := false })).die true
     x.bootPhase = 1 ∧ x.bootSrc = false) ∧
    (let x := (booting (fun x => { x with bootReq := 3 })).die true
     x.bootPhase = 1 ∧ x.bootTimer = 0 ∧ 3 ≤ x.bootReq) ∧
    (let x := (booting (fun x => { x with
       bootPhase := 3
       bootSrc := false })).die true
     x.bootPhase = 3 ∧ x.bootTimer = 0 ∧ x.bootSrc = false) ∧
    (let s : State := { (State.reset.modDie false (fun x => { x with bootPhase := 4 })) with recvRings := [(1, ⟨0, 1, 1, 0⟩)] }
     (s.recvRing true).full = false ∧ (s.die s.primary).bootPhase = 4) ∧
    ((109#8).toNat < 110 ∧ 110 ≤ (110#8).toNat) ∧
    (({ State.reset with powWait := some (17, 5) } : State).powWait = some (17, 5) ∧ (17#5).toNat < 18) ∧
    (∀ l : List (Nat × Nat), let g : Migr := { State.reset.die0.migr with
       phase := 1
       stage := 2
       todo := l }
     g.phase = 1 ∧ g.stage = 2 ∧ g.todo = l) ∧
    (let s := (pagedDie id).modDie true (fun x => { x with migr := { x.migr with
       phase := 3
       stage := 1 } })
     (s.die true).migr.phase = 3 ∧ (s.die true).migr.stage = 1 ∧ (s.tile 0).tlb.any (fun e => e.ctx = 0) = true) := by
  refine ⟨by decide, by decide +kernel, by decide +kernel, by decide +kernel, by decide +kernel, by decide +kernel, by decide,
    by decide +kernel, fun l => ⟨rfl, rfl, rfl⟩, by decide +kernel⟩

/-- A chunk of 16 bytes for address 0x1000 that verifies and one that does not; where the first is written. -/
theorem wit_PackageEventResult_chunk :
    let header := dblBytes [0x1000, 0, 0, 16]
    let nonce := natBytes (0#32).toNat 4 ++ toBytes 0 8
    let x := gcmSeal 0 nonce header (List.replicate 16 1)
    (homeState.die false).migr.mkey = 0 ∧ (homeState.die false).migr.stream = 0 ∧ (homeState.die false).migr.phase ≠ 5 ∧
    gcmOpen 0 nonce header x.1 x.2 = some (List.replicate 16 1) ∧ gcmOpen 0 nonce header x.1 (x.2 + 1) = none ∧
    (let lost := dblBytes [0x40000000, 0, 0, 16]
     let state := dblBytes [0, 0, 1, 16]
     (∀ h, h ∈ [lost, state] → let y := gcmSeal 0 nonce h (List.replicate 16 1)
       gcmOpen 0 nonce h y.1 y.2 = some (List.replicate 16 1)) ∧ dblAt state 2 ≠ 0 ∧ dblAt lost 2 = 0 ∧
     homeState.tableWriteVa false ((homeState.die false).migr.mctx.setWidth 5) (dblAt lost 0).toNat (List.replicate 16 1) = none) ∧
    dblAt header 2 = 0 ∧ (homeState.tableWriteVa false ((homeState.die false).migr.mctx.setWidth 5) (dblAt header 0).toNat
      (List.replicate 16 1)).isSome = true := by
  decide +kernel

/-! ### A save -/

theorem dblBytes_length (ds : List Dbl) : (dblBytes ds).length = 8 * ds.length := by
  induction ds with
  | nil => rfl
  | cons d r ih =>
    have e : dblBytes (d :: r) = toBytes d 8 ++ dblBytes r := rfl
    rw [e, List.length_append, ih, toBytes, List.length_map, List.length_range, List.length_cons]
    omega

/-- Pieces of one length. -/
theorem length_flatMap_le {α β : Type} (l : List α) (f : α → List β) (n : Nat) (h : ∀ x, (f x).length ≤ n) :
    (l.flatMap f).length ≤ l.length * n := by
  induction l with
  | nil => simp
  | cons a r ih =>
    have := h a
    simp only [List.flatMap_cons, List.length_append, List.length_cons, Nat.add_mul, Nat.one_mul]
    omega

theorem laneBytes_length (v : List Lane) : (laneBytes v).length ≤ 2048 := by
  have := length_flatMap_le (List.range 512) (fun l => natBytes (v.getD l 0).toNat 4) 4 (fun x => by simp [natBytes])
  rw [List.length_range] at this
  exact this

theorem vregSection_length (c : TCtx) : (vregSection c).length ≤ 200000 := by
  have h1 := length_flatMap_le (List.range 48) (fun n => laneBytes ((aget c.vregs n).getD [])) 2048 (fun _ => laneBytes_length _)
  have h2 := length_flatMap_le (List.range 7) (fun n => natBytes (((aget c.masks (n + 1)).getD 0).toNat) 64) 64
    (fun x => by simp [natBytes])
  have h4 := length_flatMap_le (List.range 4) (fun n =>
    let q := (aget c.feed n).getD []
    dblBytes [nd q.length] ++ (List.range 4).flatMap (fun i => laneBytes (q.getD i []))) 8200 (fun x => by
      have := length_flatMap_le (List.range 4) (fun i => laneBytes (((aget c.feed x).getD []).getD i [])) 2048 (fun _ => laneBytes_length _)
      simp only [List.length_append, dblBytes_length, List.length_range, List.length_singleton] at this ⊢
      omega)
  simp only [vregSection, List.length_append, dblBytes_length, List.length_map, List.length_range] at h1 h2 h4 ⊢
  omega

theorem zaccSection_length (c : TCtx) : (zaccSection c).length ≤ 400000 := by
  have := length_flatMap_le (List.range 4) (fun n =>
    let z := (aget c.zs n).getD .reset
    dblBytes [nd ((match z.tag with | .empty => 0 | .l6 => 1 | .bf16 => 2) + (z.m - 1) * 256 + (z.n - 1) * 65536)] ++
    (List.range 16384).flatMap (fun i => natBytes ((aget z.cells i).getD 0).toNat 5)) 90000 (fun x => by
      have := length_flatMap_le (List.range 16384) (fun i => natBytes ((aget ((aget c.zs x).getD .reset).cells i).getD 0).toNat 5) 5
        (fun _ => by simp [natBytes])
      simp only [List.length_append, dblBytes_length, List.length_range, List.length_singleton] at this ⊢
      omega)
  rw [List.length_range] at this
  exact Nat.le_trans this (by decide)

/-- The entry that maps the lowest GiB, alone in the shared TLB of die 0. -/
def OnePage (s : State) : Prop := s.die0.stlb = [⟨0, 0, 2, 0x9F, 0x3000, []⟩]

theorem onePage_writeBackLine (s : State) (d : Bool) (l : Nat) (h : OnePage s) : OnePage (s.writeBackLine d l) := by
  unfold OnePage State.writeBackLine State.modDie at *
  cases d <;> exact h

theorem onePage_bringHome (s : State) (d : Bool) (l : Nat) (h : OnePage s) : OnePage (s.bringHome d l) := by
  unfold State.bringHome
  generalize s.covered d l = ls
  induction ls generalizing s with
  | nil => exact h
  | cons x r ih => exact ih _ (onePage_writeBackLine s d x h)

theorem onePage_homeWrite (s : State) (a : Nat) (bs : List Byte) (h : OnePage s) : OnePage (s.homeWrite a bs) :=
  onePage_bringHome _ _ _ (onePage_bringHome s _ _ h)

theorem onePage_homeOr (s : State) (a : Nat) (bs : List Byte) (h : OnePage s) : OnePage (s.homeOr a bs) :=
  onePage_bringHome _ _ _ (onePage_bringHome s _ _ h)

theorem onePage_setDirty (s : State) (va : Nat) (e : TlbEntry) (l : e.level = 2) (h : OnePage s) :
    OnePage (s.setDirty none 0 va e) := by
  simp only [State.setDirty, l]
  split
  · exact h
  · split
    · contradiction
    · split
      · exact onePage_homeOr _ _ _ h
      · exact h

theorem translate_onePage (s : State) (va : Nat) (h : OnePage s) (hv : va < 2 ^ 30) :
    ∃ u pa, s.translate false none 0 va accW (nd va) = .ok (u, pa) ∧ OnePage u := by
  have hit : TlbEntry.hits ⟨0, 0, 2, 0x9F, 0x3000, []⟩ 0 va = true := by
    have : va >>> 30 = 0 := by rw [Nat.shiftRight_eq_div_pow]; exact Nat.div_eq_of_lt hv
    simp [TlbEntry.hits, pageShift, this]
  have tlb : s.findTlb false none 0 va = some (s, ⟨0, 0, 2, 0x9F, 0x3000, []⟩) := by
    have : (s.die false).stlb = [⟨0, 0, 2, 0x9F, 0x3000, []⟩] := h
    simp only [State.findTlb, List.find?_nil, this, List.find?_cons, hit]
  have pa : s.mapped (TlbEntry.pa ⟨0, 0, 2, 0x9F, 0x3000, []⟩ va) = true := by
    have : va % 2 ^ 30 < 2 ^ 30 := Nat.mod_lt _ (by decide)
    have h0 : TlbEntry.pa ⟨0, 0, 2, 0x9F, 0x3000, []⟩ va = va % 2 ^ 30 := by
      simp [TlbEntry.pa, pageShift]
    rw [h0]
    simp only [State.mapped, Bool.or_eq_true, decide_eq_true_eq]
    left; left; omega
  refine ⟨s.setDirty none 0 va ⟨0, 0, 2, 0x9F, 0x3000, []⟩, TlbEntry.pa ⟨0, 0, 2, 0x9F, 0x3000, []⟩ va, ?_,
    onePage_setDirty s va _ rfl h⟩
  have low : ¬ (2 ^ 56 ≤ va || isWindow va) = true := by simp [isWindow]; omega
  unfold State.translate
  rw [if_neg low]
  unfold State.throughTables
  rw [tlb]
  simp only [accW, pa, Bool.not_true, Bool.false_eq_true, if_false, if_true]
  rfl

theorem writeImage_onePage (n : Nat) : ∀ (s : State) (va : Nat) (bs : List Byte), OnePage s → va + 64 * n ≤ 2 ^ 30 →
    (s.writeImage false 0 n va bs).2 = none := by
  induction n with
  | zero => intro s va bs _ _; rfl
  | succ n ih =>
    intro s va bs h hv
    obtain ⟨u, pa, hu, ho⟩ := translate_onePage s va h (by omega)
    simp only [State.writeImage, hu]
    split
    · rfl
    · exact ih _ _ _ (onePage_homeWrite _ _ _ ho) (by omega)

/-- A task on tile 0 with a request at its deadline. -/
def saving (f : TCtx → TCtx) : State :=
  ((pagedDie (fun c => f { c with task := some (task0 0) })).modTile 0 (fun x => { x with reqs := [⟨3, 0⟩] })).modDie false
    (fun x => { x with slots := [(0, slot0 (task0 0))] })

/-- What the small sections of an image take. -/
def smallSections (c : TCtx) : Nat :=
  (csrSection c).length + (walkSection c).length + (cqSection c).length + (pendSection c).length + (matrixSection c).length +
  (copySection c).length + (countersSection c).length

theorem imageWith_length (h : ImageHead) (q : TCtx) (whole hold : Bool) (cyc : Nat) (small : smallSections q ≤ 100000) :
    64 ≤ (imageWith h q whole hold cyc).length ∧ (imageWith h q whole hold cyc).length ≤ 0x300000 := by
  have hv := vregSection_length q
  have hz := zaccSection_length q
  have ht : (taskSection q cyc hold h.node).length ≤ 88 := by
    unfold taskSection
    split <;> simp [dblBytes_length, recDoubles]
  unfold smallSections at small
  simp only [imageWith, imageBody, sectionBytes, List.length_append, dblBytes_length, List.length_cons, List.length_nil,
    memBytes, List.length_map, List.length_range, apply_ite List.length] at hv hz ht small ⊢
  split <;> omega

theorem saving_image (f : TCtx → TCtx) (small : smallSections ((saving f).tc 0) ≤ 100000) (hold : Bool) (cyc : Nat) :
    let s := saving f
    let bs := s.imageBytes 0 0 (s.tc 0) false hold cyc (s.roleOf 0)
    (s.writeImage false 0 (bs.length / 64 + 1) 0 bs).2 = none := by
  intro s bs
  refine writeImage_onePage _ _ _ _ rfl ?_
  have : bs.length ≤ 0x300000 := (imageWith_length _ (s.tc 0) false hold cyc small).2
  omega

theorem wit_SaveResult :
    (let s := saving id
     (s.tc 0).task = some (task0 0) ∧ s.slot (dieOf 0) 0 = some (slot0 (task0 0)) ∧ (slot0 (task0 0)).wdraw = false ∧
     ((s.ctx 0).imgbase.toNat + ((if dieOf 0 then 2048 else 0) + 0) * 0x300000) % 2 ^ 64 = 0 ∧
     s.saveDue 0 = true ∧ s.stopForSave 0 = some s ∧ s.exchanging 0 = false ∧ (s.tile 0).stop ≠ .fenced ∧ s.taskRuns 0 = true ∧
     s.me.inh = false ∧ (s.tile 0).reqs ≠ [] ∧ (s.tile 0).records = [] ∧ (s.tile 0).spoiled = [] ∧ (s.tile 0).pend = false ∧
     Memory.wf s.mem = true ∧ (s.ctx 0).dbwin = 0) ∧
    (∀ a, a < 0x300000 → ((saving id).die (dieOf 0)).stlb.find? (·.hits (liveCtx ((saving id).tile 0)) a) =
      some ⟨0, 0, 2, 0x9F, 0x3000, []⟩) ∧
    (∀ hold cyc, let s := saving id
     let bs := s.imageBytes 0 (liveCtx (s.tile 0)) (s.tc 0) false hold cyc (s.roleOf 0)
     (s.writeImage (dieOf 0) (liveCtx (s.tile 0)) (bs.length / 64 + 1) 0 bs).2 = none) := by
  refine ⟨by decide +kernel, fun a h => ?_, fun hold cyc => saving_image id (by decide +kernel) hold cyc⟩
  have k : ((saving id).die (dieOf 0)).stlb = [⟨0, 0, 2, 0x9F, 0x3000, []⟩] := by decide +kernel
  have l : liveCtx ((saving id).tile 0) = 0 := by decide +kernel
  have m : a >>> 30 = 0 := by rw [Nat.shiftRight_eq_div_pow]; exact Nat.div_eq_of_lt (by omega)
  rw [k, l]
  simp [TlbEntry.hits, pageShift, m]

/-- The YIELD of the same task: the state after it is again one whose image fits. -/
theorem wit_SaveResult_yield :
    let f (c : TCtx) : TCtx := { c with c := { c.c with
      pc := 2
      count := 1 } }
    (saving id).cur = 0 ∧ (saving id).advance 0 .c 1 true = saving f ∧ (saving f).stopForSave 0 = some (saving f) ∧
    ((saving f).tile 0).spoiled = [] ∧ ∀ hold cyc, let s := saving f
     let bs := s.imageBytes 0 0 (s.tc 0) false hold cyc (s.roleOf 0)
     (s.writeImage false 0 (bs.length / 64 + 1) 0 bs).2 = none := by
  intro f
  refine ⟨by decide +kernel, by decide +kernel, by decide +kernel, by decide +kernel,
    fun hold cyc => saving_image f (by decide +kernel) hold cyc⟩

/-! ### Commands -/

/-- A tile with a stop, and one with a Sett. -/
def stopped (k : Stop) : State := (at0 id).modTile 0 (fun x => { x with stop := k })

/-- Context 31 is live on tile 5, its logical tile 127, which runs a task. -/
def mapped31 : State := ((State.reset.modCtx 31 (fun x => { x with tmap := [(127, 0x85)] })).modTile 5 (fun x => { x with
  live := some 31 })).modTc 5 (fun c => { c with task := some (task0 0) })

/-- A context image of no section, with a CRC-64 that is right or wrong, at 0x4000. -/
def imageHead (crc : Dbl) : List Byte := dblBytes [0x0001_0001_4B39_494D, 0, 0x1F0000, 0, 64, 0, 0, crc]

/-- The package with bytes at an address. -/
def holding (s : State) (a : Nat) (bs : List Byte) : State := { s with mem := memWrite s.mem a bs }

theorem wit_TileCommandResult :
    (128 ≤ (128#64).toNat ∧ 32 ≤ (32#64).toNat ∧ (31#64).toNat < 32 ∧ (0x8000#64).toNat % 0x8000 = 0) ∧
    ((0x8000000000000000#64 ++ 0#64 : BitVec 128).getLsbD 127 = true ∧ mapped31.mapTile 31 127 = some 5 ∧
      (mapped31.tile 5).live = some 31 ∧ (mapped31.tc 5).task = some (task0 0)) ∧
    ((127#64).toNat < 128 ∧ (0xFFFFFFFF#64).toNat < 2 ^ 32 ∧ (1#64).toNat < 2 ∧ mapped31.mapTile 31 126 = none) ∧
    ((127#64).toNat < 128 ∧ (∀ b, ((stopped (.abatal b)).tile 0).stop = .abatal b) ∧ (∀ b, ((stopped .none).tile 0).stop ≠ .abatal b) ∧
      (stopped .none).me.task = none ∧ ((stopped .fenced).tile 0).stop = .fenced ∧ ((stopped .none).tile 0).stop ≠ .fenced ∧
      (stopped .none).exchanging 0 = false ∧ ((stopped .none).tile 0).sett = none ∧ (0x1000#64).toNat % 4096 = 0 ∧
      (∀ k, k ∈ [Stop.abatal false, .abatal true, .fenced, .none] → ((stopped k).tile 0).records = [] ∧
        (((stopped k).modTile 0 (fun x => { x with held := some (true, plainBlock) })).tile 0).records ≠ [] ∧
        ((stopped k).modTc 0 (fun c => { c with task := some (task0 0) })).me.task ≠ none)) ∧
    (∀ b, (stopped (.exchanging b)).exchanging 0 = true) := by
  refine ⟨by decide, by decide +kernel, by decide +kernel,
    ⟨by decide, fun b => by cases b <;> decide, fun b => by cases b <;> decide, ?_⟩, fun b => by cases b <;> decide⟩
  decide +kernel

/-- A Sett of reset state goes out to 0x1000, and so does one whose image's CRC-64 does not match; a context image with a right and
with a wrong CRC-64 comes in. -/
theorem wit_TileCommandResult_settio :
    (∀ bad, bad = none ∨ bad = some [7] →
     let s := (stopped .none).modTile 0 (fun x => { x with sett := some (31, .reset, bad) })
     (s.tile 0).sett = some (31, .reset, bad) ∧ s.exchanging 0 = false ∧
     s.reaches (0x1000#64).toNat (s.settImage 0 .reset bad).length = true) ∧
    (let bs := imageHead (crc64 [])
     let s := holding (stopped .none) 0x4000 bs
     s.exchanging 0 = false ∧ s.reaches 0x4000 64 = true ∧ (s.physRead 0x4000 64).2 = bs ∧
     (ofBytes (bs.take 8)).extractLsb' 0 32 = 0x4B39494D#32 ∧ (ofBytes (bs.take 8)).getLsbD 48 = true ∧ (dblAt bs 4).toNat = 64 ∧
     (s.physRead 0x4000 64).1.reaches 0x4000 64 = true ∧ ((s.physRead 0x4000 64).1.physRead 0x4000 64).2 = bs ∧
     crc64 (bs.drop 64) = dblAt bs 7 ∧ imageOk bs = true) ∧
    (let bs := imageHead (crc64 [] + 1)
     let s := holding (stopped .none) 0x4000 bs
     (s.physRead 0x4000 64).2 = bs ∧ crc64 (bs.drop 64) ≠ dblAt bs 7) := by
  refine ⟨fun bad hb => ⟨?_, ?_, ?_⟩, by decide +kernel, by decide +kernel⟩
  · rcases hb with rfl | rfl <;> decide +kernel
  · rcases hb with rfl | rfl <;> decide +kernel
  rcases hb with rfl | rfl
  · have h : 64 ≤ (State.settImage ((stopped .none).modTile 0 (fun x => { x with sett := some (31, .reset, none) })) 0 .reset none).length ∧
        (State.settImage ((stopped .none).modTile 0 (fun x => { x with sett := some (31, .reset, none) })) 0 .reset none).length ≤
          0x300000 := by
      unfold State.settImage
      exact imageWith_length _ _ _ _ _ (by decide +kernel)
    generalize (State.settImage _ 0 .reset none).length = n at h ⊢
    have a : (0x1000#64).toNat = 4096 := rfl
    simp only [State.reaches, State.mapped, a, Bool.and_eq_true, Bool.or_eq_true, decide_eq_true_eq]
    omega
  · decide +kernel

/-- A task image of one section, its launch block, at 0x4000: the TASK section of 88 bytes. -/
def taskImage : List Byte :=
  let body := dblBytes [0x800000580001000C] ++ dblBytes [0, 0, 0] ++ recBytes plainBlock
  dblBytes [0x0002_0001_4B39_494D, 0, 127, 0, 160, 1, 0, crc64 body] ++ body

/-- Completion rings that are full and that have one place; islands and a die's queues. -/
theorem wit_PackageCommandResult :
    (let s : State := { State.reset with
       cpllog2 := 1
       cplprod := 2 }
     2 ^ s.cpllog2.toNat ≤ (s.cplprod - s.cplcons).toNat ∧ s.cplWait = none) ∧
    (let s : State := { State.reset with
       cpllog2 := 1
       cplprod := 1 }
     (s.cplprod - s.cplcons).toNat < 2 ^ s.cpllog2.toNat ∧ Memory.wf s.mem = true) ∧
    (32 ≤ (32#64).toNat ∧ 2 ≤ (2#64).toNat ∧ 20 ≤ (20#64).toNat ∧ 16 ≤ (16#64).toNat ∧ 1024 ≤ (1024#64).toNat ∧ (32#64).toNat % 64 ≠ 0) ∧
    (let s := holding (pagedDie id) 0x4000 taskImage
     let r := s.readImageAt false 0 0x4000
     r.2 = some taskImage ∧ imageOk taskImage = true ∧ (dblAt taskImage 0).getLsbD 48 = false ∧ (dblAt taskImage 0).getLsbD 49 = true ∧
     recOf (((bodyOf (readSections (fld (dblAt taskImage 5) 0 16) (taskImage.drop 64)) 12).drop 24).take 64) = plainBlock ∧
     blockOk plainBlock = true ∧ 256 < r.1.freeSlots (dieOf ((dblAt taskImage 2).extractLsb' 0 7)) ∧
     r.1.lowestFree (dieOf ((dblAt taskImage 2).extractLsb' 0 7)) = some 0) ∧
    ((pagedDie id).readImageAt false 0 0x40000000).2 = none ∧
    ((19#64).toNat < 20 ∧ (15#64).toNat < 16 ∧ (15#64).getLsbD 3 = true ∧ (7#64).getLsbD 3 = false ∧
      State.reset.islands.any (fun e => e.2.tstop) = false ∧ 18 = 18 + State.reset.primary.toNat ∧ (∀ i, i < 16 → i / 8 + 16 = 17 → (State.reset.island i).on = true) ∧
      ((∀ p : PTile, p.toNat / 8 = 15 → (State.reset.tile p).live.isSome = false ∧ (State.reset.tile p).sett.isSome = false) ∧
        ∀ i, i < 16 → i / 8 + 16 ≠ 15) ∧ ((at0 id).tile 0).live.isSome = true ∧
      (State.reset.islands ++ [(3, { (State.reset.island 3) with tstop := true })]).any (fun e => e.2.tstop) = true) ∧
    (State.reset.reaches 0x1000 3584 = true ∧ State.reset.reaches 0x00C000000000 3584 = false ∧ (0x1000#64).toNat % 64 = 0) := by
  decide +kernel

theorem wit_PackageCommandResult_rest :
    (let s := lastQueue (fun q => { q with res := false })
     (511#64).toNat < 1024 ∧ (s.queue false 511).valid = true ∧ (s.queue false 511).res = false ∧
     ((s.die false).queues.filter (fun e => e.2.valid && e.2.res)).length < 256) ∧
    (let s := (lastQueue (fun q => { q with res := false })).modDie false (fun x => { x with
       queues := (List.range 256).map (fun n => (n, { (x.queues.map (·.2)).headD .reset with res := true })) ++ x.queues })
     (s.queue false 511).valid = true ∧ (s.queue false 511).res = false ∧
     256 ≤ ((s.die false).queues.filter (fun e => e.2.valid && e.2.res)).length) ∧
    (let s := lastQueue (fun q => { q with
       recs := [plainBlock]
       tail := 8 })
     (s.queue false 511).res = true ∧ (s.queue false 511).rcap < (s.queue false 511).rcount + (s.queue false 511).recs.length) ∧
    (let s := lastQueue (fun q => { q with
       recs := [plainBlock]
       tail := 7 })
     let q := s.queue false 511
     q.res = true ∧ q.rcount + q.recs.length ≤ q.rcap ∧
     okWith (s.ringWrite false 511 (q.head - BitVec.ofNat 32 q.recs.length) q.recs) (fun _ => true) = true) ∧
    ((1#64).toNat < 2 ∧ (0#64).getLsbD 0 = State.reset.primary ∧ (1#64).getLsbD 0 ≠ State.reset.primary ∧
      (State.reset.island 19).on = true) ∧
    (∀ n, ({ State.reset.die0.migr with phase := n } : Migr).phase = n) ∧
    (∀ b, ({ State.reset with bootsrc := if b then 1 else 0 } : State).bootsrc.getLsbD 0 = b) ∧
    ((∀ p, (mapped31.tile p).live = some 31 → (mapped31.tile p).records = []) ∧ (mapped31.tile 5).live = some 31 ∧
      ((mapped31.modTile 5 (fun x => { x with held := some (true, plainBlock) })).tile 5).records ≠ []) ∧
    (State.reset.sensors.any (fun e => decide (100 < e.2.toNat)) = false ∧
      ({ State.reset with sensors := [(3, 101)] } : State).sensors.any (fun e => decide (100 < e.2.toNat)) = true) := by
  refine ⟨by decide +kernel, by decide +kernel, by decide +kernel, by decide +kernel, by decide +kernel, fun _ => rfl,
    fun b => by cases b <;> decide, by decide +kernel, by decide +kernel⟩

/-! ### Stores of a hart, and the machine as a whole -/

/-- Harts of each level of both dies; a primary whose HBEAT is old and young; free and taken entries; a map whose last logical
tile holds the context. -/
theorem wit_WindowResult :
    (∀ p : Priv, (⟨true, p⟩ : Hart).priv = p ∧ (⟨true, p⟩ : Hart).die ≠ State.reset.primary ∧ (⟨false, p⟩ : Hart).die = State.reset.primary) ∧
    (2#64).getLsbD 1 = true ∧ (1#64).getLsbD 1 = false ∧
    (∀ n, ((State.reset.modDie false (fun x => { x with hbAge := n })).die State.reset.primary).hbAge = n) ∧
    State.reset.cmdhead = State.reset.cmdtail ∧ ({ State.reset with cmdtail := 1 } : State).cmdhead ≠ 1 ∧ (4#32).toNat % 8 ≠ 0 ∧
    ((1#64).getLsbD 0 = true ∧ (mapped31.ctx 31).valid = false ∧ 127 < 128 ∧ mapped31.mapTile 31 127 = some 5 ∧
      (mapped31.tile 5).live = some 31 ∧ ((mapped31.modCtx 31 (fun x => { x with valid := true })).ctx 31).valid = true) ∧
    ((0x740#64).extractLsb' 6 2 = 1#2 ∧ (0x700#64).extractLsb' 6 2 ≠ 1#2 ∧ (State.reset.wvt 3 63).st = .free ∧
      (homeState.wvt 0 63).st ≠ .free) ∧
    ((0x8000#64).getLsbD 15 = true ∧ (0x800#64).getLsbD 15 = false ∧ (0x8000#64).getLsbD 11 = false ∧
      (State.reset.queue true 511).valid = false ∧ (State.reset.queue true 511).retired = false ∧
      (State.reset.queue true 511).gen ≠ 0xFFFF#16 ∧ ((lastQueue id).queue false 511).valid = true ∧
      ((lastQueue (fun q => { q with
        valid := false
        gen := 0xFFFF })).queue false 511).gen = 0xFFFF#16) ∧
    (State.reset.group true 255).valid = false ∧
    ((State.reset.queue true 511).valid = false ∧ (0x7FFF#64).getLsbD 15 = false ∧
      ((lastQueue (fun q => { q with valid := false, retired := true })).queue false 511).retired = true) ∧
    (∀ d : Bool, (State.reset.island (18 + d.toNat)).on = true ∧
      (({ State.reset with islands := [(18 + d.toNat, { (State.reset.island 18) with on := false })] } : State).island (18 + d.toNat)).on =
        false) ∧
    (∀ b, ((State.reset.modDie true (fun x => { x with heldReset := b })).die true).heldReset = b) := by
  refine ⟨fun p => ⟨rfl, (by decide : true ≠ State.reset.primary), rfl⟩, by decide, by decide, fun n => rfl, by decide +kernel, by decide +kernel,
    by decide, by decide +kernel, by decide +kernel, by decide +kernel, by decide +kernel, by decide +kernel,
    fun d => by cases d <;> decide +kernel, fun b => by cases b <;> decide⟩

/-- Of the same: an entry some member has arrived at, and one none has. -/
theorem wit_WindowResult_rewrite :
    (∀ b : Bool, let s := grouped (if b then 1 else 0) ⟨true, false, b, false, 0, none, false⟩
     (s.group false 0).valid = true ∧ (s.group false 0).members.getLsbD 0 = true ∧ (s.group false 0).arr.getLsbD 0 = b ∧
     (∀ m, s.memberHeld false 0 m = false) ∧ s.mapTile (s.group false 0).ctx 0 = some 0 ∧
     (s.tile 0).live = some (s.group false 0).ctx ∧ ((s.tc 0).gslot 0).names false 0 = true ∧
     (∀ m, m < 128 → m ≠ 0 → (s.group false 0).members.getLsbD m = false)) := by
  refine fun b => ⟨?_, ?_, ?_, wit_GroupResult_held b b, ?_, ?_, ?_, ?_⟩ <;> revert b <;> decide +kernel

/-- A member that waits at GWAIT with an arrival held for the next phase, which a rewrite to no member drops. -/
def droppedMember : State := (grouped 1 ⟨true, true, true, false, 0, none, false⟩).modTc 0 (fun c => { c with c := { c.c with
  walking := true
  waiting := true
  fetched := [0x09C0] } })

theorem wit_WindowResult_dropped :
    let s := droppedMember
    (s.group false 0).valid = true ∧ (s.group false 0).members.getLsbD 0 = true ∧ (0#64 ++ 0#64).getLsbD 0 = false ∧
    s.mapTile (s.group false 0).ctx 0 = some 0 ∧ (s.tile 0).live = some (s.group false 0).ctx ∧
    aget (s.tc 0).gslots 0 = some ⟨true, true, true, false, 0, none, false⟩ ∧
    (⟨true, true, true, false, 0, none, false⟩ : GSlot).names false 0 = true ∧ s.awaitedSlot 0 = some 0 := by
  decide +kernel

/-- R229, R237: the wait of a dropped member ends, and it is the failed release of the rewrite that ends it. -/
theorem test_dropped_member :
    (let y := ((droppedMember.rewriteGroup false 0 1 0 0).tc 0).gslot 0
     (y.arr, y.held, y.fail)) = (false, false, some true) := by
  decide +kernel

/-- Parcels of a task at 0x10000. -/
def placed (w : Nat) : State := State.reset.withFetchWord 64 w

/-- What stands first at the address of tile 0's engine, and the parcels that follow it. -/
def fetched (s : State) (e : Eng) : Option (Parcel × List Parcel) :=
  match s.fetchFirst 0 ((s.tc 0).eng e).pc with
  | .ok (s1, p) => match s1.fetchParcels 0 (p0Len p).toNat (((s.tc 0).eng e).pc + 2) with
    | .ok (_, ps) => some (p, ps)
    | .error _ => none
  | .error _ => none

/-- The package when the turn at the head of its schedule begins. -/
def begun (s : State) : State := { s with sched := [], fresh := s.fresh + 1, cur := 0 }

/-- LI, read by the control engine; a vector instruction, which it passes; and an encoding that is none. -/
theorem wit_StepRunsDecodedInstruction :
    (let s := placed 0x89ABCDEF228C
     s.sched = [.walk 0 .c] ∧ (begun s).mayWalk 0 .c = true ∧ (s.tc 0).slipped .c = false ∧ ((s.tc 0).eng .c).fetched = [] ∧
     someWith (fetched (begun s) .c) (fun q => decide (p0Eng q.1 = engCode .c ∧ (decode (q.1 :: q.2)).toOption = some (.li 3 0x89ABCDEF))) = true) ∧
    (let s : State := { placed 0x4000 with sched := [.walk 0 .c] }
     let u := s.modTc 0 (fun c => { c with c := { c.c with
       pc := 0x10000
       walking := true } })
     u.sched = [.walk 0 .c] ∧ (begun u).mayWalk 0 .c = true ∧ (u.tc 0).slipped .c = false ∧
     someWith (fetched (begun u) .c) (fun q => decide (meetingOf .c q.1 = .foreign)) = true) ∧
    (let s := (placed 0x89ABCDEF228C).modTc 0 (fun c => { c with c := { c.c with
       waiting := true
       fetched := [0x228C, 0xCDEF, 0x89AB] } })
     s.sched = [.walk 0 .c] ∧ (begun s).mayWalk 0 .c = true ∧ (s.tc 0).slipped .c = false ∧
     ((s.tc 0).eng .c).fetched = [0x228C, 0xCDEF, 0x89AB] ∧ p0Eng 0x228C = engCode .c ∧
     decode [0x228C, 0xCDEF, 0x89AB] = .ok (.li 3 0x89ABCDEF)) ∧
    (let s := placed 0x0E00
     (begun s).mayWalk 0 .c = true ∧
     someWith (fetched (begun s) .c) (fun q => decide (p0Eng q.1 = engCode .c) && (decode (q.1 :: q.2)).toOption.isNone) = true) := by
  decide +kernel

/-- A parcel fetched from memory; an event and a ck at the head of the schedule. -/
theorem wit_StepRunsDecodedInstruction_turns :
    (let s := placed 0x89ABCDEF228C
     (s.tile 0).text.find? (fun q => q.ctx = liveCtx (s.tile 0) && q.va = (0x10000#48).toNat) = none ∧
     okWith (s.locate 0 ((0x10000#48).setWidth 64) 2 accX) (fun p => decide (p.2 = .mem 0x10000) && !p.1.poison.contains (lineOf 0x10000) &&
       !p.1.poison.contains (lineOf 0x10001)) = true) ∧
    (let s : State := { State.reset with sched := [.event 5 .sliceBoundary] }
     s.sched = [.event 5 .sliceBoundary] ∧ isEvent .sliceBoundary = true ∧ (s.clockOf (.event 5 .sliceBoundary)).any s.frozen = false) ∧
    (let s : State := { State.reset with
       sched := [.event 0 (.queueSlotFill 5 0)]
       islands := [(0, { Island.reset with tstop := true })] }
     isEvent (.queueSlotFill 5 0) = true ∧ (s.clockOf (.event 0 (.queueSlotFill 5 0))).any s.frozen = true) ∧
    (let s : State := { State.reset with sched := [.ck] }
     s.sched = [.ck]) := by
  decide +kernel

/-- An UNFENCE at the head of the command ring, which its completion record answers. -/
theorem wit_StepRunsDecodedInstruction_serve :
    let s : State := { holding State.reset 0x1000 (recBytes ⟨0x500000006, 127, 0, 0, 0, 0, 0, 0⟩) with
      cmdbase := 0x1000
      cmdtail := 1
      sched := [.serve] }
    let s4 : State := { s with
      sched := []
      fresh := s.fresh + 1 }
    s.cmdhead ≠ s.cmdtail ∧ s.cplWait = none ∧ s.powWait = none ∧ s.settWait = none ∧
    decodeCommand (recOf (memBytes s.mem ((s.cmdbase.toNat % 2 ^ 52) / 64 * 64 + 64 * (s.cmdhead.toNat % 2 ^ s.cmdlog2.toNat)) 64)) =
      some (.unfence 5 127) ∧
    (match exec (.unfence 5 127) s4 with
      | .next s1 => decide (s1.cplprod ≠ s4.cplprod)
      | _ => false) = true := by
  decide +kernel

theorem wit_MemWfKept : let s : State := { State.reset with sched := [.ck] }
    s.MemWf ∧ ∃ t, step s = .next t := ⟨rfl, _, rfl⟩

/-! ### The algorithms of the public standards, by their published examples -/

/-- Bytes written as one number, the first the most significant. -/
def hex (n k : Nat) : List Byte := (natBytes n k).reverse

/-- FIPS 197, C.1. -/
theorem test_aes128 : aes (hex 0x000102030405060708090a0b0c0d0e0f 16) (hex 0x00112233445566778899aabbccddeeff 16) =
    hex 0x69c4e0d86a7b0430d8cdb78070b4c55a 16 := by decide +kernel

/-- RFC 4493, example 3: 40 bytes. -/
theorem test_cmac : cmac (BitVec.ofNat 128 (bytesNat (hex 0x2b7e151628aed2a6abf7158809cf4f3c 16)))
    (hex 0x6bc1bee22e409f96e93d7e117393172aae2d8a571e03ac9c9eb76fac45af8e5130c81c46a35ce411 40) =
    hex 0xdfa66747de9ae63030ca32611497c827 16 := by decide +kernel

/-- The GCM specification's test case 14. -/
theorem test_gcm : let x := gcmSeal 0 (List.replicate 12 0) [] (List.replicate 16 0)
    x.1 = hex 0xcea7403d4d606b6e074ec5d3baf39d18 16 ∧ natBytes x.2.toNat 16 = hex 0xd0d1c8a799996bf0265b98b5d48ab919 16 := by
  decide +kernel

theorem wit_SealedChunkOpens : gcmOpen 0 (List.replicate 12 0) [] (hex 0xcea7403d4d606b6e074ec5d3baf39d18 16)
    (BitVec.ofNat 128 (bytesNat (hex 0xd0d1c8a799996bf0265b98b5d48ab919 16))) = some (List.replicate 16 0) := by decide +kernel

/-- FIPS 180-4: "abc". -/
theorem test_sha512 : (sha512 [0x61, 0x62, 0x63]).take 16 = hex 0xddaf35a193617abacc417349ae204131 16 := by decide +kernel

/-- RFC 8032, 7.1, test 1. -/
theorem test_ed25519 : edVerify (hex 0xd75a980182b10ab7d54bfed3c964073a0ee172f3daa62325af021a68f707511a 32) []
    (hex 0xe5564300c360ac729086e2cc806e828a84877f1eb8e5d974d873e065224901555fb8821590a33bacc61e39701cf9b46bd25bf5f0595bbe24655141438e7a100b 64) =
    true := by decide +kernel

/-! ### One step on small states -/

/-- The queues that one instruction leaves, popped values gone. -/
def left (i : Instr) (s : State) (q : Nat) : Option (List Slot) :=
  match exec i s with
  | .next t => some ((aget t.me.qs q).getD [])
  | _ => none

/-- R112: sums wrap modulo 2^64. -/
theorem test_add_wraps : left (.add 3 1 2 false false) (qs0 [[0xFFFFFFFFFFFFFFFF], [2]]) 3 = some (filled [1]) := by decide +kernel

/-- R112: an operand peeked and then popped is popped once, and its difference with itself is 0. -/
theorem test_sub_peek : left (.sub 2 1 1 true false) (qs0 [[9, 5]]) 2 = some (filled [0]) ∧
    left (.sub 2 1 1 true false) (qs0 [[9, 5]]) 1 = some (filled [5]) := by decide +kernel

/-- R59: the quotient by zero is all ones, the remainder the dividend, with the dividend's sign otherwise. -/
theorem test_divide : left (.divu 3 1 2 false false) (qs0 [[7], [0]]) 3 = some (filled [0xFFFFFFFFFFFFFFFF]) ∧
    left (.rems 3 1 2 false false) (qs0 [[0xFFFFFFFFFFFFFFF9], [2]]) 3 = some (filled [0xFFFFFFFFFFFFFFFF]) := by decide +kernel

/-- The high half of the signed product of -1 and 2. -/
theorem test_mulh : left (.mulh 3 1 2 false false) (qs0 [[0xFFFFFFFFFFFFFFFF], [2]]) 3 = some (filled [0xFFFFFFFFFFFFFFFF]) := by
  decide +kernel

/-- R59: a shift amount counts modulo 64. -/
theorem test_shift : left (.sha 3 1 2 false false) (qs0 [[0x8000000000000000], [65]]) 3 = some (filled [0xC000000000000000]) := by
  decide +kernel

/-- R98: a source queue with too few slots traps QUNDER, and nothing is popped. -/
theorem test_short_queue_traps : left (.add 3 1 2 false false) (qs0 [[4]]) 1 = some (filled [4]) := by decide +kernel

/-- R118: B goes 2 × OFF bytes from its own address. -/
theorem test_branch_back : (match exec (.b 0 0xFFFE) (at0 (fun c => { c with c := { c.c with pc := 0x100 } })) with
    | .next t => some t.me.c.pc
    | _ => none) = some 0xFC := by decide +kernel

/-- R56: 1 + 2^-24 lies halfway and rounds to the even significand; with a little more it rounds up. -/
theorem test_round : (fadd 24 0 false (unpack false 0x3F800000) (unpack false 0x33800000)).bits = 0x3F800000 ∧
    (fadd 24 0 false (unpack false 0x3F800000) (unpack false 0x33800001)).bits = 0x3F800001 ∧
    (fadd 24 0 false (unpack false 0x3F800000) (unpack false 0x33800000)).fl = 1 := by decide +kernel

/-- R56: the largest number plus itself overflows to infinity. -/
theorem test_overflow : (fadd 24 0 false (unpack false 0x7F7FFFFF) (unpack false 0x7F7FFFFF)).bits = 0x7F800000 := by decide +kernel

/-- 1.5 times 2 plus -3 is +0, rounded to nearest. -/
theorem test_fma_zero : (ffma 24 0 false (unpack false 0x3FC00000) (unpack false 0x40000000) (unpack false 0xC0400000)).bits = 0 := by
  decide +kernel

/-- R321: CRC-64 with the ECMA polynomial, initial value 0 and no final inversion: its published value for "123456789". -/
theorem test_crc64 : crc64 [0x31, 0x32, 0x33, 0x34, 0x35, 0x36, 0x37, 0x38, 0x39] = 0x6C40DF5F0B497347 := by decide +kernel

/-- R345, R346: a cause that TDELEG gives the tile enters its handler, with the cause and the address of the instruction. -/
theorem test_trap_entry : (match exec .tret ((at0 (fun c => { c with
      tvec := 0x4000
      c := { c.c with pc := 0x100 } })).modCtx 0 (fun x => { x with tdeleg := 0 })) with
    | .next t => some (t.me.inh, t.me.tcause, t.me.tepc, t.me.c.pc)
    | _ => none) = some (true, 1, 0x100, 0x4000) := by decide +kernel

/-- R349: TRET gives up the text it was fetched from, and the control engine goes on at TEPC. -/
theorem test_tret_fetches_anew : (match exec .tret (at0 (fun c => { c with
      inh := true
      tepc := 0x200
      c := { c.c with fetched := [0x0F00] } })) with
    | .next t => some (t.me.inh, t.me.c.pc, t.me.c.fetched)
    | _ => none) = some (false, 0x200, []) := by decide +kernel

/-- R175: MLIT16 extends its sign. -/
theorem test_mlit16 : (match exec (.mlit16 0x8000) (stacked []) with
    | .next t => some t.me.mstack
    | _ => none) = some [0xFFFFFFFFFFFF8000] := by decide +kernel

/-- R176: MSUB takes the top from the entry below. -/
theorem test_msub : (match exec .msub (stacked [2, 5]) with
    | .next t => some t.me.mstack
    | _ => none) = some [3] := by decide +kernel

/-- R123: a write of mask register 0 is discarded. -/
theorem test_mask0 : (match exec (.vmclr 0) vecState with
    | .next t => decide (t.me.masks = vecState.me.masks)
    | _ => false) = true := by decide +kernel

end Sys2Proof.Tests
end

section
/-! SUPPORT. The words of the control class (R40–R43): what the fields of a first parcel and of the operand parcels read as, and
how the statements' shifted fields and the encoder's concatenations are one parcel. -/

namespace Sys2Proof

/-! ### Parcels as shifted fields -/

/-- A first parcel over `base` with D and KA (R42). -/
def unaryWord (base : Parcel) (d : BitVec 4) (ka : Bool) : Parcel := base ||| d.setWidth 16 <<< 2 ||| bit ka 16 <<< 1

/-- An operand parcel with the queue A over the fields `v` (R42). -/
def operandWord (a : BitVec 4) (v : Parcel) : Parcel := a.setWidth 16 <<< 12 ||| v

/-- What OP alone gives to the first parcel of a control instruction of two parcels (R34). -/
def controlBase (op : BitVec 6) : Parcel := 0x1000#16 ||| op.setWidth 16 <<< 6

theorem setWidth_bit (k : Bool) (n : Nat) (h : 0 < n) : (bit k 1).setWidth n = bit k n := by
  cases k with
  | false => simp [bit]
  | true =>
    apply BitVec.eq_of_toNat_eq
    simp [bit, Nat.one_mod_two_pow h]

theorem p0_control_eq (op : BitVec 6) (d : BitVec 4) (ka kb : Bool) :
    p0 0 1 op (d ++ bit ka 1 ++ bit kb 1) = unaryWord (controlBase op) d ka ||| bit kb 16 := by
  have hlow : (d ++ bit ka 1 ++ bit kb 1).setWidth 16 = d.setWidth 16 <<< 2 ||| bit ka 16 <<< 1 ||| bit kb 16 := by
    rw [BitVec.setWidth_append_append_eq_shiftLeft_setWidth_or, setWidth_bit ka 16 (by decide), setWidth_bit kb 16 (by decide)]
  have hword : p0 0 1 op (d ++ bit ka 1 ++ bit kb 1) = ((0#2 ++ 1#2 : BitVec 4) ++ op ++ (d ++ bit ka 1 ++ bit kb 1)).setWidth 16 :=
    (BitVec.setWidth_eq _).symm
  rw [hword, BitVec.setWidth_append_append_eq_shiftLeft_setWidth_or, hlow, unaryWord, controlBase]
  simp only [BitVec.or_assoc]
  rfl

/-- The same where KB is reserved. -/
theorem p0_unary_eq (op : BitVec 6) (d : BitVec 4) (ka : Bool) :
    p0 0 1 op (d ++ bit ka 1 ++ bit false 1) = unaryWord (controlBase op) d ka :=
  (p0_control_eq op d ka false).trans BitVec.or_zero

theorem queuesFunction_eq (a b : BitVec 4) (f : BitVec 8) :
    a ++ b ++ f = operandWord a (b.setWidth 16 <<< 8 ||| f.setWidth 16) := by
  have h := BitVec.setWidth_append_append_eq_shiftLeft_setWidth_or (b := a) (b' := b) (b'' := f) (w''' := 16)
  exact ((BitVec.setWidth_eq _).symm.trans h).trans (BitVec.or_assoc ..)

theorem queueImmediate_eq (a : BitVec 4) (i : BitVec 12) : a ++ i = operandWord a (i.setWidth 16) := by
  have h := BitVec.setWidth_append_eq_shiftLeft_setWidth_or (b := a) (b' := i) (w'' := 16)
  exact (BitVec.setWidth_eq _).symm.trans h

/-! ### Fields -/

section
variable (eng len : BitVec 2) (op low : BitVec 6)

@[simp] theorem p0Eng_p0 : p0Eng (p0 eng len op low) = eng := by
  simp only [p0Eng, p0, BitVec.extractLsb'_append_eq_ite]
  simp
@[simp] theorem p0Len_p0 : p0Len (p0 eng len op low) = len := by
  simp only [p0Len, p0, BitVec.extractLsb'_append_eq_ite]
  simp
@[simp] theorem p0Op_p0 : p0Op (p0 eng len op low) = op := by
  simp only [p0Op, p0, BitVec.extractLsb'_append_eq_ite]
  simp
end

section
variable (eng len : BitVec 2) (op : BitVec 6) (d : BitVec 4) (ka kb : Bool)

theorem p0_d : (p0 eng len op (d ++ bit ka 1 ++ bit kb 1)).extractLsb' 2 4 = d := by
  simp only [p0, BitVec.extractLsb'_append_eq_ite]
  simp
theorem p0_ka : (p0 eng len op (d ++ bit ka 1 ++ bit kb 1)).getLsbD 1 = ka := by
  simp only [p0, BitVec.getLsbD_append]
  cases ka <;> simp [bit]
theorem p0_kb : (p0 eng len op (d ++ bit ka 1 ++ bit kb 1)).getLsbD 0 = kb := by
  simp only [p0, BitVec.getLsbD_append]
  cases kb <;> simp [bit]
end

section
variable (a b : BitVec 4) (f : BitVec 8)

@[simp] theorem queuesFunction_a : (a ++ b ++ f : Parcel).extractLsb' 12 4 = a := by
  simp only [BitVec.extractLsb'_append_eq_ite]
  simp
@[simp] theorem queuesFunction_b : (a ++ b ++ f : Parcel).extractLsb' 8 4 = b := by
  simp only [BitVec.extractLsb'_append_eq_ite]
  simp
@[simp] theorem queuesFunction_f : (a ++ b ++ f : Parcel).extractLsb' 0 8 = f := by
  simp only [BitVec.extractLsb'_append_eq_ite]
  simp
end

/-! ### Decoding -/

/-- Two parcels whose first is of the control engine and of LEN 1 decode by the control map (R34). -/
theorem decode_control_two (op low : BitVec 6) (p1 : Parcel) (n : Nat) (h : op.toNat = n) :
    decode [p0 0 1 op low, p1] = decodeControl n (p0 0 1 op low) p1 0 := by
  simp [decode, decode3, h]

theorem len_two (op low : BitVec 6) (k : Except DecErr Instr) : len (p0 0 1 op low) 1 k = k := by simp [len]
@[simp] theorem rz_zero (p : Parcel) : rz p 0 = true := by simp [rz]

/-- A mask of `n` bits from bit `lo` on asks whether that field is zero. -/
theorem rz_field (p : Parcel) (lo n : Nat) : rz p ((2 ^ n - 1) <<< lo) = decide (p.extractLsb' lo n = 0#n) := by
  have hand : p.toNat &&& ((2 ^ n - 1) <<< lo) = (p.extractLsb' lo n).toNat <<< lo := by
    apply Nat.eq_of_testBit_eq
    intro k
    by_cases hk : lo ≤ k <;> simp [BitVec.extractLsb'_toNat, hk, Nat.testBit_shiftRight, Bool.and_comm]
  simp [rz, hand, BitVec.toNat_eq]

theorem rz_p0_kb (op : BitVec 6) (d : BitVec 4) (ka kb : Bool) :
    rz (p0 0 1 op (d ++ bit ka 1 ++ bit kb 1)) 0x1 = !kb := by
  have hlow : (p0 0 1 op (d ++ bit ka 1 ++ bit kb 1)).extractLsb' 0 1 = bit kb 1 := by
    simp only [p0, BitVec.extractLsb'_append_eq_ite]
    simp
  refine (rz_field _ 0 1).trans ?_
  rw [hlow]
  cases kb <;> rfl

@[simp] theorem rz_queuesFunction_b (a b : BitVec 4) (f : BitVec 8) : rz (a ++ b ++ f) 0xf00 = decide (b = 0#4) := by
  rw [show (0xf00 : Nat) = (2 ^ 4 - 1) <<< 8 from rfl, rz_field, queuesFunction_b]

theorem chk_of_wellFormed {i : Instr} (h : wellFormed i = true) (c : Bool) :
    chk c i = if c then .ok i else .error .reservedBit := by
  simp [chk, h]

/-- The ALU family by F (R112). -/
def aluTable (d a b : BitVec 4) (ka kb : Bool) : List (BitVec 8 × Instr) :=
  [(0x00, .add d a b ka kb), (0x01, .sub d a b ka kb), (0x02, .mul d a b ka kb),
   (0x03, .mulh d a b ka kb), (0x04, .mulhu d a b ka kb), (0x05, .divs d a b ka kb), (0x06, .divu d a b ka kb),
   (0x07, .rems d a b ka kb), (0x08, .remu d a b ka kb), (0x10, .and d a b ka kb), (0x11, .or d a b ka kb),
   (0x12, .xor d a b ka kb), (0x18, .shl d a b ka kb), (0x19, .shr d a b ka kb), (0x1A, .sha d a b ka kb),
   (0x20, .min d a b ka kb), (0x21, .max d a b ka kb), (0x22, .minu d a b ka kb), (0x23, .maxu d a b ka kb)]

theorem encode_alu (d a b : BitVec 4) (ka kb : Bool) : ∀ p ∈ aluTable d a b ka kb,
    encode p.2 = [p0 0 1 0x1 (d ++ bit ka 1 ++ bit kb 1), a ++ b ++ p.1] :=
  List.map_inj_left.1 rfl

theorem aluTable_find (d a b : BitVec 4) (ka kb : Bool) : ∀ p ∈ aluTable d a b ka kb,
    (aluTable d a b ka kb).find? (fun q => q.1.toNat = p.1.toNat) = some p :=
  List.map_inj_left.1 rfl

theorem aluTable_find_none (d a b : BitVec 4) (ka kb : Bool) (f : BitVec 8) (h : f ∉ (aluTable d a b ka kb).map (·.1)) :
    (aluTable d a b ka kb).find? (fun q => q.1.toNat = f.toNat) = none := by
  refine List.find?_eq_none.2 fun q hq hf => h (List.mem_map.2 ⟨q, hq, ?_⟩)
  exact BitVec.eq_of_toNat_eq (of_decide_eq_true hf)

/-- The decoder reads F off the family's table, and refuses any other. -/
theorem decode_alu (d a b : BitVec 4) (ka kb : Bool) (f : BitVec 8) :
    decode [p0 0 1 0x1 (d ++ bit ka 1 ++ bit kb 1), a ++ b ++ f] =
      match (aluTable d a b ka kb).find? (fun q => q.1.toNat = f.toNat) with
      | some p => .ok p.2
      | none => .error .refused := by
  rw [decode_control_two 1 _ _ 1 rfl]
  simp only [decodeControl, len_two, queuesFunction_f, queuesFunction_a, queuesFunction_b, p0_d, p0_ka, p0_kb, rz_zero,
    Bool.and_true]
  -- A listed F gives its row by evaluation; past the last arm no row has F.
  generalize f.toNat = n
  split
  case h_20 =>
    have hnone : (aluTable d a b ka kb).find? (fun q => q.1.toNat = n) = none := by
      simp only [imp_false] at *
      simp [aluTable]
      omega
    rw [hnone]
  all_goals rfl

/-- The family's words as R112 writes them. -/
theorem alu_words (d a b : BitVec 4) (ka kb : Bool) (f : BitVec 8) :
    [p0 0 1 0x1 (d ++ bit ka 1 ++ bit kb 1), a ++ b ++ f] =
      [unaryWord 0x1040 d ka ||| bit kb 16, a.setWidth 16 <<< 12 ||| b.setWidth 16 <<< 8 ||| f.setWidth 16] := by
  have hbase : controlBase 0x1 = 0x1040 := by decide
  rw [p0_control_eq, queuesFunction_eq, hbase, operandWord, BitVec.or_assoc (a.setWidth 16 <<< 12)]

theorem alu_word_roundTrip (d a b : BitVec 4) (ka kb : Bool) : ∀ p ∈ aluTable d a b ka kb,
    encode p.2 = [unaryWord 0x1040 d ka ||| bit kb 16, a.setWidth 16 <<< 12 ||| b.setWidth 16 <<< 8 ||| p.1.setWidth 16] ∧
    decode [unaryWord 0x1040 d ka ||| bit kb 16, a.setWidth 16 <<< 12 ||| b.setWidth 16 <<< 8 ||| p.1.setWidth 16] =
      .ok p.2 := by
  intro p hp
  rw [← alu_words, encode_alu d a b ka kb p hp, decode_alu, aluTable_find d a b ka kb p hp]
  exact ⟨rfl, rfl⟩

/-- Any other F is ILLEGAL (R112). -/
theorem decode_alu_unlisted (d a b : BitVec 4) (ka kb : Bool) (f : BitVec 8) (h : f ∉ (aluTable d a b ka kb).map (·.1)) :
    decode [unaryWord 0x1040 d ka ||| bit kb 16, a.setWidth 16 <<< 12 ||| b.setWidth 16 <<< 8 ||| f.setWidth 16] =
      .error .refused := by
  rw [← alu_words, decode_alu, aluTable_find_none d a b ka kb f h]

/-- The unary family: F is the place in the list (R114). -/
def unaryTable (d a : BitVec 4) (ka : Bool) : List Instr :=
  [.mov d a ka, .neg d a ka, .not d a ka, .clz d a ka, .popc d a ka, .sextb d a ka, .sexth d a ka, .sextw d a ka,
   .zextb d a ka, .zexth d a ka, .zextw d a ka]

theorem encode_unary (d a : BitVec 4) (ka : Bool) : ∀ p ∈ (unaryTable d a ka).zipIdx,
    encode p.1 = [p0 0 1 0x2 (d ++ bit ka 1 ++ bit false 1), a ++ 0#4 ++ BitVec.ofNat 8 p.2] :=
  List.map_inj_left.1 rfl

/-- The decoder reads F off the family's list, where KB and B are zero, and refuses any other. -/
theorem decode_unary (d a b : BitVec 4) (ka kb : Bool) (f : BitVec 8) :
    decode [p0 0 1 0x2 (d ++ bit ka 1 ++ bit kb 1), a ++ b ++ f] =
      match (unaryTable d a ka)[f.toNat]? with
      | some i => if !kb && b = 0#4 then .ok i else .error .reservedBit
      | none => .error .refused := by
  rw [decode_control_two 2 _ _ 2 rfl]
  simp only [decodeControl, len_two, queuesFunction_f, queuesFunction_a, p0_d, p0_ka, rz_zero, rz_p0_kb, rz_queuesFunction_b,
    Bool.and_true]
  generalize f.toNat = n
  split
  case h_12 =>
    have hnone : (unaryTable d a ka)[n]? = none := by
      simp only [imp_false] at *
      simp [unaryTable]
      omega
    rw [hnone]
  all_goals rfl

section
variable (a : BitVec 4) (i : BitVec 12)

@[simp] theorem queueImmediate_a : (a ++ i : Parcel).extractLsb' 12 4 = a := by
  simp only [BitVec.extractLsb'_append_eq_ite]
  simp
@[simp] theorem queueImmediate_i : (a ++ i : Parcel).extractLsb' 0 12 = i := by
  simp only [BitVec.extractLsb'_append_eq_ite]
  simp
@[simp] theorem queueImmediate_amount : (a ++ i : Parcel).extractLsb' 0 6 = i.extractLsb' 0 6 := by
  simp only [BitVec.extractLsb'_append_eq_ite]
  simp
@[simp] theorem rz_queueImmediate : rz (a ++ i) 0xfc0 = decide (i.extractLsb' 6 6 = 0#6) := by
  have hfield : (a ++ i : Parcel).extractLsb' 6 6 = i.extractLsb' 6 6 := by
    simp only [BitVec.extractLsb'_append_eq_ite]
    simp
  rw [show (0xfc0 : Nat) = (2 ^ 6 - 1) <<< 6 from rfl, rz_field, hfield]

end

/-- The immediate forms that take IMM12 whole, by OP (R113). -/
def immediateTable (d a : BitVec 4) (ka : Bool) (i : BitVec 12) : List (BitVec 6 × Instr) :=
  [(0x3, .addi d a ka i), (0x4, .andi d a ka i), (0x5, .ori d a ka i), (0x6, .xori d a ka i)]

theorem encode_immediate (d a : BitVec 4) (ka : Bool) (i : BitVec 12) : ∀ p ∈ immediateTable d a ka i,
    encode p.2 = [p0 0 1 p.1 (d ++ bit ka 1 ++ bit false 1), a ++ i] :=
  List.map_inj_left.1 rfl

theorem decode_immediate (d a : BitVec 4) (ka : Bool) (i : BitVec 12) : ∀ p ∈ immediateTable d a ka i,
    decode [p0 0 1 p.1 (d ++ bit ka 1 ++ bit false 1), a ++ i] = .ok p.2 := by
  intro p hp
  rw [decode_control_two _ _ _ _ rfl]
  fin_cases hp <;>
  · simp only [BitVec.reduceToNat, decodeControl, len_two, p0_d, p0_ka, rz_zero, rz_p0_kb, queueImmediate_a, queueImmediate_i]
    rfl

/-- The shift forms, by OP (R113). -/
def shiftTable (d a : BitVec 4) (ka : Bool) : List (BitVec 6 × (BitVec 6 → Instr)) :=
  [(0x7, .shli d a ka), (0x8, .shri d a ka), (0x9, .shai d a ka)]

theorem encode_shift (d a : BitVec 4) (ka : Bool) (sh : BitVec 6) : ∀ p ∈ shiftTable d a ka,
    encode (p.2 sh) = [p0 0 1 p.1 (d ++ bit ka 1 ++ bit false 1), a ++ (0#6 ++ sh : BitVec 12)] := by
  have hassoc : a ++ 0#6 ++ sh = a ++ (0#6 ++ sh : BitVec 12) := BitVec.append_assoc
  rw [← hassoc]
  exact List.map_inj_left.1 rfl

theorem decode_shift (d a : BitVec 4) (ka : Bool) (i : BitVec 12) : ∀ p ∈ shiftTable d a ka,
    decode [p0 0 1 p.1 (d ++ bit ka 1 ++ bit false 1), a ++ i] =
      if i.extractLsb' 6 6 = 0#6 then .ok (p.2 (i.extractLsb' 0 6)) else .error .reservedBit := by
  intro p hp
  rw [decode_control_two _ _ _ _ rfl]
  fin_cases hp <;>
  · simp only [BitVec.reduceToNat, decodeControl, len_two, p0_d, p0_ka, rz_zero, rz_p0_kb, queueImmediate_a, queueImmediate_amount,
      rz_queueImmediate, Bool.and_true]
    exact (chk_of_wellFormed rfl _).trans (by simp)

/-! ### The words of the immediate forms and the unary family -/

section
variable (d a : BitVec 4) (ka : Bool) (i : BitVec 12) (sh : BitVec 6)

theorem immediateTable_words : (immediateTable d a ka i).map (fun q => (controlBase q.1, q.2)) =
    [(0x10C0, .addi d a ka i), (0x1100, .andi d a ka i), (0x1140, .ori d a ka i), (0x1180, .xori d a ka i)] := by
  simp [immediateTable, controlBase]

theorem shiftTable_words : (shiftTable d a ka).map (fun q => (controlBase q.1, q.2 sh)) =
    [(0x11C0, .shli d a ka sh), (0x1200, .shri d a ka sh), (0x1240, .shai d a ka sh)] := by
  simp [shiftTable, controlBase]

theorem immediate_word_roundTrip : ∀ p ∈ (immediateTable d a ka i).map (fun q => (controlBase q.1, q.2)),
    encode p.2 = [unaryWord p.1 d ka, operandWord a (i.setWidth 16)] ∧ decode (encode p.2) = .ok p.2 := by
  intro p hp
  obtain ⟨q, hq, rfl⟩ := List.mem_map.1 hp
  rw [encode_immediate d a ka i q hq]
  exact ⟨by rw [p0_unary_eq, queueImmediate_eq], decode_immediate d a ka i q hq⟩

/-- A shift amount of 6 bits decodes back, and an IMM12 with a bit above them is refused (R113). -/
theorem shift_word_roundTrip : ∀ p ∈ (shiftTable d a ka).map (fun q => (controlBase q.1, q.2 sh)),
    encode p.2 = [unaryWord p.1 d ka, operandWord a (sh.setWidth 16)] ∧ decode (encode p.2) = .ok p.2 ∧
      (i.extractLsb' 6 6 ≠ 0#6 → ∃ e, decode [unaryWord p.1 d ka, operandWord a (i.setWidth 16)] = .error e) := by
  intro p hp
  obtain ⟨q, hq, rfl⟩ := List.mem_map.1 hp
  have hsh : (0#6 ++ sh : BitVec 12).setWidth 16 = sh.setWidth 16 := by
    rw [BitVec.setWidth_append_eq_shiftLeft_setWidth_or]
    simp
  rw [encode_shift d a ka sh q hq]
  refine ⟨by rw [p0_unary_eq, queueImmediate_eq, hsh], ?_, fun hi => ⟨.reservedBit, ?_⟩⟩
  · rw [decode_shift d a ka _ q hq, BitVec.extractLsb'_append_eq_left, BitVec.extractLsb'_append_eq_right]
    rfl
  · rw [← p0_unary_eq, ← queueImmediate_eq, decode_shift d a ka i q hq, if_neg hi]

end

section
variable (d a : BitVec 4) (ka : Bool)

theorem unary_words (f : BitVec 8) : [p0 0 1 0x2 (d ++ bit ka 1 ++ bit false 1), a ++ 0#4 ++ f] =
    [unaryWord 0x1080 d ka, operandWord a (f.setWidth 16)] := by
  have hbase : controlBase 0x2 = 0x1080 := by decide
  rw [p0_unary_eq, queuesFunction_eq, hbase]
  simp

theorem unary_word_roundTrip : ∀ p ∈ (unaryTable d a ka).zipIdx,
    encode p.1 = [unaryWord 0x1080 d ka, operandWord a (BitVec.ofNat 16 p.2)] ∧ decode (encode p.1) = .ok p.1 := by
  intro p hp
  have hget : (unaryTable d a ka)[p.2]? = some p.1 := List.mem_zipIdx_iff_getElem?.1 hp
  have hlt : p.2 < 11 := (List.getElem?_eq_some_iff.1 hget).1
  have hf : (BitVec.ofNat 8 p.2).toNat = p.2 := by
    rw [BitVec.toNat_ofNat]
    omega
  have hwide : (BitVec.ofNat 8 p.2).setWidth 16 = BitVec.ofNat 16 p.2 := by
    apply BitVec.eq_of_toNat_eq
    rw [BitVec.toNat_setWidth, hf, BitVec.toNat_ofNat]
  rw [encode_unary d a ka p hp]
  refine ⟨by rw [unary_words, hwide], ?_⟩
  rw [decode_unary, hf, hget]
  rfl

/-- An F past the list's end is refused (R114). -/
theorem decode_unary_unlisted (f : BitVec 8) (hf : 0x0A < f.toNat) :
    decode [unaryWord 0x1080 d ka, operandWord a (f.setWidth 16)] = .error .refused := by
  have hget : (unaryTable d a ka)[f.toNat]? = none := List.getElem?_eq_none hf
  rw [← unary_words, decode_unary, hget]

/-- KB and B are reserved in the unary family (R114). -/
theorem decode_unary_reserved (kb : Bool) (b : BitVec 4) (f : BitVec 8) (h : kb = true ∨ b ≠ 0) :
    ∃ e, decode [unaryWord 0x1080 d ka ||| bit kb 16, operandWord a (b.setWidth 16 <<< 8 ||| f.setWidth 16)] = .error e := by
  have hbase : controlBase 0x2 = 0x1080 := by decide
  have hzero : (!kb && decide (b = 0#4)) = false := by
    rcases h with rfl | hb
    · rfl
    · simpa using fun _ => hb
  rw [← hbase, ← p0_control_eq, ← queuesFunction_eq, decode_unary]
  cases (unaryTable d a ka)[f.toNat]? with
  | none => exact ⟨.refused, rfl⟩
  | some i => exact ⟨.reservedBit, by simp only [hzero]; rfl⟩

end

end Sys2Proof
end

section
/-! SUPPORT. What the arithmetic of the control engine (R59) is in the library's own operations. -/

namespace Sys2Proof.Machine

/-! ### The shapes of instructions that compute -/

/-- An instruction that computes, whose sources are there and whose destination has room (R112–R115). -/
theorem State.finishTc_compute {s : State} {rs : List Src} {d : BitVec 4} {vs : List Dbl} (hr : s.Reads rs vs)
    (hw : s.Room rs [d]) (n : Nat) (f : List Dbl → Dbl) :
    s.finishTc .c n ((s.tc s.cur).compute rs d f) = s.pushes n rs d (f vs) := by
  rw [TCtx.compute_ok _ _ _ _ _ hr hw]
  rfl

/-- The ALU family (R112). -/
theorem State.alu_ok {s : State} {d a b : BitVec 4} {ka kb : Bool} {x y : Dbl} (hr : s.Reads [(a, ka), (b, kb)] [x, y])
    (hw : s.Room [(a, ka), (b, kb)] [d]) (f : Dbl → Dbl → Dbl) :
    s.alu d a b ka kb f = s.pushes 2 [(a, ka), (b, kb)] d (f x y) :=
  State.finishTc_compute hr hw 2 _

/-- The forms of one source (R113–R115). -/
theorem State.unaryN_ok {s : State} {d a : BitVec 4} {ka : Bool} {x : Dbl} (hr : s.Reads [(a, ka)] [x])
    (hw : s.Room [(a, ka)] [d]) (n : Nat) (f : Dbl → Dbl) :
    s.unaryN n d a ka f = s.pushes n [(a, ka)] d (f x) :=
  State.finishTc_compute hr hw n _

/-- The four divisions, by the model's own quotients and remainders (R59, R112). -/
theorem exec_division {s : State} {d a b : BitVec 4} {ka kb : Bool} {x y : Dbl} (hr : s.Reads [(a, ka), (b, kb)] [x, y])
    (hw : s.Room [(a, ka), (b, kb)] [d]) :
    let out (v : Dbl) : Out := s.pushes 2 [(a, ka), (b, kb)] d v
    exec (.divs d a b ka kb) s = out (divS x y) ∧ exec (.divu d a b ka kb) s = out (divU x y) ∧
    exec (.rems d a b ka kb) s = out (remS x y) ∧ exec (.remu d a b ka kb) s = out (remU x y) := by
  intro out
  show execDivs d a b ka kb s = _ ∧ execDivu d a b ka kb s = _ ∧ execRems d a b ka kb s = _ ∧ execRemu d a b ka kb s = _
  have h (f : Dbl → Dbl → Dbl) : s.alu d a b ka kb f = out (f x y) := State.alu_ok hr hw f
  exact ⟨h _, h _, h _, h _⟩

/-- A queue peeked by the first read gives its head to both (R23, R98). -/
theorem TCtx.readQ_peek_pop {c : TCtx} {a : BitVec 4} {x : Dbl} (h : (c.q a).head? = some (.filled x)) :
    c.readQ [(a, true), (a, false)] = .ok [x, x] := by
  obtain ⟨rest, hq⟩ := List.head?_eq_some_iff.1 h
  simp [TCtx.readQ, readPlaces, taken, hq]

/-- A queue of fewer than 4 slots has room whatever the instruction pops (R99). -/
theorem TCtx.roomQ_of_lt {c : TCtx} {d : BitVec 4} (rs : List Src) (h : (c.q d).length < 4) : c.roomQ rs [d] = .ok () := by
  have hfits : ¬ 4 < (c.q d).length - taken rs d + 1 := by omega
  simp [TCtx.roomQ, hfits]

/-! ### Values -/

theorem ite_slt_smaller (x y : Dbl) : (if y.slt x then y else x) = if x.toInt ≤ y.toInt then x else y := by
  simp only [BitVec.slt_iff_toInt_lt, ← Int.not_le, ite_not]

theorem ite_slt_larger (x y : Dbl) : (if x.slt y then y else x) = if x.toInt ≤ y.toInt then y else x := by
  simp only [BitVec.slt_iff_toInt_lt]
  rcases Int.lt_trichotomy x.toInt y.toInt with h | h | h
  · simp [h, Int.le_of_lt h]
  · simp [BitVec.eq_of_toInt_eq h]
  · simp [Int.not_lt.2 (Int.le_of_lt h), Int.not_le.2 h]

theorem ite_ult_smaller (x y : Dbl) : (if y.ult x then y else x) = if x.toNat ≤ y.toNat then x else y := by
  simp only [BitVec.ult_iff_toNat_lt, ← Nat.not_le, ite_not]

theorem ite_ult_larger (x y : Dbl) : (if x.ult y then y else x) = if x.toNat ≤ y.toNat then y else x := by
  simp only [BitVec.ult_iff_toNat_lt]
  rcases Nat.lt_trichotomy x.toNat y.toNat with h | h | h
  · simp [h, Nat.le_of_lt h]
  · simp [BitVec.eq_of_toNat_eq h]
  · simp [Nat.not_lt.2 (Nat.le_of_lt h), Nat.not_le.2 h]

/-- The leading zeros of a number other than 0 are those above its highest one bit. -/
theorem clzNat_of_ne_zero (x : Dbl) (h : x ≠ 0) : clzNat x = 63 - x.toNat.log2 := by
  have hne : x.toNat ≠ 0 := by simpa [BitVec.toNat_eq] using h
  have hlog : x.toNat.log2 < 64 := (Nat.log2_lt hne).2 x.isLt
  have hfind : (List.range 64).find? (fun i => x.getLsbD (63 - i)) = some (63 - x.toNat.log2) := by
    rw [List.find?_range_eq_some]
    refine ⟨?_, by simp; omega, ?_⟩
    · have hplace : 63 - (63 - x.toNat.log2) = x.toNat.log2 := by omega
      rw [hplace]
      exact Nat.testBit_log2 hne
    · intro j hj
      have hbelow : x.toNat < 2 ^ (63 - j) := (Nat.log2_lt hne).1 (by omega)
      simp [BitVec.getLsbD, Nat.testBit_lt_two_pow hbelow]
  rw [clzNat, hfind]
  rfl

theorem ofNat_clzNat (x : Dbl) : BitVec.ofNat 64 (clzNat x) = if x = 0 then 64 else BitVec.ofNat 64 (63 - x.toNat.log2) := by
  split
  case isTrue h =>
    subst h
    decide
  case isFalse h => rw [clzNat_of_ne_zero x h]

theorem popCount_eq (x : Dbl) : popCount x = (List.range 64).countP (fun k => x.getLsbD k) := by
  rw [popCount, List.countP_eq_length_filter]

theorem sext_eq (x : Dbl) (n : Nat) : sext x n = (x.setWidth n).signExtend 64 := by
  rw [sext, BitVec.ofNat_toNat]
  rfl

/-- The low `n` bits, as a remainder and under a mask (R33). -/
theorem zext_eq_and (x : Dbl) (n : Nat) (h : n ≤ 64) : zext x n = x &&& BitVec.ofNat 64 (2 ^ n - 1) := by
  apply BitVec.eq_of_toNat_eq
  have hpow : 2 ^ n ≤ 2 ^ 64 := Nat.pow_le_pow_right (by decide) h
  have hmask : (2 ^ n - 1) % 2 ^ 64 = 2 ^ n - 1 := Nat.mod_eq_of_lt (by have := Nat.two_pow_pos n; omega)
  rw [BitVec.toNat_and, BitVec.toNat_ofNat, hmask, Nat.and_two_pow_sub_one_eq_mod, zext, BitVec.toNat_ofNat]
  exact Nat.mod_eq_of_lt (Nat.lt_of_le_of_lt (Nat.mod_le _ _) x.isLt)

/-- A literal over the low half of a double (R115). -/
theorem append_eq_or (v : BitVec 32) (x : Dbl) : v ++ x.setWidth 32 = (v.setWidth 64 <<< 32) ||| (x &&& 0xFFFFFFFF) := by
  have hlow : (x.setWidth 32).setWidth 64 = x &&& 0xFFFFFFFF := by
    refine Eq.trans ?_ (zext_eq_and x 32 (by decide))
    apply BitVec.eq_of_toNat_eq
    simp [zext]
  have happend := BitVec.setWidth_append_eq_shiftLeft_setWidth_or (b := v) (b' := x.setWidth 32) (w'' := 64)
  rw [hlow] at happend
  exact (BitVec.setWidth_eq _).symm.trans happend

end Sys2Proof.Machine
end

section
/-! PROOFS. O5 and O6: each result is the shape of its family with the value's own lemma; encodings and refusals are read off the
family's table. -/

open Sys2Proof Sys2Proof.Machine

/-- Settles O5, family by family: the shape of the ALU family gives every result, and `decode_alu` every word. -/
theorem arithmeticResult : Obligations.ArithmeticResult := by
  refine ⟨?_, fun s d a b ka kb x y => ⟨?_, ?_, ?_, ?_, ?_⟩⟩
  · intro s d a b ka kb x y hr hw out sh
    show execAdd d a b ka kb s = _ ∧ execSub d a b ka kb s = _ ∧ execMul d a b ka kb s = _ ∧ execMulh d a b ka kb s = _ ∧
      execMulhu d a b ka kb s = _ ∧ execAnd d a b ka kb s = _ ∧ execOr d a b ka kb s = _ ∧ execXor d a b ka kb s = _ ∧
      execShl d a b ka kb s = _ ∧ execShr d a b ka kb s = _ ∧ execSha d a b ka kb s = _ ∧ execMin d a b ka kb s = _ ∧
      execMax d a b ka kb s = _ ∧ execMinu d a b ka kb s = _ ∧ execMaxu d a b ka kb s = _
    rw [← ite_slt_smaller, ← ite_slt_larger, ← ite_ult_smaller, ← ite_ult_larger]
    have h (f : Dbl → Dbl → Dbl) : s.alu d a b ka kb f = out (f x y) := State.alu_ok hr hw f
    exact ⟨h _, h _, h _, h _, h _, h _, h _, h _, h _, h _, h _, h _, h _, h _, h _⟩
  · intro hr hw hy
    simpa only [divS, divU, remS, remU, if_neg hy] using exec_division hr hw
  · intro hr hw hy
    have hones : BitVec.allOnes 64 = 0xFFFFFFFFFFFFFFFF#64 := rfl
    simpa only [divS, divU, remS, remU, if_pos hy, hones] using exec_division hr hw
  · rintro hr hw rfl rfl
    obtain ⟨hdiv, -, hrem, -⟩ := exec_division hr hw
    exact ⟨hdiv, hrem⟩
  · exact ⟨alu_word_roundTrip d a b ka kb, fun f hf => ⟨.refused, decode_alu_unlisted d a b ka kb f hf⟩⟩
  · intro hhead hlen
    have hr : s.Reads [(1, true), (1, false)] [x, x] := TCtx.readQ_peek_pop hhead
    have hw : s.Room [(1, true), (1, false)] [2] := TCtx.roomQ_of_lt _ hlen
    show execSub 2 1 1 true false s = _
    exact (State.alu_ok hr hw _).trans (congrArg _ (BitVec.sub_self x))

/-- Settles O6, as O5: the shape of one source gives every result, and the tables of the forms every word. -/
theorem unaryAndLiteralResult : Obligations.UnaryAndLiteralResult := by
  intro s d a ka x i sh imm
  refine ⟨?_, ⟨?_, ?_, unary_word_roundTrip d a ka, fun f hf => ⟨.refused, decode_unary_unlisted d a ka f hf⟩,
    decode_unary_reserved d a ka⟩, ?_, ?_⟩
  · intro hr hw out
    show execAddi d a ka i s = _ ∧ execAndi d a ka i s = _ ∧ execOri d a ka i s = _ ∧ execXori d a ka i s = _ ∧
      execShli d a ka sh s = _ ∧ execShri d a ka sh s = _ ∧ execShai d a ka sh s = _ ∧ execMov d a ka s = _ ∧
      execNeg d a ka s = _ ∧ execNot d a ka s = _ ∧ execClz d a ka s = _ ∧ execPopc d a ka s = _ ∧ execSextb d a ka s = _ ∧
      execSexth d a ka s = _ ∧ execSextw d a ka s = _ ∧ execZextb d a ka s = _ ∧ execZexth d a ka s = _ ∧ execZextw d a ka s = _
    have hzextb : zext x 8 = x &&& 0xFF := zext_eq_and x 8 (by decide)
    have hzexth : zext x 16 = x &&& 0xFFFF := zext_eq_and x 16 (by decide)
    have hzextw : zext x 32 = x &&& 0xFFFFFFFF := zext_eq_and x 32 (by decide)
    rw [← ofNat_clzNat, ← popCount_eq, ← sext_eq, ← sext_eq, ← sext_eq, ← hzextb, ← hzexth, ← hzextw]
    have himm (f : Dbl → Dbl) : s.unaryN 2 d a ka f = out (f x) := State.unaryN_ok hr hw 2 f
    have h (f : Dbl → Dbl) : s.unary d a ka f = out (f x) := himm f
    exact ⟨himm _, himm _, himm _, himm _, himm _, himm _, himm _, h _, h _, h _, h _, h _, h _, h _, h _, h _, h _, h _⟩
  · intro p hp
    rw [← immediateTable_words] at hp
    exact immediate_word_roundTrip d a ka i p hp
  · intro p hp
    rw [← shiftTable_words] at hp
    exact shift_word_roundTrip d a ka i sh p hp
  · intro hw
    exact State.finishTc_compute (show s.Reads [] [] from rfl) hw 3 _
  · intro hr hw
    show execLih d imm s = _
    rw [← append_eq_or]
    exact State.unaryN_ok hr hw 3 _
end

section
/-! SUPPORT and PROOFS. Branches (R102–R105, R118–R120): what `State.branch` comes to where the outcomes may be pushed, and
O10 from it. -/

namespace Sys2Proof.Machine

/-- What FOLLOW's meaning and the outcome queues rest on (R103) is the same in two contexts: the handler's mark and the engines
other than the control engine. -/
def TCtx.SameFollowing (c c' : TCtx) : Prop := c'.inh = c.inh ∧ c'.v = c.v ∧ c'.m = c.m ∧ c'.x = c.x

theorem TCtx.eng_congr {c c' : TCtx} (h : c.SameFollowing c') {e : Eng} (he : e ≠ .c) : c'.eng e = c.eng e := by
  obtain ⟨-, hv, hm, hx⟩ := h
  cases e with
  | c => exact absurd rfl he
  | v => exact hv
  | m => exact hm
  | x => exact hx

theorem TCtx.followers_congr {c c' : TCtx} (h : c.SameFollowing c') (follow : BitVec 3) :
    c'.followers follow = c.followers follow := by
  have hinh : c'.inh = c.inh := h.1
  simp only [TCtx.followers, hinh]
  split
  · rfl
  · refine List.filterMap_congr fun p hp => ?_
    have hne : p.1 ≠ .c := by
      rintro hc
      simp [Prod.ext_iff, hc] at hp
    rw [TCtx.eng_congr h hne]

/-- The control engine follows no branch (R103). -/
theorem TCtx.control_notMem_followers (c : TCtx) (follow : BitVec 3) : Eng.c ∉ c.followers follow := by
  unfold TCtx.followers
  split <;> simp

/-- The outcomes are pushed where every follower's queue has room (R103). -/
theorem TCtx.outcome_ok (c : TCtx) (follow : BitVec 3) (dest : Pc)
    (h : ∀ e, e ∈ c.followers follow → (c.eng e).oq.length < 16) : c.outcome follow dest = .ok (c.tell follow dest) := by
  have hroom : (c.followers follow).any (fun e => decide (16 ≤ (c.eng e).oq.length)) = false := by
    simpa [List.any_eq_false] using h
  simp [TCtx.outcome, hroom, TCtx.tell]

/-- A branch whose outcomes may be pushed, and which has changed nothing that its followers rest on, is made. -/
theorem State.branch_ok {s : State} {c : TCtx} {follow : BitVec 3} (h : s.MayTell follow) (hc : s.me.SameFollowing c)
    (dest : Pc) : s.branch c follow dest = .ok (s.modTc s.cur (fun _ => c.tell follow dest), dest) := by
  obtain ⟨hroom, hquiet⟩ := h
  have hfollowers : c.followers follow = s.me.followers follow := TCtx.followers_congr hc follow
  have houtcome : c.outcome follow dest = .ok (c.tell follow dest) := by
    refine c.outcome_ok follow dest fun e he => ?_
    rw [hfollowers] at he
    have hne : e ≠ .c := fun hec => s.me.control_notMem_followers follow (hec ▸ he)
    rw [TCtx.eng_congr hc hne]
    exact hroom e he
  have hnohold : (!(c.followers follow).isEmpty && !s.controlQuiet s.cur) = false := by
    rw [hfollowers]
    rcases hquiet with hnone | hquiet
    · simp [hnone]
    · simp [hquiet]
  simp only [State.branch, houtcome, hnohold]
  rfl

/-- The same for the whole instruction: it is the branch of the statements. -/
theorem State.finishJump_branch {s : State} {c : TCtx} {follow : BitVec 3} (h : s.MayTell follow) (hc : s.me.SameFollowing c)
    (n : Nat) (dest : Pc) : s.finishJump .c n (s.branch c follow dest) = s.branches n c follow dest := by
  rw [State.branch_ok h hc]
  rfl

/-- An offset of 0 branches to the instruction itself (R102). -/
theorem target_zero (pc : Pc) : target pc 0 = pc := by simp [target]

/-- A branch from an even address goes to an even address (R102). -/
theorem target_even (pc : Pc) (off : BitVec 16) (h : pc.getLsbD 0 = false) : (target pc off).getLsbD 0 = false := by
  rw [target, BitVec.getLsbD_add (by decide), h]
  simp

/-- BT and BF with a condition at the head of the queue they name: popped unless peeked, and the branch taken where its value is
the instruction's sense (R118). -/
theorem State.condBranch_of_head {s : State} {follow : BitVec 3} (h : s.MayTell follow) (pk cqv : Bool) (off : BitVec 16)
    (sense : Bool) (e : CEntry) (rest : List CEntry) (hq : (if cqv then s.me.cqv else s.me.cqc) = e :: rest) :
    s.condBranch pk cqv follow off sense =
      s.branches 2 (if pk then s.me else if cqv then { s.me with cqv := rest } else { s.me with cqc := rest }) follow
        (if e.value = sense then target s.me.c.pc off else pcAdd s.me.c.pc 2) := by
  have hsame : s.me.SameFollowing
      (if pk then s.me else if cqv then { s.me with cqv := rest } else { s.me with cqc := rest }) := by
    cases pk <;> cases cqv <;> exact ⟨rfl, rfl, rfl, rfl⟩
  have hq' : (if cqv then (s.tc s.cur).cqv else (s.tc s.cur).cqc) = e :: rest := hq
  rw [State.condBranch, hq']
  exact State.finishJump_branch h hsame 2 _

/-- CALL with room on the link stack (R104). -/
theorem execCall_ok {s : State} {follow : BitVec 3} (h : s.MayTell follow) (off : BitVec 16)
    (hroom : s.me.c.stack.length < 8) : execCall follow off s =
      s.branches 2 { s.me with c := { s.me.c with stack := pcAdd s.me.c.pc 2 :: s.me.c.stack } } follow
        (target s.me.c.pc off) := by
  have hroom' : ¬ 8 ≤ (s.tc s.cur).c.stack.length := Nat.not_le.mpr hroom
  simp only [execCall, if_neg hroom']
  refine State.finishJump_branch h ?_ 2 _
  exact ⟨rfl, rfl, rfl, rfl⟩

/-- RET with an entry on the link stack (R104). -/
theorem execRet_ok {s : State} {follow : BitVec 3} (h : s.MayTell follow) (a : Pc) (rest : List Pc)
    (hstack : s.me.c.stack = a :: rest) : execRet follow s =
      s.branches 1 { s.me with c := { s.me.c with stack := rest } } follow a := by
  have hstack' : (s.tc s.cur).c.stack = a :: rest := hstack
  simp only [execRet, hstack']
  refine State.finishJump_branch h ?_ 1 _
  exact ⟨rfl, rfl, rfl, rfl⟩

/-- LOOP counts down to 0 and no further, and branches where it has not reached 0 (R105, R120). -/
theorem execLoop_ok {s : State} {follow : BitVec 3} (h : s.MayTell follow) (lc : BitVec 2) (off : BitVec 16) :
    execLoop lc follow off s =
      let v := if s.me.lc lc = 0 then 0 else s.me.lc lc - 1
      s.branches 2 { s.me with lcs := aset s.me.lcs lc.toNat v } follow
        (if v = 0 then pcAdd s.me.c.pc 2 else target s.me.c.pc off) := by
  refine State.finishJump_branch h ?_ 2 _
  exact ⟨rfl, rfl, rfl, rfl⟩

end Sys2Proof.Machine

open Sys2Proof Sys2Proof.Machine

/-- Settles O10: each form is `State.branch` on the context that it changes, and a branch that may tell its followers is made. -/
theorem branchResult : Obligations.BranchResult := by
  intro s follow off h
  refine ⟨State.finishJump_branch h ⟨rfl, rfl, rfl, rfl⟩ 2 _, ?_, target_even _ off, ?_, execCall_ok h off, execRet_ok h, ?_⟩
  · rintro rfl
    exact target_zero _
  · intro pk cqv e rest hq
    refine ⟨State.condBranch_of_head h pk cqv off true e rest hq, ?_⟩
    refine (State.condBranch_of_head h pk cqv off false e rest hq).trans ?_
    cases e.value <;> rfl
  · intro lc
    refine (execLoop_ok h lc off).trans ?_
    simp only [ite_not]
    rfl

end

section
/-! SUPPORT and PROOFS. The vector instructions that compute (R126, R132): what each shared shape comes to where its sources have
arrived, and O30 (R135, R141–R143, R145, R148, R150, R151) from it. -/

namespace Sys2Proof.Machine

/-! ### What pops and writes leave of a tile's context -/

/-- Pops of feeder entries change the feeders alone (R131). -/
theorem TCtx.vpops_frame (c : TCtx) (codes : List (BitVec 6)) : { c.vpops codes with feed := c.feed } = c := by
  induction codes generalizing c with
  | nil => rfl
  | cons k rest ih =>
    by_cases hk : (decide (48 ≤ k.toNat) && decide (k.toNat < 52)) = true
    · have hpop : c.vpops (k :: rest) =
          { c with feed := aset c.feed (k.toNat % 4) (((aget c.feed (k.toNat % 4)).getD []).drop 1) }.vpops rest := by
        rw [TCtx.vpops, List.foldl_cons, if_pos hk]
        rfl
      rw [hpop]
      exact congrArg (fun x : TCtx => { x with feed := c.feed }) (ih _)
    · have hkeep : c.vpops (k :: rest) = c.vpops rest := by
        rw [TCtx.vpops, List.foldl_cons, if_neg hk]
        rfl
      rw [hkeep]
      exact ih c

@[simp] theorem TCtx.vpops_tick (c : TCtx) (codes : List (BitVec 6)) : (c.vpops codes).tick = c.tick :=
  (congrArg TCtx.tick (c.vpops_frame codes) :)
@[simp] theorem TCtx.vpops_vflags (c : TCtx) (codes : List (BitVec 6)) : (c.vpops codes).vflags = c.vflags :=
  (congrArg TCtx.vflags (c.vpops_frame codes) :)

/-- An exposed write is one more pending write at most (R126). -/
theorem TCtx.expose_frame (c : TCtx) (vd : Nat) (mask : Mask) (vals : List Lane) (l : Nat) :
    { c.expose vd mask vals l with pending := c.pending } = c := by
  unfold TCtx.expose
  split <;> rfl

@[simp] theorem TCtx.expose_tick (c : TCtx) (vd : Nat) (mask : Mask) (vals : List Lane) (l : Nat) :
    (c.expose vd mask vals l).tick = c.tick :=
  (congrArg TCtx.tick (c.expose_frame vd mask vals l) :)
@[simp] theorem TCtx.expose_vflags (c : TCtx) (vd : Nat) (mask : Mask) (vals : List Lane) (l : Nat) :
    (c.expose vd mask vals l).vflags = c.vflags :=
  (congrArg TCtx.vflags (c.expose_frame vd mask vals l) :)

@[simp] theorem TCtx.setMask_tick (c : TCtx) (n : BitVec 3) (m : Mask) : (c.setMask n m).tick = c.tick := by
  unfold TCtx.setMask
  split <;> rfl

/-! ### Sources and endings -/

section
variable {α : Type} {s : State} {reads : List (BitVec 6 × Mask)} {codes : List (BitVec 6)} {vs : List (List Lane)}

/-- An instruction whose sources have arrived goes on with them (R130, R131). -/
theorem State.VReads.bind (h : s.VReads reads codes vs) (k : List (List Lane) → Except Halt α) :
    (do s.me.exposeCheck reads
        let v ← s.me.vsrcs codes
        k v) = k vs := by
  obtain ⟨hexposed, harrived⟩ := h
  rw [hexposed, harrived]
  rfl

/-- The same where the lanes read stand in a source, so that the sources come first (R130, R148). -/
theorem State.VReads.bind_sourcesFirst {lanes : List (List Lane) → List (BitVec 6 × Mask)} (h : s.VReads (lanes vs) codes vs)
    (k : List (List Lane) → Except Halt α) :
    (do let v ← s.me.vsrcs codes
        s.me.exposeCheck (lanes v)
        k v) = k vs := by
  obtain ⟨hexposed, harrived⟩ := h
  rw [harrived]
  change (do s.me.exposeCheck (lanes vs); k vs) = k vs
  rw [hexposed]
  rfl

end

/-- A vector instruction retires with one tick more (R126). -/
theorem State.finishV_retire {s : State} {c : TCtx} {g : TCtx → TCtx} (n : Nat) (h : g s.me = { c with tick := c.tick + 1 }) :
    s.finishV n (.ok c) = s.retire .v n g := by
  rw [State.finishV_ok, ← h]
  rfl

/-! ### The shapes -/

/-- The flags of the active lanes, gathered lane by lane or from the list of all results. -/
theorem foldl_activeFlags (p : Nat → Bool) (f : Nat → FR) (is : List Nat) (fl : Fl) :
    is.foldl (fun a i => if p i then a ||| (f i).fl else a) fl =
      fl ||| (is.map (fun i => if p i then f i else ⟨0, 0⟩)).foldl (fun a r => a ||| r.fl) 0 := by
  have hlane (a : Fl) (i : Nat) : (if p i then a ||| (f i).fl else a) = a ||| (if p i then f i else ⟨0, 0⟩ : FR).fl := by
    split
    · rfl
    · exact BitVec.or_zero.symm
  have hgather (rs : List FR) (x : Fl) : rs.foldl (fun a r => a ||| r.fl) x = (rs.map FR.fl).foldl (fun a b => a ||| b) x :=
    List.foldl_map.symm
  have hpull (xs : List Fl) : fl ||| xs.foldl (fun a b => a ||| b) 0 = xs.foldl (fun a b => a ||| b) (fl ||| 0) :=
    List.foldl_assoc.symm
  have hzero : fl ||| (0 : Fl) = fl := BitVec.or_zero
  simp only [hlane]
  rw [hgather, hpull, hzero, ← hgather, List.foldl_map]

section
variable {s : State} {codes : List (BitVec 6)} {vs : List (List Lane)} {va vb vd : BitVec 6} {m : Msk}

/-- An elementwise instruction gives each active lane the value of `f` at that lane's operands (R132). -/
theorem State.elementwise_lanewise (h : s.VReads (codes.map (fun k => (k, s.me.active m))) codes vs) (n l : Nat)
    (f : List Lane → FR) :
    s.elementwise n vd m codes l f = s.lanewise n vd m codes l (fun i => f (vs.map (fun v => v.getD i 0))) := by
  have hbits (i : Nat) (r : FR) : (if (s.me.active m).getLsbD i then r else ⟨0, 0⟩ : FR).bits =
      if (s.me.active m).getLsbD i then r.bits else 0 := by
    split <;> rfl
  rw [State.elementwise_ok s n vd m codes l f vs h]
  refine State.finishV_retire n ?_
  simp only [foldl_activeFlags, List.map_map, Function.comp_def, hbits, TCtx.expose_tick, TCtx.vpops_tick]

theorem getD_map_lane (vs : List (List Lane)) (k i : Nat) : (vs.map (fun v => v.getD i 0)).getD k 0 = lane vs k i := by
  simp only [lane, List.getD_eq_getElem?_getD, List.getElem?_map]
  cases vs[k]? <;> rfl

theorem State.elementwise_op1 (h : s.VReads [(va, s.me.active m)] [va] vs) (n l : Nat) (f : Lane → FR) :
    s.elementwise n vd m [va] l (op1 f) = s.lanewise n vd m [va] l (fun i => f (lane vs 0 i)) := by
  refine (State.elementwise_lanewise (codes := [va]) h n l _).trans ?_
  simp only [op1, getD_map_lane]

theorem State.elementwise_op2 (h : s.VReads [(va, s.me.active m), (vb, s.me.active m)] [va, vb] vs) (n l : Nat)
    (f : Lane → Lane → FR) :
    s.elementwise n vd m [va, vb] l (op2 f) = s.lanewise n vd m [va, vb] l (fun i => f (lane vs 0 i) (lane vs 1 i)) := by
  refine (State.elementwise_lanewise (codes := [va, vb]) h n l _).trans ?_
  simp only [op2, getD_map_lane]

/-- A whole-vector instruction writes every lane (R132). -/
theorem State.wholeVector_wholly {reads : Mask → List Mask} (h : s.VReads (codes.zip (reads (s.me.active m))) codes vs)
    (l : Nat) (f : Mask → List (List Lane) → List Lane × Fl) :
    s.wholeVector vd m codes l reads f = s.wholly vd codes l (f (s.me.active m) vs).1 (f (s.me.active m) vs).2 := by
  rw [State.wholeVector_ok s vd m codes l reads f vs h]
  exact State.finishV_retire 3 (by simp only [TCtx.expose_tick, TCtx.vpops_tick])

/-- A write of the active lanes without flags is a lanewise instruction. -/
theorem State.finishV_eachActive (n l : Nat) (g : Nat → Lane) :
    s.finishV n (.ok ((s.me.vpops codes).expose vd.toNat (s.me.active m) (eachActive (s.me.active m) g) l)) =
      s.lanewise n vd m codes l (fun i => ⟨g i, 0⟩) := by
  have hzero (fl : Fl) : fl ||| (0 : Fl) = fl := BitVec.or_zero
  refine State.finishV_retire n ?_
  simp only [hzero, ite_self, List.foldl_fixed, TCtx.expose_tick, TCtx.expose_vflags, TCtx.vpops_tick, TCtx.vpops_vflags]
  rfl

section
variable {reads : List (BitVec 6 × Mask)}

/-- The same with the sources that the values come from (R130, R131). -/
theorem State.VReads.write_lanewise (h : s.VReads reads codes vs) (n l : Nat) (g : List (List Lane) → Nat → Lane) :
    s.finishV n (do
      s.me.exposeCheck reads
      let v ← s.me.vsrcs codes
      .ok ((s.me.vpops codes).expose vd.toNat (s.me.active m) (eachActive (s.me.active m) (g v)) l)) =
      s.lanewise n vd m codes l (fun i => ⟨g vs i, 0⟩) :=
  (congrArg (s.finishV n) (h.bind _)).trans (State.finishV_eachActive n l _)

end

/-- A permute reads the lanes that the active ones take (R148). -/
theorem State.permute_lanewise {f : Nat → Nat} (h : s.VReads [(va, readLanes (s.me.active m) f)] [va] vs) (l : Nat) :
    s.permute vd va m l f none = s.lanewise 3 vd m [va] l (fun i => ⟨lane vs 0 (f i), 0⟩) :=
  h.write_lanewise 3 l (fun v i => lane v 0 (f i))

/-- A broadcast reads the one lane (R148). -/
theorem State.permute_broadcast {k : Nat} (h : s.VReads [(va, 1#512 <<< k)] [va] vs) (l : Nat) :
    s.permute vd va m l (fun _ => k) (some k) = s.lanewise 3 vd m [va] l (fun _ => ⟨lane vs 0 k, 0⟩) :=
  h.write_lanewise 3 l (fun v _ => lane v 0 k)

end

/-- A mask operation changes its destination alone (R123, R145). -/
theorem State.maskOp_retire (s : State) (d a b : BitVec 3) (f : Mask → Mask → Mask) :
    s.maskOp d a b f =
      s.retire .v 3 (fun c => { c.setMask d (f (s.me.maskReg a) (s.me.maskReg b)) with tick := c.tick + 1 }) :=
  State.finishV_retire 3 (by simp only [TCtx.setMask_tick])

/-- A compare writes the mask of the active lanes where its condition holds (R143). -/
theorem execVcmp_ok {s : State} {va vb : BitVec 6} {m : Msk} {vs : List (List Lane)}
    (h : s.VReads [(va, s.me.active m), (vb, s.me.active m)] [va, vb] vs) (d ty cc : BitVec 3) (fzi : Bool) :
    execVcmp d va vb m ty cc fzi s = s.retire .v 3 (fun c =>
      { (c.vpops [va, vb]).setMask d (condMask (s.me.active m) (fun i => vcond ty cc fzi (lane vs 0 i) (lane vs 1 i))) with
        tick := c.tick + 1 }) :=
  (congrArg (s.finishV 3) (h.bind _)).trans (State.finishV_retire 3 (by simp only [TCtx.setMask_tick, TCtx.vpops_tick]; rfl))

/-- VSEL takes each lane from the one source or the other, by the mask (R142). -/
theorem execVsel_ok {s : State} {va vb : BitVec 6} {m : Msk} {vs : List (List Lane)}
    (h : s.VReads [(va, s.me.active m), (vb, ~~~(s.me.active m))] [va, vb] vs) (vd : BitVec 6) :
    execVsel vd va vb m s = s.wholly vd [va, vb] 2
      ((List.range 512).map (fun i => if (s.me.active m).getLsbD i then lane vs 0 i else lane vs 1 i)) 0 := by
  have hlane (p : Bool) (i : Nat) : (if p then lane vs 0 i else lane vs 1 i) = lane vs (if p then 0 else 1) i :=
    (apply_ite (lane vs · i) ..).symm
  simp only [hlane]
  rw [execVsel, State.wholeVector_wholly (codes := [va, vb]) (reads := fun act => [act, ~~~act]) h]
  simp only [lane]

/-- VPERM takes each active lane from the lane of VA that VB's lane names (R148). -/
theorem execVperm_ok {s : State} {va vb : BitVec 6} {m : Msk} {vs : List (List Lane)}
    (h : s.VReads [(va, readLanes (s.me.active m) (fun i => (lane vs 1 i).toNat % 512)), (vb, s.me.active m)] [va, vb] vs)
    (vd : BitVec 6) :
    execVperm vd va vb m s = s.lanewise 3 vd m [va, vb] 5 (fun i => ⟨lane vs 0 ((lane vs 1 i).toNat % 512), 0⟩) :=
  (congrArg (s.finishV 3) (State.VReads.bind_sourcesFirst (lanes := fun v =>
    [(va, readLanes (s.me.active m) (fun i => (lane v 1 i).toNat % 512)), (vb, s.me.active m)]) h _)).trans
    (State.finishV_eachActive 3 5 _)

/-- VRAND draws each active lane from the key and the counter in the first two lanes of its sources (R150). -/
theorem execVrand_ok {s : State} {va vb : BitVec 6} {vs : List (List Lane)} (h : s.VReads [(va, 3), (vb, 3)] [va, vb] vs)
    (vd : BitVec 6) (m : Msk) (f32 : Bool) :
    let u (i : Nat) : Lane := (fmix64 ((lane vs 0 1 ++ lane vs 0 0) ^^^
      ((lane vs 1 1 ++ lane vs 1 0) + BitVec.ofNat 64 i))).extractLsb' 32 32
    execVrand vd va vb m f32 s = s.lanewise 3 vd m [va, vb] 8 (fun i => ⟨if f32 then drawF32 (u i) else u i, 0⟩) :=
  h.write_lanewise 3 8 _

/-! ### Words -/

/-- A first parcel is its high fields over its low one (R34). -/
theorem p0_eq_or (eng len : BitVec 2) (op low : BitVec 6) :
    p0 eng len op low = (eng ++ len ++ op).setWidth 16 <<< 6 ||| low.setWidth 16 := by
  have h := BitVec.setWidth_append_eq_shiftLeft_setWidth_or (b := eng ++ len ++ op) (b' := low) (w'' := 16)
  exact (BitVec.setWidth_eq _).symm.trans h

/-- The operand parcel of a vector instruction without sources is its mask fields (R151). -/
theorem maskParcel_eq (n : BitVec 3) (neg : Bool) :
    (0#6 ++ 0#6 ++ n ++ bit neg 1 : Parcel) = n.setWidth 16 <<< 1 ||| bit neg 16 := by
  have h := BitVec.setWidth_append_append_eq_shiftLeft_setWidth_or (b := (0#6 ++ 0#6 : BitVec 12)) (b' := n) (b'' := bit neg 1)
    (w''' := 16)
  refine ((BitVec.setWidth_eq _).symm.trans h).trans ?_
  rw [setWidth_bit neg 16 (by decide)]
  simp

/-- The words of VLI (R151). -/
theorem encode_vli (vd : BitVec 6) (m : Msk) (imm : BitVec 16) :
    encode (.vli vd m imm) = [0x6A80#16 ||| vd.setWidth 16, m.msk.setWidth 16 <<< 1 ||| bit m.mneg 16, imm] := by
  have hbase : ((1 : BitVec 2) ++ (2 : BitVec 2) ++ (0x2a : BitVec 6)).setWidth 16 <<< 6 = 0x6A80#16 := by decide
  show [p0 1 2 0x2a vd, 0#6 ++ 0#6 ++ m.msk ++ bit m.mneg 1, imm] = _
  rw [p0_eq_or, hbase, maskParcel_eq]

end Sys2Proof.Machine

open Sys2Proof Sys2Proof.Machine

/-- Settles O30: each instruction is one of the shapes, and the shape's own lemma gives its result. -/
theorem vectorLogicResult : Obligations.VectorLogicResult := by
  intro s vd va vb m d p q imm n ty cc fzi f32 vs act a b mask perm
  refine ⟨fun h => ?_, fun h => ?_, fun h => ?_, fun h => ?_, ?_, ?_, ?_, ?_, ?_, ?_, ?_, fun h => ?_, fun h => ?_, fun h => ?_,
    fun h => ?_, ?_, ?_, ?_⟩
  · have hout (f : Lane → Lane → Lane) : s.elementwise 3 vd m [va, vb] 2 (op2 (fun x y => plain (f x y))) =
        s.lanewise 3 vd m [va, vb] 2 (fun i => ⟨f (a i) (b i), 0⟩) := State.elementwise_op2 h 3 2 _
    exact ⟨hout _, hout _, hout _, hout _, hout _, hout _, execVcmp_ok h d ty cc fzi⟩
  · exact ⟨State.elementwise_op1 h 3 2 _, State.elementwise_op1 h 3 2 _⟩
  · exact State.elementwise_lanewise (codes := []) h 3 2 (fun _ => plain (imm.signExtend 32))
  · exact execVsel_ok h vd
  · exact s.maskOp_retire d p q (fun x y => x &&& y)
  · exact s.maskOp_retire d p q (fun x y => x ||| y)
  · exact s.maskOp_retire d p q (fun x y => x ^^^ y)
  · exact s.maskOp_retire d p q (fun x y => x &&& ~~~y)
  · exact s.maskOp_retire d p 0 (fun x _ => ~~~x)
  · exact s.maskOp_retire d 0 0 (fun _ _ => allLanes)
  · exact s.maskOp_retire d 0 0 (fun _ _ => 0)
  · exact execVperm_ok h vd
  · exact State.permute_lanewise h 5
  · exact State.permute_broadcast h 3
  · exact execVrand_ok h vd m f32
  · exact State.finishV_retire 1 rfl
  · decide
  · exact encode_vli vd m imm

end

section
/-! SUPPORT and PROOFS. The parameter stacks of the matrix and the copy engine (R175, R176, R209, R210): what an operation of
either stack comes to, said once for both engines, and O36 from it. -/

namespace Sys2Proof.Machine

/-- A trap of the parameter stack of engine `e`, whose TVAL is all ones (R176, R210). -/
def State.stackTrap (s : State) (e : Eng) (code : Byte) : Out :=
  .next (s.takeTrap s.cur e .fault ⟨code, 0xFFFFFFFFFFFFFFFF#64⟩)

/-! ### The check -/

section
variable {α : Type} {st : List Dbl} {needs pops pushes : Nat} (r : Except Halt α)

theorem stackCheck_bind_ok (h : needs ≤ st.length) (w : st.length - pops + pushes ≤ 8) :
    (do stackCheck st needs pops pushes; r) = r := by
  rw [stackCheck, if_neg (Nat.not_lt.2 h), if_neg (Nat.not_lt.2 w)]
  rfl

theorem stackCheck_bind_under (h : st.length < needs) :
    (do stackCheck st needs pops pushes; r) = trapE cSTKUNDER 0xFFFFFFFFFFFFFFFF#64 := by
  rw [stackCheck, if_pos h]
  rfl

theorem stackCheck_bind_over (h : needs ≤ st.length) (w : 8 < st.length - pops + pushes) :
    (do stackCheck st needs pops pushes; r) = trapE cSTKOVER 0xFFFFFFFFFFFFFFFF#64 := by
  rw [stackCheck, if_neg (Nat.not_lt.2 h), if_pos w]
  rfl

end

/-! ### Pushes (R175, R209) -/

section
variable {s : State} {st : List Dbl} (e : Eng)

theorem State.finishTc_push (hroom : st.length < 8) (n : Nat) (r : Except Halt TCtx) :
    s.finishTc e n (do stackCheck st 0 0 1; r) = s.finishTc e n r :=
  congrArg (s.finishTc e n) (stackCheck_bind_ok r (Nat.zero_le _) hroom)

theorem State.finishTc_push_full (hfull : st.length = 8) (n : Nat) (r : Except Halt TCtx) :
    s.finishTc e n (do stackCheck st 0 0 1; r) = s.stackTrap e cSTKOVER :=
  congrArg (s.finishTc e n) (stackCheck_bind_over r (Nat.zero_le _) (Nat.lt_succ_of_le (Nat.le_of_eq hfull.symm)))

/-- A parameter word pushed: the package is the one that the read of the word leaves (R175). -/
theorem State.finishAt_paramWord {s' : State} {w : BitVec 6} {v : Dbl} (hroom : st.length < 8)
    (hword : s.paramWord s.cur w = .ok (s', v)) (push : Dbl → TCtx → TCtx) :
    s.finishAt e 1 accR (do
      stackCheck st 0 0 1
      let (u, x) ← s.paramWord s.cur w
      .ok (u.modTc s.cur (push x))) = s.retired (s'.modTc s.cur (push v)) e 1 := by
  rw [stackCheck_bind_ok _ (Nat.zero_le _) hroom, hword]
  rfl

end

/-! ### The stack family (R176, R210) -/

/-- What the operations `op` of an engine come to on its stack `st`: `put` of the stack that their effect gives, or one of two
traps. -/
structure StackFamily (st : List Dbl) (op : Nat → Nat → Nat → (List Dbl → List Dbl) → Out) (put : List Dbl → Out)
    (full under : Out) : Prop where
  applies : ∀ {needs pops pushes : Nat} (f : List Dbl → List Dbl), needs ≤ st.length → st.length - pops + pushes ≤ 8 →
    op needs pops pushes f = put (f st)
  overflows : ∀ {needs pops pushes : Nat} (f : List Dbl → List Dbl), needs ≤ st.length → 8 < st.length - pops + pushes →
    op needs pops pushes f = full
  underflows : ∀ {needs : Nat} (pops pushes : Nat) (f : List Dbl → List Dbl), st.length < needs →
    op needs pops pushes f = under

theorem State.stackFamily (s : State) (e : Eng) (st : List Dbl) (put : TCtx → List Dbl → TCtx) :
    StackFamily st
      (fun needs pops pushes f => s.finishTc e 1 (do
        let r ← stackOp st needs pops pushes f
        .ok (put s.me r)))
      (fun r => s.retire e 1 (fun c => put c r)) (s.stackTrap e cSTKOVER) (s.stackTrap e cSTKUNDER) where
  applies f h w := by
    rw [stackOp_ok st _ _ _ f h w]
    rfl
  overflows f h w := by
    rw [stackOp_over st _ _ _ f h w]
    rfl
  underflows pops pushes f h := by
    rw [stackOp_under st _ pops pushes f h]
    rfl

theorem State.mstackOp_family (s : State) :
    StackFamily s.me.mstack s.mstackOp (fun r => s.retire .m 1 (fun c => { c with mstack := r })) (s.stackTrap .m cSTKOVER)
      (s.stackTrap .m cSTKUNDER) :=
  s.stackFamily .m s.me.mstack (fun c r => { c with mstack := r })

theorem State.xstackOp_family (s : State) :
    StackFamily s.me.xstack s.xstackOp (fun r => s.retire .x 1 (fun c => { c with xstack := r })) (s.stackTrap .x cSTKOVER)
      (s.stackTrap .x cSTKUNDER) :=
  s.stackFamily .x s.me.xstack (fun c r => { c with xstack := r })

section
variable {st : List Dbl} {op : Nat → Nat → Nat → (List Dbl → List Dbl) → Out} {put : List Dbl → Out} {full under : Out}

/-- A copy of an entry onto a full stack is a ninth entry. -/
theorem StackFamily.copy_full (h : StackFamily st op put full under) (hfull : st.length = 8) :
    op 1 0 1 stDup = full ∧ op 2 0 1 stOver = full :=
  ⟨h.overflows stDup (by omega) (by omega), h.overflows stOver (by omega) (by omega)⟩

theorem StackFamily.empty (h : StackFamily st op put full under) (hst : st = []) :
    op 1 0 1 stDup = under ∧ op 1 1 0 stDrop = under := by
  subst hst
  exact ⟨h.underflows 0 1 stDup Nat.one_pos, h.underflows 1 0 stDrop Nat.one_pos⟩

theorem StackFamily.one_entry {b : Dbl} {r : List Dbl} (h : StackFamily st op put full under) (hst : st = b :: r)
    (hlen : st.length ≤ 8) : op 1 1 0 stDrop = put r ∧ (st.length < 8 → op 1 0 1 stDup = put (b :: b :: r)) := by
  subst hst
  exact ⟨h.applies stDrop (Nat.le_add_left ..) (Nat.le_of_succ_le hlen),
    fun hroom => h.applies stDup (Nat.le_add_left ..) hroom⟩

theorem StackFamily.two_entries {b a : Dbl} {r : List Dbl} (h : StackFamily st op put full under) (hst : st = b :: a :: r)
    (hlen : st.length ≤ 8) :
    op 2 2 2 stSwap = put (a :: b :: r) ∧ (st.length < 8 → op 2 0 1 stOver = put (a :: b :: a :: r)) ∧
      ∀ g : Dbl → Dbl → Dbl, op 2 2 1 (stBin g) = put (g a b :: r) := by
  subst hst
  exact ⟨h.applies stSwap (Nat.le_add_left ..) hlen, fun hroom => h.applies stOver (Nat.le_add_left ..) hroom,
    fun g => h.applies (stBin g) (Nat.le_add_left ..) (Nat.le_of_succ_le hlen)⟩

end

/-! ### XFMT (R218) -/

/-- A format word below 2^25 with a code that exists has no field that XFMT refuses (R203). -/
theorem formatWord_accepted {v : Dbl} (hv : v.toNat < 2 ^ 25) (hcode : v.toNat % 16 ≤ 6) :
    ¬ (decide (v.extractLsb' 25 39 ≠ 0#39) || decide (6 < (v.extractLsb' 0 4).toNat)) = true := by
  have hhigh : v.extractLsb' 25 39 = 0#39 := by
    apply BitVec.eq_of_toNat_eq
    rw [BitVec.extractLsb'_toNat, Nat.shiftRight_eq_div_pow, Nat.div_eq_of_lt hv]
    rfl
  have hlow : (v.extractLsb' 0 4).toNat = v.toNat % 16 := by
    rw [BitVec.extractLsb'_toNat]
    rfl
  simp [hhigh, hlow, hcode]

theorem execXfmt_ok {s : State} {b : Dbl} {r : List Dbl} (bank : BitVec 5) (hst : s.me.xstack = b :: r)
    (hlen : s.me.xstack.length ≤ 8) (hb : b.toNat < 2 ^ 25) (hcode : b.toNat % 16 ≤ 6) :
    execXfmt bank s = s.retire .x 1 (fun c => { c with xstack := r, bfmt := aset c.bfmt bank.toNat (b.setWidth 25) }) := by
  have hneeds : 1 ≤ (s.tc s.cur).xstack.length := by simp [hst]
  have hroom : (s.tc s.cur).xstack.length - 1 + 0 ≤ 8 := (Nat.sub_le ..).trans hlen
  have htop : (s.tc s.cur).xstack.getD 0 0 = b := by rw [hst]; rfl
  have hrest : (s.tc s.cur).xstack.drop 1 = r := by rw [hst]; rfl
  simp only [execXfmt, stackCheck_bind_ok _ hneeds hroom, htop, hrest, if_neg (formatWord_accepted hb hcode)]
  rfl

theorem execXfmt_under {s : State} (bank : BitVec 5) (hst : s.me.xstack = []) :
    execXfmt bank s = s.stackTrap .x cSTKUNDER :=
  congrArg (s.finishTc .x 1) (stackCheck_bind_under _ (by simp [hst]))

end Sys2Proof.Machine

open Sys2Proof Sys2Proof.Machine

/-- Settles O36: both engines' operations are one family, whose three outcomes give every clause; literals, parameter words and
XFMT pass or fail the same check. -/
theorem stackResult : Obligations.StackResult := by
  intro s s' k h w bank v m x putM putX full under
  have hm := s.mstackOp_family
  have hx := s.xstackOp_family
  refine ⟨rfl, rfl, fun hroom => ?_, fun hroom => ?_, fun hfull => ?_, fun hfull => ?_, hm.empty, fun hfew i hi => ?_,
    fun hnil => ?_, fun hfew i hi => ?_, by decide, by decide, fun b r => hm.one_entry, fun b a r hst hlen => ?_,
    fun b r hst hlen => ?_, fun b a r hst hlen => ?_⟩
  · have hlit (n : Nat) (d : Dbl) : s.mlit n d = putM n (d :: m) := State.finishTc_push .m hroom n _
    exact ⟨hlit _ _, hlit _ _, hlit _ _, fun hword =>
      State.finishAt_paramWord .m hroom hword (fun d c => { c with mstack := d :: c.mstack })⟩
  · have hlit (n : Nat) (d : Dbl) : s.xlit n d = putX n (d :: x) := State.finishTc_push .x hroom n _
    exact ⟨hlit _ _, hlit _ _, hlit _ _, fun hword =>
      State.finishAt_paramWord .x hroom hword (fun d c => { c with xstack := d :: c.xstack })⟩
  · exact ⟨State.finishTc_push_full .m hfull 1 _, hm.copy_full hfull⟩
  · exact ⟨State.finishTc_push_full .x hfull 1 _, hx.copy_full hfull⟩
  · fin_cases hi <;> exact hm.underflows _ _ _ hfew
  · obtain ⟨hdup, hdrop⟩ := hx.empty hnil
    exact ⟨hdup, hdrop, execXfmt_under bank hnil⟩
  · fin_cases hi <;> exact hx.underflows _ _ _ hfew
  · obtain ⟨hswap, hover, hbin⟩ := hm.two_entries hst hlen
    exact ⟨hswap, hover, hbin _, hbin _, hbin _, hbin _⟩
  · obtain ⟨hdrop, hdup⟩ := hx.one_entry hst hlen
    exact ⟨hdrop, hdup, execXfmt_ok bank hst hlen⟩
  · obtain ⟨hswap, hover, hbin⟩ := hx.two_entries hst hlen
    exact ⟨hswap, hover, hbin _, hbin _, hbin _, hbin _⟩

end

section
/-! SUPPORT and PROOFS. Queue management, compares, CHKP, WINSET and NOP (R111, R116, R117, R120, R267, R270): reads and room in
the condition queue, said once, the word of WINSET, and O9 from them. -/

namespace Sys2Proof.Machine

/-! ### Reads and room in CQC -/

/-- An instruction whose sources are there goes on with their values (R98). -/
theorem State.finishTc_read {s : State} {rs : List Src} {vs : List Dbl} (h : s.Reads rs vs) (n : Nat)
    (k : List Dbl → Except Halt TCtx) : s.finishTc .c n (s.me.readQ rs >>= k) = s.finishTc .c n (k vs) :=
  congrArg (fun r => s.finishTc .c n (r >>= k)) h

theorem roomC_bind_ok {q : List CEntry} (h : q.length < 8) (r : Except Halt TCtx) : (do roomC q; r) = r := by
  rw [roomC, if_pos h]
  rfl

/-- A producer that finds a full condition queue waits (R101). -/
theorem roomC_bind_wait {q : List CEntry} (h : 8 ≤ q.length) (r : Except Halt TCtx) : (do roomC q; r) = waitE := by
  rw [roomC, if_neg (Nat.not_lt.2 h)]
  rfl

/-- The pops of control queues leave the condition queue that a compare pushes into. -/
theorem TCtx.pushC_popQ (c : TCtx) (rs : List Src) (value err : Bool) :
    (c.popQ rs).pushC value err = { c.popQ rs with cqc := c.cqc ++ [⟨value, err⟩] } := by
  rw [TCtx.pushC, TCtx.popQ_cqc]

/-- A compare whose sources are there and whose entry has room: the pops, and the entry that its values give (R101, R117). -/
theorem State.finishTc_compare {s : State} {rs : List Src} {vs : List Dbl} (hr : s.Reads rs vs) (hroom : s.me.cqc.length < 8)
    (n : Nat) (f : List Dbl → Bool) :
    s.finishTc .c n (do
      let vs ← s.me.readQ rs
      roomC s.me.cqc
      .ok ((s.me.popQ rs).pushC (f vs) false)) =
    s.retire .c n (fun c => { c.popQ rs with cqc := c.cqc ++ [⟨f vs, false⟩] }) := by
  rw [State.finishTc_read hr, roomC_bind_ok hroom, TCtx.pushC_popQ]
  rfl

/-! ### Queue management -/

/-- QCLR removes the slots that it counts, those present at its issue, where all of them are filled (R116). -/
theorem execQclr_filled {s : State} {q : BitVec 4} {k : Nat} (hcount : s.me.c.clearing.getD (s.me.q q).length = k)
    (h : ((s.me.q q).take k).all Slot.isFilled = true) :
    execQclr q s = s.retire .c 1 (fun c => c.setQ q ((c.q q).drop k)) := by
  subst hcount
  exact if_pos h

/-! ### CHKP and windows -/

theorem execChkp_full {s : State} (h : 8 ≤ s.me.cqc.length) : execChkp s = .next (s.stand s.cur .c) :=
  congrArg (s.finishTc .c 1) (roomC_bind_wait h _)

theorem execChkp_ok {s : State} (h : s.me.cqc.length < 8) : execChkp s = s.retire .c 1 (fun c =>
    { c with cqc := c.cqc ++ [⟨!(s.tile s.cur).reqs.isEmpty || c.wdraw, false⟩] }) :=
  congrArg (s.finishTc .c 1) (roomC_bind_ok h _)

theorem winOf_toNat (w : BitVec 8) : winOf w.toNat = if w = 0 then 64 else 16 * w.toNat := by
  simp only [winOf, BitVec.toNat_eq]
  rfl

/-! ### NOP: a change that changes nothing -/

/-- The later of two writes at one number stands. -/
theorem aset_aset_same {α : Type} (m : AMap α) (k : Nat) (v w : α) : aset (aset m k v) k w = aset m k w := by
  induction m with
  | nil => simp [aset]
  | cons e r ih =>
    obtain ⟨i, x⟩ := e
    rcases Nat.lt_trichotomy k i with h | rfl | h
    · simp [aset, h]
    · simp [aset]
    · simp [aset, Nat.lt_asymm h, Nat.ne_of_gt h, ih]

/-- Two changes to one tile are one. -/
theorem State.modTile_modTile (s : State) (t : PTile) (f g : Tile → Tile) :
    (s.modTile t f).modTile t g = s.modTile t (fun x => g (f x)) := by
  have htile : (s.modTile t f).tile t = f (s.tile t) := by rw [State.tile_modTile, if_pos rfl]
  rw [State.modTile, htile]
  exact congrArg (fun m => { s with tiles := m }) (aset_aset_same s.tiles t.toNat _ _)

/-- A write of a tile as it was, which may list a tile that read as reset, does not show after the engine has gone on. -/
theorem State.advance_modTc_id (s : State) (t : PTile) (e : Eng) (n : Nat) (counted : Bool) :
    (s.modTc t id).advance t e n counted = s.advance t e n counted := by
  rw [State.advance, State.modTc, State.modTc, State.modTile_modTile]
  rfl

/-! ### The word of WINSET -/

/-- WINSET's first parcel over its reserved low field (R42, R270). -/
theorem p0_winset_eq (low : BitVec 6) : p0 0 1 0x2F low = 0x1BC0#16 ||| low.setWidth 16 := by
  have hbase : ((0 : BitVec 2) ++ (1 : BitVec 2) ++ (0x2F : BitVec 6)).setWidth 16 <<< 6 = 0x1BC0#16 := by decide
  rw [p0_eq_or, hbase]

theorem p0_low (eng len : BitVec 2) (op low : BitVec 6) : (p0 eng len op low).extractLsb' 0 6 = low := by
  simp only [p0, BitVec.extractLsb'_append_eq_ite]
  simp

/-- WINSET decodes where its low field and the high byte of its operand parcel are zero (R270). -/
theorem decode_winset (low : BitVec 6) (p : Parcel) : decode [p0 0 1 0x2F low, p] =
    if low = 0 ∧ p.extractLsb' 8 8 = 0 then .ok (.winset (p.extractLsb' 0 8)) else .error .reservedBit := by
  have hlow : rz (p0 0 1 0x2F low) 0x3f = decide (low = 0) := by
    refine (rz_field _ 0 6).trans ?_
    rw [p0_low]
    rfl
  have hhigh : rz p 0xff00 = decide (p.extractLsb' 8 8 = 0) := rz_field p 8 8
  rw [decode_control_two 0x2F low p 0x2F rfl]
  simp only [decodeControl, len_two, rz_zero, Bool.and_true, hlow, hhigh]
  refine (chk_of_wellFormed rfl _).trans ?_
  simp only [Bool.and_eq_true, decide_eq_true_eq]

theorem encode_winset (w : BitVec 8) : encode (.winset w) = [0x1BC0#16, w.setWidth 16] := by
  have hword : (0#8 ++ w : Parcel) = w.setWidth 16 := by
    rw [BitVec.setWidth_eq_append (by decide)]
    rfl
  have hfirst : p0 0 1 0x2F 0#6 = 0x1BC0#16 := by decide
  show [p0 0 1 0x2F 0#6, 0#8 ++ w] = _
  rw [hfirst, hword]

theorem decode_encode_winset (w : BitVec 8) : decode (encode (.winset w)) = .ok (.winset w) := by
  show decode [p0 0 1 0x2F 0#6, 0#8 ++ w] = _
  rw [decode_winset, BitVec.extractLsb'_append_eq_left, BitVec.extractLsb'_append_eq_right]
  rfl

/-- The reserved fields and an n above 255 are refused (R270). -/
theorem decode_winset_reserved (k : BitVec 6) (p : Parcel) (h : k ≠ 0 ∨ 256 ≤ p.toNat) :
    decode [0x1BC0#16 ||| k.setWidth 16, p] = .error .reservedBit := by
  rw [← p0_winset_eq, decode_winset, if_neg]
  rintro ⟨hk, hp⟩
  have hsmall : p.toNat < 256 := by
    have hzero : p.toNat / 256 % 256 = 0 := by
      simpa [BitVec.toNat_eq, BitVec.extractLsb'_toNat, Nat.shiftRight_eq_div_pow] using hp
    have := p.isLt
    omega
  exact h.elim (fun hne => hne hk) (Nat.not_le.2 hsmall)

end Sys2Proof.Machine

open Sys2Proof Sys2Proof.Machine

/-- Settles O9: each instruction is its reads and its room, which the shared lemmas pass, and then its one effect; WINSET's words
are those of `decode_winset`. -/
theorem queueAndCompareResult : Obligations.QueueAndCompareResult := by
  intro s d a b ka kb cc i lc w x y cond
  have hcond (u v : Dbl) : condOf cc u v = cond u v := by
    rw [condOf, ← BitVec.sle_eq_not_slt, ← BitVec.ule_eq_not_ult]
    rfl
  refine ⟨fun hr => State.finishTc_read hr 1 _, ⟨fun hnone => ?_, fun k hsome => ?_⟩, fun hlen => ?_, fun hr hroom => ?_,
    fun hr hroom => ?_, fun hr => State.finishTc_read hr 2 _, execChkp_ok, execChkp_full, by decide, ?_, encode_winset w,
    decode_encode_winset w, fun k p h => ⟨.reservedBit, decode_winset_reserved k p h⟩, fun _ _ => rfl, ?_⟩
  · exact execQclr_filled (by rw [hnone]; rfl)
  · exact execQclr_filled (by rw [hsome]; rfl)
  · rw [List.countP_eq_length_filter]
    exact State.finishTc_compute (show s.Reads [] [] from rfl) (TCtx.roomQ_of_lt [] hlen) 2 _
  · rw [← hcond]
    exact State.finishTc_compare hr hroom 2 (fun vs => condOf cc (vs.getD 0 0) (vs.getD 1 0))
  · rw [← hcond]
    exact State.finishTc_compare hr hroom 2 (fun vs => condOf cc (vs.getD 0 0) (i.signExtend 64))
  · rw [← winOf_toNat]
    rfl
  · exact congrArg Host.Outcome.next (s.advance_modTc_id s.cur .c 1 true).symm

end

section
/-! SUPPORT and PROOFS. The system class in and out of a handler (R347, R349, R363, R364): the context that the return from an
instruction's trap leaves, engine by engine and for all the rest, and O45 from it. -/

namespace Sys2Proof.Machine

/-! ### The return of R349 -/

/-- An engine restarted at an address: it goes on with nothing that it had gathered or fetched (R349). -/
def Engine.restart (g : Engine) (pc : Pc) : Engine := { g.drop with pc := pc }

/-- Engines restarted where the trap of engine `e` says (R349): `e` at TEPC, and the control engine, where it is another, at
TCPC. -/
def TCtx.replay (c : TCtx) (e : Eng) : TCtx :=
  (c.modEng .c (fun g => g.restart c.tcpc)).modEng e (fun g => g.restart c.tepc)

/-- A handler done with: INH and the faults of the records that it stood for are cleared, and a GSYNC goes on (R346, R349). -/
def TCtx.leaveHandler (c : TCtx) : TCtx :=
  ({ c with
    inh := false
    recStop := false
    mq := c.mq.map (fun r => { r with fault := none })
    xrecs := c.xrecs.map (fun r => { r with fault := none }) } : TCtx).resync

theorem exists_engCode (k : BitVec 2) : ∃ e, engCode e = k := by
  have h : ∀ k : BitVec 2, k = 0 ∨ k = 1 ∨ k = 2 ∨ k = 3 := by decide
  rcases h k with rfl | rfl | rfl | rfl
  · exact ⟨.c, rfl⟩
  · exact ⟨.v, rfl⟩
  · exact ⟨.m, rfl⟩
  · exact ⟨.x, rfl⟩

theorem engCode_injective : Function.Injective engCode := by
  intro e g
  cases e <;> cases g <;> decide

theorem State.tc_progress (s : State) (t : PTile) : (s.progress t).tc t = s.tc t := by
  simp [State.progress, State.tc, State.tile_modTile]

/-- The context that a return from the trap of an instruction of engine `e` leaves. -/
theorem State.tc_trapReturn {s : State} {t : PTile} {e : Eng} (hrec : (s.tc t).recStop = false)
    (he : engCode e = (s.tc t).teng) : (s.trapReturn t).tc t = ((s.tc t).replay e).leaveHandler := by
  have hcode : (s.tc t).teng.toNat = (engCode e).toNat := congrArg BitVec.toNat he.symm
  rw [State.trapReturn, State.tc_progress, State.tc_modTc_same]
  simp only [hcode, hrec]
  cases e <;> rfl

/-- A return changes its own tile alone. -/
theorem State.trapReturn_sameBut (s : State) (t : PTile) : s.SameBut (s.trapReturn t) t := by
  refine ⟨rfl, fun q hq => ?_⟩
  rw [State.trapReturn, State.progress, State.tile_modTile, if_neg hq, State.tile_modTc, if_neg hq]

theorem State.trapReturn_sameMem (s : State) (t : PTile) : s.SameMem (s.trapReturn t) :=
  ⟨rfl, fun _ _ => rfl⟩

section
variable (c : TCtx) (e g : Eng)

theorem TCtx.leaveHandler_eng : c.leaveHandler.eng g = c.eng g := by
  cases g <;> rfl

/-- Of the context, a return changes the engines, INH, the faults of records and the state of a stopped GSYNC alone. -/
theorem TCtx.replay_leaveHandler_frame :
    { (c.replay e).leaveHandler with
      c := c.c, v := c.v, m := c.m, x := c.x, inh := c.inh, recStop := c.recStop, mq := c.mq, xrecs := c.xrecs,
      gslots := c.gslots, gsync := c.gsync } = c := by
  cases e <;> rfl

theorem TCtx.replay_eng_trapping : ∃ y : Engine, (c.replay e).eng e = y.restart c.tepc :=
  ⟨_, TCtx.eng_modEng_same _ e _⟩

theorem TCtx.replay_control_fetched : ((c.replay e).eng .c).fetched = [] := by
  cases e <;> rfl

variable {e g}

theorem TCtx.replay_control (h : e ≠ .c) : (c.replay e).eng .c = c.c.restart c.tcpc := by
  rw [TCtx.replay, TCtx.eng_modEng_other _ _ _ _ h.symm, TCtx.eng_modEng_same]
  rfl

theorem TCtx.replay_eng_other (hc : g ≠ .c) (he : g ≠ e) : (c.replay e).eng g = c.eng g := by
  rw [TCtx.replay, TCtx.eng_modEng_other _ _ _ _ he, TCtx.eng_modEng_other _ _ _ _ hc]

theorem TCtx.modEng_restart_count (pc : Pc) :
    ((c.modEng e (fun y => y.restart pc)).eng g).count = (c.eng g).count := by
  by_cases h : g = e
  · rw [h, TCtx.eng_modEng_same]
    rfl
  · rw [TCtx.eng_modEng_other _ _ _ _ h]

theorem TCtx.replay_eng_count : ((c.replay e).eng g).count = (c.eng g).count := by
  rw [TCtx.replay, TCtx.modEng_restart_count, TCtx.modEng_restart_count]

end

/-! ### What a handler may and may not run (R347, R364) -/

section
variable {s : State}

theorem execTret_handler (h : s.me.inh = true) : exec .tret s = .next (s.trapReturn s.cur) := by
  show execTret s = _
  rw [execTret, h]
  rfl

theorem execTret_illegal (h : s.me.inh = false) : exec .tret s = s.finish .c 1 (illegalE .tret) := by
  show execTret s = _
  rw [execTret, h]
  rfl

theorem execYield_illegal (h : s.me.inh = true) : exec .yield s = s.finish .c 1 (illegalE .yield) :=
  if_pos h

/-- A YIELD that no request meets goes on (R266). -/
theorem execYield_unasked (h : s.me.inh = false) (hreqs : (s.tile s.cur).reqs = []) : exec .yield s = s.retired s .c 1 := by
  show execYield s = _
  simp only [execYield, h, hreqs]
  rfl

theorem execFork_illegal (h : s.me.inh = true) (v m x : Bool) :
    exec (.fork v m x) s = s.finish .c 1 (illegalE (.fork v m x)) :=
  if_pos h

theorem execRdv_illegal (h : s.me.inh = true) : exec .rdv s = s.finish .c 1 (illegalE .rdv) :=
  if_pos h

/-- An ILLEGAL trap comes of no translation, and so leaves none (R50, R395). -/
theorem State.touch_illegal (s : State) (t : PTile) (acc : Acc) (v : Dbl) : s.touch t acc ⟨cILLEGAL, v⟩ = s := rfl

theorem execExit_illegal (h : s.me.inh = true) (n : BitVec 3) (abs : Bool) (w : BitVec 2) (a : BitVec 4) :
    exec (.exit n abs w a) s = s.finish .c 1 (illegalE (.exit n abs w a)) := by
  show execExit n abs w a s = _
  simp only [execExit, h, Bool.true_or, if_true]
  exact congrArg (fun u : State => Host.Outcome.next (u.takeTrap s.cur .c .fault _)) (s.touch_illegal s.cur accR _)

end

/-- The word of TRAP (R363). -/
theorem encode_trap (code : BitVec 6) : encode (.trap code) = [0x0EC0#16 ||| code.setWidth 16] := by
  have hbase : ((0 : BitVec 2) ++ (0 : BitVec 2) ++ (0x3B : BitVec 6)).setWidth 16 <<< 6 = 0x0EC0#16 := by decide
  show [p0 0 0 0x3B code] = _
  rw [p0_eq_or, hbase]

end Sys2Proof.Machine

open Sys2Proof Sys2Proof.Machine

/-- Settles O45: a return's context is read off engine by engine and by its frame; each illegal form comes to the trap of
`illegalE`, and TRAP and SCALL are their definitions. -/
theorem handlerRules : Obligations.HandlerRules := by
  refine ⟨fun s hinh hrec => ⟨s.trapReturn s.cur, execTret_handler hinh, ?_⟩, fun s v m x n abs w a code =>
    ⟨execYield_unasked, fun h => ⟨execFork_illegal h v m x, execRdv_illegal h, execExit_illegal h n abs w a, execYield_illegal h⟩,
      execTret_illegal, by decide, rfl, encode_trap code, by decide, rfl⟩⟩
  intro c n
  obtain ⟨e, he⟩ := exists_engCode c.teng
  have hn : n = (c.replay e).leaveHandler := State.tc_trapReturn hrec he
  have heng (g : Eng) : n.eng g = (c.replay e).eng g := hn ▸ (c.replay e).leaveHandler_eng g
  have htrapping (g : Eng) (hg : engCode g = c.teng) : ∃ y : Engine, n.eng g = y.restart c.tepc := by
    rw [heng, engCode_injective (hg.trans he.symm)]
    exact c.replay_eng_trapping e
  have hframe := c.replay_leaveHandler_frame e
  rw [← hn] at hframe
  refine ⟨hn ▸ rfl, (congrArg TCtx.tcause hframe :), (congrArg TCtx.tepc hframe :), (congrArg TCtx.teng hframe :), (congrArg TCtx.tval hframe :),
    (congrArg TCtx.tcpc hframe :), (congrArg TCtx.dbl hframe :), fun g hg => ?_, fun hother => ?_, ?_, fun g hg => ?_, fun g hc hg => ?_,
    fun g => ?_, (congrArg TCtx.qs hframe :), (congrArg TCtx.pending hframe :), (congrArg TCtx.tick hframe :), s.trapReturn_sameBut s.cur,
    s.trapReturn_sameMem s.cur⟩
  · obtain ⟨y, hy⟩ := htrapping g hg
    rw [hy]
    rfl
  · have hne : e ≠ .c := fun h => hother (he.symm.trans (congrArg engCode h))
    exact congrArg Engine.pc ((heng .c).trans (c.replay_control hne))
  · exact (congrArg Engine.fetched (heng .c)).trans (c.replay_control_fetched e)
  · obtain ⟨y, hy⟩ := htrapping g hg
    rw [hy]
    rfl
  · exact (heng g).trans (c.replay_eng_other hc (fun h => hg (h ▸ he)))
  · rw [heng, c.replay_eng_count]

end
